-- ==== Sys2Proof/Word.lean ====
section
/-! DEFINITION. Word sizes of the KRY-9640 (03 R46, 06 R106): the plain abbreviations every file uses. -/

namespace Sys2Proof

/-- A 64-bit scalar: an x register, an address, a logical PC (03 R46). -/
abbrev Word := BitVec 64

/-- One byte of memory. -/
abbrev Byte := BitVec 8

/-- A 512-byte vector register or stream entry (03 R46). -/
abbrev VecWord := BitVec 4096

/-- The lanes of a predicate register (03 R46). -/
abbrev PredWord := BitVec 128

end Sys2Proof
end

