-- ==== Sys2Proof/Syntax.lean ====
section
/-! DEFINITION. The instructions and events of spec/opcode_table.json as one inductive, one constructor per row,
with the operand structures of 05 R85-R99 and the data that the module's events carry. -/

namespace Sys2Proof

/-- The two memory paths of a core (11 R210). -/
inductive Path where
  | c
  | s
  deriving DecidableEq, Repr

/-- The four engines of a core (02 R36); each runs its own slice (14 R283). -/
inductive Engine where
  | c
  | s
  | v
  | m
  deriving DecidableEq, Repr

/-- The fields of a V96 word but class and opcode (05 R90). -/
structure VWord where
  dst  : BitVec 8
  sa   : BitVec 8
  sb   : BitVec 8
  sc   : BitVec 8
  pred : BitVec 5
  neg  : BitVec 1
  ty   : BitVec 6
  rnd  : BitVec 4
  rep  : BitVec 4
  strd : BitVec 8
  sync : BitVec 19
  imm  : BitVec 5
  deriving DecidableEq, Repr

/-- The fields of an S96 word but class, opcode and the reserved bits [38:24] (05 R96). -/
structure SWord where
  xa    : BitVec 6
  xb    : BitVec 6
  xc    : BitVec 6
  slot  : BitVec 6
  stage : BitVec 2
  qr    : BitVec 4
  dir   : BitVec 1
  dims  : BitVec 2
  size  : BitVec 4
  mode  : BitVec 4
  ckm   : BitVec 2
  ckr   : BitVec 2
  sync  : BitVec 19
  imm   : BitVec 5
  deriving DecidableEq, Repr

/-- The fields of an M192 word but class, opcode and the reserved bits [4:0] (05 R98). -/
structure MWord where
  cidx   : BitVec 4
  asrc   : BitVec 1
  aoff   : BitVec 14
  apitch : BitVec 12
  boff   : BitVec 14
  bpitch : BitVec 12
  bt     : BitVec 1
  afmt   : BitVec 6
  bfmt   : BitVec 6
  arnd   : BitVec 4
  asat   : BitVec 1
  acc2   : BitVec 2
  chk    : BitVec 2
  spm    : BitVec 2
  mqs    : BitVec 1
  mxe    : BitVec 1
  sca    : BitVec 14
  scb    : BitVec 14
  xd     : BitVec 6
  fscale : BitVec 32
  rep    : BitVec 8
  sync   : BitVec 19
  deriving DecidableEq, Repr

/-- A unit ID (18 R343): kind, module, die and index. -/
structure UnitId where
  kind   : Nat
  module : Nat
  die    : Nat
  index  : Nat
  deriving DecidableEq, Repr

/-- One declared scratch slot of a kernel (04 R64): offset, stage size and stage count. -/
structure SlotDecl where
  slot   : Nat
  off    : Nat
  size   : Nat
  stages : Nat
  deriving DecidableEq, Repr

/-- One entry of a resume table: the fields for C, S, V and M, DIST above an 18-bit unit offset, all ones for none
(14 R291). -/
structure ResumeRow where
  c : BitVec 32
  s : BitVec 32
  v : BitVec 32
  m : BitVec 32
  deriving DecidableEq, Repr

/-- One entry of a segment table: logical PC, logical units, and per slice the issue count and the signature (14 R291). -/
structure SegRow where
  start : Nat
  len   : Nat
  count : List Nat
  sig   : List (BitVec 32)
  deriving DecidableEq, Repr

/-- A slice map: resume, segment and loop table; a loop row holds the LOOP's logical PC and its word (14 R291). -/
structure SliceMap where
  resume : List ResumeRow
  segs   : List SegRow
  loops  : List (Nat × BitVec 32)
  deriving DecidableEq, Repr

/-- A kernel as the loader takes it from a code object (14 R277): its logical text in stored order, its slots, its segment breaks as
the unit offsets at which a segment begins, its `.emulate` flag. -/
structure Kernel where
  name    : Nat
  units   : List (BitVec 32)
  slots   : List SlotDecl
  breaks  : List Nat
  emulate : Bool
  deriving DecidableEq, Repr

/-- What the slicer makes of a kernel: the slice texts C, S, V, M with their annotations, the slice map, and the granules of the four
texts in the order of the slice image (14 R279, R282, R291). -/
structure Sliced where
  code     : Vector (List (BitVec 32)) 4
  anns     : Vector (List (BitVec 16)) 4
  map      : SliceMap
  granules : List (Engine × Nat)
  deriving DecidableEq, Repr

/-- An entry of the kernel directory (14 R277): the kernel's name, the byte offset of its logical text in the object and its length in
units, its slot declarations, its segment breaks, its `.emulate` flag. -/
structure KernelEntry where
  name    : Nat
  off     : Nat
  len     : Nat
  slots   : List SlotDecl
  breaks  : List Nat
  emulate : Bool
  deriving DecidableEq, Repr

/-- Where a data object of a code object is placed (04 R64). -/
inductive DataPlace where
  | global
  | stack
  | params
  | tileGlobal
  | tileStack
  deriving DecidableEq, Repr

/-- What a symbol stands for: a data object and an offset in it (04 R65), or a kernel (27 R419). -/
inductive SymRef where
  | data (obj off : Nat)
  | kernel (k : Nat)
  deriving DecidableEq, Repr

/-- One data object or parameter block: where it goes, its alignment, its byte offset in the object's data part and its length
(04 R64, R65), and the offsets of `.dword` terms to which a symbol's value is added (04 R65). -/
structure DataObj where
  place : DataPlace
  align : Nat
  off   : Nat
  len   : Nat
  refs  : List (Nat × SymRef)
  deriving DecidableEq, Repr

/-- What goes with one launch record of a code object: its queue, the predecessor `.after` names as an index into the object's
launches (04 R68), the kernel it runs, the parameter block it names, and the tile templates, by their offset in the record, to which a
data symbol's value is added (04 R69). -/
structure ObjLaunch where
  queue  : Nat
  after  : Option Nat
  kernel : Nat
  pblock : Option Nat
  tiles  : List (Nat × Nat)
  deriving DecidableEq, Repr

/-- A code object (14 R277): its bytes, which hold the header, the texts, the data and the launch records; and what the spec names
without a layout, as data: the entries of the kernel directory, the data objects, the symbols of the GOT, what goes with each
launch record (DESIGN CHOICE, log 8). -/
structure CodeObject where
  image    : List Byte
  dir      : List KernelEntry
  data     : List DataObj
  got      : List SymRef
  launches : List ObjLaunch
  deriving DecidableEq, Repr

/-- What the host configures when it creates a partition (17 R327). -/
structure PartConfig where
  part      : Nat
  clusters  : BitVec 48
  ways      : List (Nat × Nat)
  staging   : List (Nat × Nat)
  banks     : List Nat
  ranges    : List Nat
  entries0  : Nat
  entries1  : Nat
  bytes0    : List Nat
  bytes1    : List Nat
  ringBase  : Word
  ringSize  : Nat
  preQueues : BitVec 64
  class0    : BitVec 64
  fpid      : BitVec 16
  weight    : Nat
  ptroot    : Nat
  hostVec   : Nat
  brk       : Bool
  deriving DecidableEq, Repr

/-- A resource the host moves between partitions (17 R327, R328). -/
inductive Resource where
  | cluster (n : Nat)
  | way (slice way : Nat)
  | stagingWay (slice way : Nat)
  | bank (n : Nat)
  | range (n : Nat)
  deriving DecidableEq, Repr

/-- A handle as it travels between modules (13 R266, R274); `era` is how often its version's home had left this module's map when it came
(13 R275). -/
structure Handle where
  fill  : Bool
  ver   : Nat
  home  : Nat
  k     : Nat
  pool  : Nat
  num   : Nat
  name  : Nat
  era   : Nat
  deriving DecidableEq, Repr

/-- A change the debugger makes to a halted image (18 R350, R351, R360). `q` gives the fields of the image's 48 bytes, `mq` its runs of
address, count and entries popped; `regions` gives the region stack, the innermost first, as handler PC and opening LSN, `depth` the recorded
acquisition depth of a handle register, `loopState` a loop counter's state word, START and END; `header` says whether MAGIC, IVER and the reserved bytes are as R351 has them. -/
inductive ImageEdit where
  | x (i : BitVec 6) (v : Word)
  | p (i : BitVec 5) (v : PredWord)
  | t (i : BitVec 3) (v : Word)
  | lc (i : BitVec 2) (v : BitVec 32)
  | v (i : BitVec 6) (v : VecWord)
  | s (i : BitVec 8) (v : BitVec 32)
  | ck (i : BitVec 2) (v : BitVec 32)
  | acc (i : BitVec 4) (elem : Nat) (v : BitVec 32)
  | h (i : BitVec 5) (v : Option Handle)
  | y (i : BitVec 2) (v : List Word)
  | q (i : BitVec 4) (base strides counts mode : Word) (done : Nat) (pair : Word)
  | mq (i : BitVec 1) (runs : List (Word × Nat × Nat))
  | scratch (off : Nat) (v : Byte)
  | rmode (v : BitVec 4)
  | vl (v : BitVec 10)
  | trapvec (v : Word)
  | emuvec (v : Word)
  | faultrec (v : Word)
  | hdl (v : Bool)
  | emu (v : Bool)
  | pc (v : Word)
  | lsn (v : Nat)
  | rho (v : Nat)
  | erls (v : Bool)
  | taskid (v : Word)
  | xvalid (v : BitVec 64)
  | vvalid (v : BitVec 64)
  | pvalid (v : BitVec 24)
  | avalid (v : BitVec 16)
  | asusp (v : BitVec 16)
  | header (sound : Bool)
  | gotbase (v : Word)
  | seed (v : Word)
  | cycle (n : Nat)
  | cycleft (n : Nat)
  | regions (l : List (Word × Nat))
  | depth (i : BitVec 5) (d : Nat)
  | loopState (i : BitVec 2) (active : Bool) (rank start stop : Nat)
  deriving DecidableEq, Repr

/-- What one version of the resource map changes (20 R374, R379). -/
inductive MapChange where
  | core (g : Nat) (live : Bool)
  | l2 (die slice : Nat) (live : Bool)
  | rdc (n : Nat) (live : Bool)
  | bank (die bank : Nat) (live : Bool)
  | channel (die ch : Nat) (live : Bool)
  | port (n : Nat) (live : Bool)
  | bridge (n : Nat) (live : Bool)
  | damask (die : Nat) (live : Bool)
  | mgmt (n : Nat) (live : Bool)
  | clock (mhz : Nat)
  | clusters (die : Nat) (live : Bool)
  | cap (die sensor : Nat) (celsius : Nat)
  | module (fabric : Nat) (joined : Bool)
  | none
  deriving DecidableEq, Repr

/-- A page that moves before its channel leaves (20 R382): its partition and address, and the partition physical address it
moves to. -/
structure PageMove where
  part : Nat
  va   : Nat
  pa   : Nat
  deriving DecidableEq, Repr

/-- The part of a servicing operation that an event carries out (20 R382). -/
inductive ServicePhase where
  | leave
  | back
  deriving DecidableEq, Repr

/-- A firmware image by its header (22 R404): `keyDigest` is the SHAKE256 digest of its PUBKEY, `sigOk` whether its SIG verifies, `digest`
the digest of the whole of it (DESIGN CHOICE, log 2). -/
structure FwImage where
  magic     : BitVec 32
  secver    : BitVec 32
  len       : BitVec 64
  keyDigest : BitVec 256
  sigOk     : Bool
  digest    : BitVec 256
  deriving DecidableEq, Repr

/-- The tests of 22 R406. -/
inductive TestKind where
  | logicScan
  | sramMarch
  | linkTraining
  | gddr7Training
  | sensor
  deriving DecidableEq, Repr

/-- One self-test entry (22 R406). -/
structure SelfTest where
  unit   : UnitId
  test   : TestKind
  detail : BitVec 32
  deriving DecidableEq, Repr

/-- An event message (21 R391); `launch` is the 64-bit launch ID, or 0. -/
structure EventMsg where
  code      : Nat
  vec       : Nat
  part      : Nat
  launch    : Nat
  killed    : Nat
  cancelled : Nat
  first     : Nat
  lsn       : Nat
  unit      : Option UnitId
  time      : Nat
  deriving DecidableEq, Repr

/-- The descriptor of a parameter home (21 R393). -/
structure HomeDesc where
  part     : Nat
  die      : Nat
  waddr    : Word
  maddr    : Word
  vaddr    : Word
  nblk     : Nat
  pfmt     : BitVec 6
  psat     : Bool
  mirrored : Bool
  isMirror : Bool
  pk       : Nat
  plen     : Nat
  ptile    : Word
  step     : Nat
  deadline : Nat
  peer     : Nat
  peerDie  : Nat
  prog     : Word
  seed     : Word
  scal     : Word
  nscal    : Nat
  consts   : List (BitVec 32)
  stat     : Word
  shadow   : Word
  reserved : Bool
  deriving DecidableEq, Repr

/-- What the host kills (13 R273). -/
inductive KillTarget where
  | task (launch : Nat) (serial : Nat)
  | launch (launch : Nat)
  | context (part : Nat)
  deriving DecidableEq, Repr

/-- A host command (21 R391, 22 R407): the manual names what the host may command, not its encoding. -/
inductive HostCmd where
  | submit (queue : Nat) (record : List Byte)
  | debugHalt (core : Nat)
  | debugStep (launch serial : Nat)
  | debugEdit (launch serial : Nat) (edit : ImageEdit)
  | debugRelease (launch serial : Nat)
  | evict
  | release
  | faultResume (launch serial : Nat) (deliver : Bool)
  | mapAck (version : Nat)
  | kill (target : KillTarget)
  | heldResume (launch : Nat)
  | errinj (v : Word)
  | setMapHandler (record : List Byte)
  | setBreakpoints (on : Bool)
  | setPtRoot (root : Nat)
  | setWeight (w : Nat)
  | setRing (base : Word) (size : Nat)
  | installKey (slot : Bool) (key : BitVec 256)
  | retireKey (slot : Bool)
  | deregister
  | invalidate (lo hi : Nat)
  | writeGlobal (addr : Nat) (bytes : List Byte)
  | readGlobal (addr len : Nat)
  | readBlock (block off : Nat)
  | firmware (image : FwImage)
  | attest (nonce : BitVec 256)
  | createHome (d : HomeDesc)
  | createPartition (cfg : PartConfig)
  | endPartition
  | moveResource (res : Resource) (dst : Nat)
  | saveAreas (base : Word) (slots : Nat)
  deriving DecidableEq, Repr

/-- What each sector of a command says of the whole of it (12 R243, R245): where it starts, its bytes, its checksum, whether this
is its last sector. -/
structure SectorRun where
  base : Nat
  len  : Nat
  ckm  : BitVec 2
  last : Bool
  deriving DecidableEq, Repr

/-- The body of a fabric packet by type (21 R389). -/
inductive PacketBody where
  | readRequest (addr len : Nat) (viaHandle : Option Nat) (fill : Bool)
  | readResponse (bytes : List Byte) (refused : Option Nat)
  | write (addr : Nat) (bytes : List Byte) (viaHandle : Option Nat)
  | atomic (op : BitVec 4) (cas : Bool) (wide : Bool) (addr : Nat) (b c : Word) (viaHandle : Option Nat)
  | copySector (addr index : Nat) (bytes : List Byte) (poison : Bool) (viaHandle : Option Nat) (run : SectorRun)
  | reduceSector (addr index : Nat) (op fmt : Nat) (bytes : List Byte) (poison : Bool) (viaHandle : Option Nat) (run : SectorRun)
  | handle (mailbox : Nat) (h : Handle)
  | launch (queue : Nat) (record : List Byte)
  | hostCommand (part : Nat) (cmd : HostCmd)
  | event (e : EventMsg)
  | gradient (step block die : Nat) (bytes : List Byte)
  | publication (step block order : Nat) (bytes : List Byte) (tag sender senderDie : Nat)
  | mapNotice (change : MapChange)
  | ack (xid : Nat) (index : Nat) (value : Option (BitVec 32)) (refused : Bool)
  | gradAck (tag : Nat) (mirror mirrored rejected : Bool) (peer peerDie : Nat)
  | seal (ver : Nat) (abandon : Bool)
  | seeDelta (ver : Nat) (up : Bool)
  | fillAt (ver : Nat)
  deriving DecidableEq, Repr

/-- A fabric packet (21 R388): sender's fabric partition ID, key epoch and whether its key tag matches, modules, transfer
ID and stamp, and the body; `after`: the transfer of its sender, with the number of its sectors, that its destination applies before it, which
keeps the order of a path's stores where a port has lost some (13 R274; DESIGN CHOICE, log 67). -/
structure Packet where
  ptype    : Nat
  reserved : Bool
  epoch    : Bool
  fpid     : BitVec 16
  key      : BitVec 256
  tagOk    : Bool
  src      : Nat
  srcDie   : Nat
  dst      : Nat
  dstDie   : Nat
  xid      : Nat
  stamp    : Nat
  body     : PacketBody
  after    : Option (Nat × Nat) := none
  deriving DecidableEq, Repr

/-- A flit as a port receives it (21 R385). -/
structure Flit where
  seq    : BitVec 12
  ack    : BitVec 12
  nak    : Bool
  kind   : Nat
  cred   : Nat
  crcOk  : Bool
  packet : Option Packet
  deriving DecidableEq, Repr

/-- Who writes a management register block (22 R408). -/
inductive MgmtWriter where
  | host
  | virtualFunction (part : Nat)
  deriving DecidableEq, Repr

/-- Why a task is stopped by force (18 R346, R351). -/
inductive StopCause where
  | class0
  | suspend
  | evict
  | debug
  deriving DecidableEq, Repr

/-- One constructor per row of spec/opcode_table.json, in its order. A word constructor holds the raw fields of its encoding
(05); an event constructor holds what the event names. -/
inductive Instr where
  /-- ADD (R136). -/
  | add (d a b f : BitVec 6)
  /-- SUB (R136). -/
  | sub (d a b f : BitVec 6)
  /-- AND (R136). -/
  | and (d a b f : BitVec 6)
  /-- OR (R136). -/
  | or (d a b f : BitVec 6)
  /-- XOR (R136). -/
  | xor (d a b f : BitVec 6)
  /-- SHL (R136). -/
  | shl (d a b f : BitVec 6)
  /-- SHR (R136). -/
  | shr (d a b f : BitVec 6)
  /-- SAR (R136). -/
  | sar (d a b f : BitVec 6)
  /-- MUL (R136). -/
  | mul (d a b f : BitVec 6)
  /-- MULH (R136). -/
  | mulh (d a b f : BitVec 6)
  /-- MULHU (R136). -/
  | mulhu (d a b f : BitVec 6)
  /-- DIV (R136). -/
  | div (d a b f : BitVec 6)
  /-- DIVU (R136). -/
  | divu (d a b f : BitVec 6)
  /-- REM (R136). -/
  | rem (d a b f : BitVec 6)
  /-- REMU (R136). -/
  | remu (d a b f : BitVec 6)
  /-- MIN (R136). -/
  | min (d a b f : BitVec 6)
  /-- MAX (R136). -/
  | max (d a b f : BitVec 6)
  /-- MINU (R136). -/
  | minu (d a b f : BitVec 6)
  /-- MAXU (R136). -/
  | maxu (d a b f : BitVec 6)
  /-- CLZ (R137). -/
  | clz (d a : BitVec 6)
  /-- CTZ (R137). -/
  | ctz (d a : BitVec 6)
  /-- POPC (R137). -/
  | popc (d a : BitVec 6)
  /-- BFX (R138). -/
  | bfx (d a pos width : BitVec 6)
  /-- BFI (R138). -/
  | bfi (d a pos width : BitVec 6)
  /-- SEL (R138). -/
  | sel (d a b f : BitVec 6)
  /-- CMP_SIGNED (R139). -/
  | cmpSigned (pd a b cc : BitVec 6)
  /-- CMP_UNSIGNED (R139). -/
  | cmpUnsigned (pd a b cc : BitVec 6)
  /-- PLOG (R140). -/
  | plog (pd pa pb fn : BitVec 6)
  /-- PSETN (R141). -/
  | psetn (pd a : BitVec 6)
  /-- PTEST (R141). -/
  | ptest (d pa : BitVec 6)
  /-- ADDI (R142). -/
  | addi (d a : BitVec 6) (imm : BitVec 12)
  /-- ANDI (R142). -/
  | andi (d a : BitVec 6) (imm : BitVec 12)
  /-- ORI (R142). -/
  | ori (d a : BitVec 6) (imm : BitVec 12)
  /-- XORI (R142). -/
  | xori (d a : BitVec 6) (imm : BitVec 12)
  /-- SHLI (R142). -/
  | shli (d a : BitVec 6) (imm : BitVec 12)
  /-- SHRI (R142). -/
  | shri (d a : BitVec 6) (imm : BitVec 12)
  /-- SARI (R142). -/
  | sari (d a : BitVec 6) (imm : BitVec 12)
  /-- MULI (R142). -/
  | muli (d a : BitVec 6) (imm : BitVec 12)
  /-- CMPI_EQ (R139). -/
  | cmpiEq (pd a : BitVec 6) (imm : BitVec 12)
  /-- CMPI_NE (R139). -/
  | cmpiNe (pd a : BitVec 6) (imm : BitVec 12)
  /-- CMPI_LT (R139). -/
  | cmpiLt (pd a : BitVec 6) (imm : BitVec 12)
  /-- CMPI_LE (R139). -/
  | cmpiLe (pd a : BitVec 6) (imm : BitVec 12)
  /-- CMPI_LTU (R139). -/
  | cmpiLtu (pd a : BitVec 6) (imm : BitVec 12)
  /-- CMPI_LEU (R139). -/
  | cmpiLeu (pd a : BitVec 6) (imm : BitVec 12)
  /-- LIH (R143). -/
  | lih (d : BitVec 6) (imm : BitVec 18)
  /-- CSRRD (R144). -/
  | csrrd (d : BitVec 6) (csr : BitVec 12)
  /-- CSRWR (R144). -/
  | csrwr (a : BitVec 6) (csr : BitVec 12)
  /-- LDG (R146). -/
  | ldg (d : BitVec 6) (off : BitVec 12)
  /-- LDC (R146). -/
  | ldc (d a : BitVec 6) (imm : BitVec 12)
  /-- LDB (R148). -/
  | ldb (d a : BitVec 6) (hb : BitVec 1) (disp : BitVec 11)
  /-- LDBU (R148). -/
  | ldbu (d a : BitVec 6) (hb : BitVec 1) (disp : BitVec 11)
  /-- LDH (R148). -/
  | ldh (d a : BitVec 6) (hb : BitVec 1) (disp : BitVec 11)
  /-- LDHU (R148). -/
  | ldhu (d a : BitVec 6) (hb : BitVec 1) (disp : BitVec 11)
  /-- LDW (R148). -/
  | ldw (d a : BitVec 6) (hb : BitVec 1) (disp : BitVec 11)
  /-- LDWU (R148). -/
  | ldwu (d a : BitVec 6) (hb : BitVec 1) (disp : BitVec 11)
  /-- LDD (R148). -/
  | ldd (d a : BitVec 6) (hb : BitVec 1) (disp : BitVec 11)
  /-- STB (R148). -/
  | stb (d a : BitVec 6) (hb : BitVec 1) (disp : BitVec 11)
  /-- STH (R148). -/
  | sth (d a : BitVec 6) (hb : BitVec 1) (disp : BitVec 11)
  /-- STW (R148). -/
  | stw (d a : BitVec 6) (hb : BitVec 1) (disp : BitVec 11)
  /-- STD (R148). -/
  | std (d a : BitVec 6) (hb : BitVec 1) (disp : BitVec 11)
  /-- CVTA (R254). -/
  | cvta (d a f : BitVec 6)
  /-- ISSPACE (R253). -/
  | isspace (pd a f : BitVec 6)
  /-- QMARK (R218). -/
  | qmark
  /-- FENCE (R216). -/
  | fence (f : BitVec 6)
  /-- PFENCE (R217). -/
  | pfence (a b f : BitVec 6)
  /-- PBR (R152). -/
  | pbr (t : BitVec 3) (disp : BitVec 21)
  /-- PBRX (R152). -/
  | pbrx (t : BitVec 6) (a : BitVec 6)
  /-- BR (R152). -/
  | br (pred : BitVec 5) (cond t : BitVec 3)
  /-- CALL (R152). -/
  | call (pred : BitVec 5) (cond t : BitVec 3)
  /-- LOOP_REG (R156). -/
  | loopReg (l : BitVec 2) (a : BitVec 6) (body : BitVec 14)
  /-- LOOP_IMM (R156). -/
  | loopImm (l : BitVec 2) (cnt : BitVec 8) (body : BitVec 14)
  /-- DPUSH (R158). -/
  | dpush (pred : BitVec 5) (cond : BitVec 3) (q : BitVec 2)
  /-- DTAKE (R158). -/
  | dtake (pd : BitVec 5) (q : BitVec 2)
  /-- TEXIT (R325). -/
  | texit
  /-- TASK_EXIT (R325). -/
  | taskExit (core : Nat)
  /-- TRAP (R355). -/
  | trap (n : BitVec 8)
  /-- BKPT (R356). -/
  | bkpt (n : BitVec 8)
  /-- NOP (R159). -/
  | nop
  /-- ERLS (R324). -/
  | erls
  /-- SWAIT (R314). -/
  | swait (sem : BitVec 8) (n : BitVec 16)
  /-- SWAITGE (R314). -/
  | swaitge (sem : BitVec 8) (n : BitVec 16)
  /-- SEMAPHORE_WAIT_SUCCESS (R314). -/
  | semaphoreWaitSuccess (core : Nat)
  /-- SADD_IMM (R314). -/
  | saddImm (sem : BitVec 8) (n : BitVec 16)
  /-- SADD_REG (R314). -/
  | saddReg (lo : BitVec 6) (a : BitVec 6) (hi : BitVec 2)
  /-- PUSH (R318). -/
  | push (y : BitVec 2) (a b : BitVec 6)
  /-- POPY (R318). -/
  | popy (d : BitVec 6) (y : BitVec 2)
  /-- POPY_NB (R318). -/
  | popyNb (d : BitVec 6) (y : BitVec 2)
  /-- RESULT_QUEUE_READY (R318). -/
  | resultQueueReady (core : Nat)
  /-- MAPRD (R377). -/
  | maprd (d a : BitVec 6)
  /-- MAPACK (R378). -/
  | mapack (a : BitVec 6)
  /-- CROPEN (R363). -/
  | cropen (disp : BitVec 21)
  /-- CRCLOSE (R363). -/
  | crclose
  /-- HNEW (R264). -/
  | hnew (hd : BitVec 5) (a k : BitVec 6)
  /-- HSEE (R264). -/
  | hsee (hd : BitVec 5) (a : BitVec 6)
  /-- HSEEOF (R264). -/
  | hseeof (hd hs : BitVec 5)
  /-- HDUP (R264). -/
  | hdup (hd hs : BitVec 5)
  /-- HDROP (R265). -/
  | hdrop (hs : BitVec 5)
  /-- VERSION_SEAL (R265). -/
  | versionSeal (ver : Nat)
  /-- HSEND (R266). -/
  | hsend (hs : BitVec 5) (b : BitVec 6)
  /-- MAILBOX_RETRY (R266). -/
  | mailboxRetry (part : Nat)
  /-- HRECV (R266). -/
  | hrecv (hd : BitVec 5) (a : BitVec 6)
  /-- HANDLE_RECEIVED (R266). -/
  | handleReceived (core : Nat)
  /-- HSTAT (R267). -/
  | hstat (d : BitVec 6) (hs : BitVec 5)
  /-- PARKED_ACCESS_UNPARK (R268). -/
  | parkedAccessUnpark (core : Nat)
  /-- AMO (R250). -/
  | amo (op : BitVec 4) (sz : BitVec 1) (ord : BitVec 2) (scope : BitVec 3) (d a b : BitVec 6) (hb : BitVec 1) (disp : BitVec 13)
  /-- CAS (R250). -/
  | cas (sz : BitVec 1) (ord : BitVec 2) (scope : BitVec 3) (c d a b : BitVec 6) (hb : BitVec 1) (disp : BitVec 13)
  /-- SWAITT (R316). -/
  | swaitt (sem : BitVec 8) (n : BitVec 16) (a : BitVec 6) (pd : BitVec 5)
  /-- SWAITT_TIMEOUT (R316). -/
  | swaittTimeout (core : Nat)
  /-- SPOSTX (R317). -/
  | spostx (sem : BitVec 8) (n : BitVec 16) (a : BitVec 6)
  /-- SPOSTX_ARRIVAL (R317). -/
  | spostxArrival
  /-- BARARR (R320). -/
  | bararr (bar : BitVec 4)
  /-- BAREXP (R320). -/
  | barexp (bar : BitVec 4) (a : BitVec 6)
  /-- BARWAIT (R320). -/
  | barwait (bar : BitVec 4)
  /-- BARWAITT (R320). -/
  | barwaitt (bar : BitVec 4) (a : BitVec 6) (pd : BitVec 5)
  /-- BARRIER_WAIT_SUCCESS (R320). -/
  | barrierWaitSuccess (core : Nat)
  /-- BARWAITT_TIMEOUT (R320). -/
  | barwaittTimeout (core : Nat)
  /-- LAUNCH (R323). -/
  | launch (a : BitVec 6)
  /-- LAUNCH_NB (R323). -/
  | launchNb (y : BitVec 2) (a : BitVec 6)
  /-- LDIL (R143). -/
  | ldil (d : BitVec 6) (imm : BitVec 46)
  /-- SBIND (R233). -/
  | sbind (w : SWord)
  /-- SUNBIND (R234). -/
  | sunbind (w : SWord)
  /-- Q_ENTRY_FETCH (R233). -/
  | qEntryFetch (core q : Nat)
  /-- SLD (R236). -/
  | sld (w : SWord)
  /-- SST (R236). -/
  | sst (w : SWord)
  /-- SGATHER (R237). -/
  | sgather (w : SWord)
  /-- SSCATTER (R237). -/
  | sscatter (w : SWord)
  /-- SMETA (R238). -/
  | smeta (w : SWord)
  /-- MQ_ENTRY_FETCH (R238). -/
  | mqEntryFetch (core q : Nat)
  /-- CPY (R240). -/
  | cpy (w : SWord)
  /-- CPYMC (R241). -/
  | cpymc (w : SWord)
  /-- CPYR (R242). -/
  | cpyr (w : SWord)
  /-- CPYF (R243). -/
  | cpyf (w : SWord)
  /-- CKRD_READ (R246). -/
  | ckrdRead (w : SWord)
  /-- CKRD_LOAD (R246). -/
  | ckrdLoad (w : SWord)
  /-- STAGE (R240). -/
  | stage (w : SWord)
  /-- SPF (R247). -/
  | spf (w : SWord)
  /-- GPUSH (R248). -/
  | gpush (w : SWord)
  /-- SLOOP (R249). -/
  | sloop (l : BitVec 2) (ch : BitVec 4) (body : BitVec 14) (sync : BitVec 19)
  /-- SDBR (R249). -/
  | sdbr (q : BitVec 2) (sense : BitVec 1) (disp : BitVec 21) (sync : BitVec 19)
  /-- SNOP (R249). -/
  | snop (w : SWord)
  /-- SNOP_MARK (R249). -/
  | snopMark (w : SWord)
  /-- VADD (R169). -/
  | vadd (w : VWord)
  /-- VSUB (R169). -/
  | vsub (w : VWord)
  /-- VMUL (R169). -/
  | vmul (w : VWord)
  /-- VFMA (R169). -/
  | vfma (w : VWord)
  /-- VFMS (R169). -/
  | vfms (w : VWord)
  /-- VFNMA (R169). -/
  | vfnma (w : VWord)
  /-- VMIN (R169). -/
  | vmin (w : VWord)
  /-- VMAX (R169). -/
  | vmax (w : VWord)
  /-- VABS (R169). -/
  | vabs (w : VWord)
  /-- VNEG (R169). -/
  | vneg (w : VWord)
  /-- VDIV (R169). -/
  | vdiv (w : VWord)
  /-- VSQRT (R169). -/
  | vsqrt (w : VWord)
  /-- VEXP2 (R169). -/
  | vexp2 (w : VWord)
  /-- VLOG2 (R169). -/
  | vlog2 (w : VWord)
  /-- VRSQ (R169). -/
  | vrsq (w : VWord)
  /-- VSCALE (R169). -/
  | vscale (w : VWord)
  /-- VCLASS (R169). -/
  | vclass (w : VWord)
  /-- VCMP_ORDERED (R170). -/
  | vcmpOrdered (w : VWord)
  /-- VCMP_UNORDERED (R170). -/
  | vcmpUnordered (w : VWord)
  /-- VSEL (R171). -/
  | vsel (w : VWord)
  /-- VRED (R174). -/
  | vred (w : VWord)
  /-- VSCAN (R174). -/
  | vscan (w : VWord)
  /-- VCVT (R175). -/
  | vcvt (w : VWord)
  /-- VPACK (R176). -/
  | vpack (w : VWord)
  /-- VUNPK (R176). -/
  | vunpk (w : VWord)
  /-- VCVTI (R175). -/
  | vcvti (w : VWord)
  /-- VIADD (R172). -/
  | viadd (w : VWord)
  /-- VISUB (R172). -/
  | visub (w : VWord)
  /-- VIMUL (R172). -/
  | vimul (w : VWord)
  /-- VIMAD (R172). -/
  | vimad (w : VWord)
  /-- VAND (R172). -/
  | vand (w : VWord)
  /-- VOR (R172). -/
  | vor (w : VWord)
  /-- VXOR (R172). -/
  | vxor (w : VWord)
  /-- VSHL (R172). -/
  | vshl (w : VWord)
  /-- VSHR (R172). -/
  | vshr (w : VWord)
  /-- VSAR (R172). -/
  | vsar (w : VWord)
  /-- VIMIN (R172). -/
  | vimin (w : VWord)
  /-- VIMAX (R172). -/
  | vimax (w : VWord)
  /-- VICMP (R170). -/
  | vicmp (w : VWord)
  /-- VHASH (R173). -/
  | vhash (w : VWord)
  /-- VPERM (R177). -/
  | vperm (w : VWord)
  /-- VBCAST (R177). -/
  | vbcast (w : VWord)
  /-- VIOTA (R177). -/
  | viota (w : VWord)
  /-- VMOV (R177). -/
  | vmov (w : VWord)
  /-- VLEN (R178). -/
  | vlen (w : VWord)
  /-- VEXTR (R178). -/
  | vextr (w : VWord)
  /-- VACCRD (R179). -/
  | vaccrd (w : VWord)
  /-- VACCWR (R180). -/
  | vaccwr (w : VWord)
  /-- VLOOP (R181). -/
  | vloop (l : BitVec 2) (ch : BitVec 4) (body : BitVec 14) (sync : BitVec 19)
  /-- VDBR (R182). -/
  | vdbr (q : BitVec 2) (sense : BitVec 1) (disp : BitVec 21) (sync : BitVec 19)
  /-- VNOP (R183). -/
  | vnop (sync : BitVec 19)
  /-- VDOT4 (R184). -/
  | vdot4 (w : VWord)
  /-- MMA (R192). -/
  | mma (w : MWord)
  /-- MMAS (R194). -/
  | mmas (w : MWord)
  /-- MZERO (R196). -/
  | mzero (w : MWord)
  /-- MLOAD (R197). -/
  | mload (w : MWord)
  /-- MSTORE (R197). -/
  | mstore (w : MWord)
  /-- MSCALE (R198). -/
  | mscale (w : MWord)
  /-- MFLAG (R199). -/
  | mflag (w : MWord)
  /-- MLOOP (R200). -/
  | mloop (l : BitVec 2) (ch : BitVec 4) (body : BitVec 14) (sync : BitVec 19)
  /-- MDBR (R200). -/
  | mdbr (q : BitVec 2) (sense : BitVec 1) (disp : BitVec 21) (sync : BitVec 19)
  /-- MNOP (R200). -/
  | mnop (sync : BitVec 19)
  /-- MMA16 (R201). -/
  | mma16 (w : MWord)
  /-- FRONTIER_POST (R94). -/
  | frontierPost (core : Nat)
  /-- PERFORM (R212). -/
  | perform (core : Nat) (path : Path)
  /-- DEPART (R212). -/
  | depart (core : Nat) (path : Path)
  /-- WRITEBACK (R212). -/
  | writeback (core sector : Nat) (words : BitVec 16)
  /-- DIRTY_WRITEBACK_TIMEOUT (R214). -/
  | dirtyWritebackTimeout (core sector : Nat)
  /-- FILL (R212). -/
  | fill (core sector : Nat)
  /-- DROP (R212). -/
  | drop (core sector : Nat)
  /-- RVFILL (R212). -/
  | rvfill (die sector : Nat)
  /-- RVDROP (R212). -/
  | rvdrop (die sector : Nat)
  /-- ATOMIC (R219). -/
  | atomic (core : Nat)
  /-- LOAD_CODE_OBJECT (R70). -/
  | loadCodeObject (part : Nat) (obj : CodeObject)
  /-- GRANULE_ARRIVAL (R279). -/
  | granuleArrival (core : Nat) (eng : Engine) (granule : Nat)
  /-- LAUNCH_QUEUE_SUBMIT (R295). -/
  | launchQueueSubmit (part queue : Nat) (record : List Byte)
  /-- LAUNCH_ACCEPT (R297). -/
  | launchAccept (part source : Nat)
  /-- TASK_BIND (R271). -/
  | taskBind (launch : Nat)
  /-- TASK_DISPATCH (R302). -/
  | taskDispatch (cores : List Nat)
  /-- TASK_START (R32). -/
  | taskStart (core : Nat)
  /-- LAUNCH_COMPLETE (R298). -/
  | launchComplete (launch : Nat)
  /-- CLASS0_PREEMPTION (R307). -/
  | class0Preemption (launch : Nat)
  /-- CYCLE_LIMIT_EXPIRY (R310). -/
  | cycleLimitExpiry (core : Nat)
  /-- REBUILD (R347). -/
  | rebuild (core : Nat) (cause : StopCause)
  /-- TASK_RESUME (R353). -/
  | taskResume (launch serial core : Nat)
  /-- HOST_FAULT_RESUME (R354). -/
  | hostFaultResume (launch serial : Nat) (deliver : Bool)
  /-- DEBUG_HALT (R360). -/
  | debugHalt (core : Nat)
  /-- DEBUG_SINGLE_STEP (R360). -/
  | debugSingleStep (launch serial : Nat)
  /-- DEBUG_IMAGE_EDIT (R360). -/
  | debugImageEdit (launch serial : Nat) (edit : ImageEdit)
  /-- DEBUG_RELEASE (R360). -/
  | debugRelease (launch serial : Nat)
  /-- PARTITION_EVICTION (R308). -/
  | partitionEviction (part : Nat)
  /-- HOST_RELEASE (R308). -/
  | hostRelease (part : Nat)
  /-- UNIT_FAILURE (R383). -/
  | unitFailure (unit : UnitId)
  /-- MAP_PUBLISH (R379). -/
  | mapPublish (cause : Nat) (unit : Option UnitId) (change : MapChange)
  /-- ACK_WINDOW_EXPIRY (R380). -/
  | ackWindowExpiry (part : Nat)
  /-- HOST_MAP_ACK (R380). -/
  | hostMapAck (part version : Nat)
  /-- GDDR7_CHANNEL_RETRAINING (R382). -/
  | gddr7ChannelRetraining (die ch : Nat) (phase : ServicePhase) (moves : List PageMove)
  /-- DIE_FIRMWARE_UPDATE (R382). -/
  | dieFirmwareUpdate (die : Nat) (phase : ServicePhase) (image : FwImage)
  /-- RUREL_PORT_RETRAINING (R382). -/
  | rurelPortRetraining (port : Nat) (phase : ServicePhase)
  /-- MODULE_REPLACEMENT (R382). -/
  | moduleReplacement (fabric : Nat) (phase : ServicePhase)
  /-- THERMAL_CLOCK_STEP (R18). -/
  | thermalClockStep
  /-- THERMAL_SHUTDOWN (R18). -/
  | thermalShutdown
  /-- UNDERVOLT_CLOCK_STEP (R20). -/
  | undervoltClockStep (millivolt : Nat)
  /-- UNDERVOLT_RECOVERY_STEP (R20). -/
  | undervoltRecoveryStep
  /-- VOLTAGE_DIP (R20). -/
  | voltageDip (microseconds : Nat)
  /-- OVERVOLTAGE_NOTIFY (R20). -/
  | overvoltageNotify (millivolt : Nat)
  /-- POWER_FAILURE (R19). -/
  | powerFailure
  /-- POWER_REMOVAL (R21). -/
  | powerRemoval
  /-- MOD_RESET_RELEASE (R403). -/
  | modResetRelease (bootsel : Bool) (tests : List SelfTest) (lat : List Byte) (romOk : BitVec 8)
  /-- FIRMWARE_SLOT_WRITE (R405). -/
  | firmwareSlotWrite (image : FwImage)
  /-- ATTESTATION_REQUEST (R340). -/
  | attestationRequest (part : Nat) (nonce : BitVec 256)
  /-- ERRINJ_WRITE (R412). -/
  | errinjWrite (v : Word)
  /-- ERROR_COUNTER_READ (R336). -/
  | errorCounterRead (part index : Nat)
  /-- MGMT_REGISTER_WRITE (R407). -/
  | mgmtRegisterWrite (by_ : MgmtWriter) (block off : Nat) (v : Word)
  /-- PARTITION_CREATE (R332). -/
  | partitionCreate (cfg : PartConfig)
  /-- PARTITION_END (R332). -/
  | partitionEnd (part : Nat)
  /-- RESOURCE_MOVE (R328). -/
  | resourceMove (res : Resource) (src dst : Nat)
  /-- TRANSLATION_INVALIDATE (R331). -/
  | translationInvalidate (part lo hi : Nat)
  /-- FLIT_RECEIVE (R386). -/
  | flitReceive (port : Nat) (flit : Flit)
  /-- PORT_FAILURE (R386). -/
  | portFailure (port : Nat)
  /-- READ_REQUEST (R389). -/
  | readRequest (p : Packet)
  /-- READ_RESPONSE (R389). -/
  | readResponse (p : Packet)
  /-- WRITE_PACKET (R389). -/
  | writePacket (p : Packet)
  /-- ATOMIC_PACKET (R389). -/
  | atomicPacket (p : Packet)
  /-- COPY_SECTOR (R392). -/
  | copySector (p : Packet)
  /-- REDUCING_COPY_SECTOR (R392). -/
  | reducingCopySector (p : Packet)
  /-- HANDLE_PACKET (R389). -/
  | handlePacket (p : Packet)
  /-- LAUNCH_SUBMISSION (R389). -/
  | launchSubmission (p : Packet)
  /-- HOST_COMMAND (R391). -/
  | hostCommand (p : Packet)
  /-- EVENT (R391). -/
  | event (p : Packet)
  /-- MAP_NOTICE (R389). -/
  | mapNotice (p : Packet)
  /-- ACKNOWLEDGEMENT (R392). -/
  | acknowledgement (p : Packet)
  /-- SEAL_OR_ABANDON (R274). -/
  | sealOrAbandon (p : Packet)
  /-- SECTOR_RESEND (R392). -/
  | sectorResend (xid : Nat)
  /-- COMMAND_GIVE_UP (R392). -/
  | commandGiveUp (xid : Nat)
  /-- XID_MARK_EXPIRY (R392). -/
  | xidMarkExpiry (xid : Nat)
  /-- GRADIENT_BLOCK (R395). -/
  | gradientBlock (p : Packet)
  /-- WEIGHT_PUBLICATION (R401). -/
  | weightPublication (p : Packet)
  /-- STEP_COMPLETE (R399). -/
  | stepComplete (part die : Nat)
  /-- STEP_DEADLINE_EXPIRY (R400). -/
  | stepDeadlineExpiry (part die : Nat)
  /-- PARAM_HOME_CREATE (R393). -/
  | paramHomeCreate (d : HomeDesc)
  /-- HOST_KILL (R273). -/
  | hostKill (target : KillTarget)
  /-- HELD_LAUNCH_RESUME (R296). -/
  | heldLaunchResume (launch : Nat)
  /-- GRADIENT_BLOCK_RESEND (R248). -/
  | gradientBlockResend (tag : Nat)
  /-- PATROL_SCRUB (R337). -/
  | patrolScrub (sector : Nat)
  /-- HOST_ERROR_COUNTER_READ (R407). -/
  | hostErrorCounterRead (index : Nat)
  deriving DecidableEq, Repr

end Sys2Proof
end

