-- ==== Sys2Proof/Machine/Fields.lean ====
section
/-! DEFINITION. Which field values each instruction word accepts (05 R83-R99, 09 R166-R168, 10 R190, 12 R227-R250): the
checks whose failure raises 0x0102 (05 R102, item 2). `sl` says that the word stands in slice text. -/

namespace Sys2Proof.Machine

/-- Width in bits of an element of a format code; 0 for a reserved code (05 R83). -/
def fmtWidth (c : Nat) : Nat :=
  if c = 0 then 32 else if c = 1 ∨ c = 2 then 16 else if c = 4 ∨ c = 8 then 8 else if c = 5 ∨ c = 9 then 16
  else if c = 6 ∨ c = 10 then 32 else if c = 7 ∨ c = 11 then 64 else if c = 12 then 4
  else if 0x20 ≤ c ∧ c ≤ 0x3B then 8 else 0

/-- f32, f16, bf16. -/
def fmtFloat (c : Nat) : Bool := c ≤ 2

/-- The b8pPsd codes an instruction may name: 0x23 is refused (06 R114). -/
def fmtB8 (c : Nat) : Bool := 0x20 ≤ c && c ≤ 0x3B && c != 0x23

/-- The binary8 codes a matrix operand may name (10 R190). -/
def fmtB8Operand (c : Nat) : Bool := fmtB8 c && c != 0x22

/-- i8, i16, i32. -/
def fmtSigned (c : Nat) : Bool := 4 ≤ c && c ≤ 6

/-- n8, n16, n32. -/
def fmtUnsigned (c : Nat) : Bool := 8 ≤ c && c ≤ 10

/-- i8 to i32 and n8 to n32. -/
def fmtInt (c : Nat) : Bool := fmtSigned c || fmtUnsigned c

/-- SYNC19: a field whose valid bit is clear is zero (05 R93); in logical text the whole field is zero (05 R103). -/
def syncOk (sl : Bool) (sync : BitVec 19) : Bool :=
  if sl then
    (sync[18] || sync.toNat / 2 ^ 10 % 256 == 0) && (sync[9] || sync.toNat % 2 ^ 9 == 0)
  else sync == 0

/-- An FN6 of the opcodes 0x00-0x12 (05 R87). -/
def chanOk (sl : Bool) (d b f : BitVec 6) : Bool :=
  f == 0 || (sl && ((f.toNat / 16 == 2 && d == 0) || (f.toNat / 16 == 3 && b == 0)))

/-- A 6-bit field that names a p register (05 R86). -/
def pOk (p : BitVec 6) : Bool := p.toNat < 24

/-- A PRED5 or PD5 field (05 R86). -/
def predOk (p : BitVec 5) : Bool := p.toNat < 24

/-- A base field: with HB set it names an h register (05 R86). -/
def baseOk (hb : BitVec 1) (a : BitVec 6) : Bool := hb == 0 || a.toNat < 32

/-- FN6 of FENCE and PFENCE: rlx and SCOPE3 7 are refused, bit 5 is zero (12 R252). -/
def fenceOk (f : BitVec 6) : Bool := f.toNat % 4 != 0 && f.toNat / 4 % 8 ≤ 6 && f.toNat / 32 == 0

/-- PRED5 and COND3 of BR and CALL (05 R88, 08 R152). -/
def condOk (pred : BitVec 5) (cond : BitVec 3) : Bool := predOk pred && cond != 7 && (cond != 0 || pred == 0)

/-! Vector words. -/

/-- FILE and INDEX of an operand field (05 R91). -/
def opFile (o : BitVec 8) : Nat := o.toNat / 64
/-- INDEX. -/
def opIndex (o : BitVec 8) : Nat := o.toNat % 64
/-- The register an operand names: four bits of a q register or channel. -/
def opReg (o : BitVec 8) : Nat := if opFile o = 1 then opIndex o % 16 else opIndex o
/-- The keep bit of a q or channel operand. -/
def opKeep (o : BitVec 8) : Bool := o[4]

/-- The step of operand `k` (3 DST, 2 SA, 1 SB, 0 SC) as STRD8 codes it (05 R90). -/
def stepOf (strd : BitVec 8) (k : Nat) : Nat :=
  match strd.toNat / 4 ^ k % 4 with | 0 => 0 | 1 => 1 | 2 => 2 | _ => 4

/-- Whether field INDEX with this step stays within its file over the repetitions (05 R91). -/
def stepFits (index last step rep : Nat) : Bool := index + rep * step ≤ last

/-- An operand field that the opcode does not use is zero, its step code with it (05 R91, DEDUCED, log 4). -/
def unusedOk (w : VWord) (o : BitVec 8) (k : Nat) : Bool := o == 0 && stepOf w.strd k == 0

/-- A source field: v, q, or a broadcast (logical) or channel (slice) operand (05 R91). -/
def srcOk (sl : Bool) (w : VWord) (o : BitVec 8) (k : Nat) : Bool :=
  match opFile o with
  | 0 => stepFits (opIndex o) 63 (stepOf w.strd k) w.rep.toNat
  | 1 => opIndex o < 32 && stepFits (opReg o) 15 (stepOf w.strd k) w.rep.toNat
  | 2 => stepOf w.strd k == 0 && (!sl || opIndex o < 32)
  | _ => false

/-- A destination that is a v or q register, or in slice form a channel (09 R163). -/
def dstVecOk (sl : Bool) (w : VWord) : Bool :=
  match opFile w.dst with
  | 0 => stepFits (opIndex w.dst) 63 (stepOf w.strd 3) w.rep.toNat
  | 1 => opIndex w.dst < 16 && stepFits (opIndex w.dst) 15 (stepOf w.strd 3) w.rep.toNat
  | 2 => sl && opIndex w.dst < 16 && stepOf w.strd 3 == 0
  | _ => false

/-- A scalar destination: an x register, or in slice form a channel (09 R163). -/
def dstScalarOk (sl : Bool) (w : VWord) : Bool :=
  opFile w.dst == 2 && stepOf w.strd 3 == 0 && (!sl || opIndex w.dst < 16)

/-- A p destination of VCMP or VICMP (09 R168). -/
def dstPredOk (w : VWord) : Bool :=
  opFile w.dst == 0 && stepFits (opIndex w.dst) 23 (stepOf w.strd 3) w.rep.toNat

/-- The guard and SYNC19, common to every vector word (05 R90, R93). -/
def vBase (sl : Bool) (w : VWord) : Bool := predOk w.pred && syncOk sl w.sync

/-- RND4 0 to 5 (05 R84). -/
def rndOk (r : BitVec 4) : Bool := r.toNat ≤ 5

/-- One source, IMM5 zero. -/
def v1Ok (sl : Bool) (w : VWord) : Bool :=
  vBase sl w && dstVecOk sl w && srcOk sl w w.sa 2 && unusedOk w w.sb 1 && unusedOk w w.sc 0 && w.imm == 0

/-- Two sources, IMM5 zero. -/
def v2Ok (sl : Bool) (w : VWord) : Bool :=
  vBase sl w && dstVecOk sl w && srcOk sl w w.sa 2 && srcOk sl w w.sb 1 && unusedOk w w.sc 0 && w.imm == 0

/-- Three sources, IMM5 zero. -/
def v3Ok (sl : Bool) (w : VWord) : Bool :=
  vBase sl w && dstVecOk sl w && srcOk sl w w.sa 2 && srcOk sl w w.sb 1 && srcOk sl w w.sc 0 && w.imm == 0

/-- Float types with any rounding (09 R166). -/
def tyFloatRnd (w : VWord) : Bool := fmtFloat w.ty.toNat && rndOk w.rnd
/-- Float types, RND4 zero. -/
def tyFloat (w : VWord) : Bool := fmtFloat w.ty.toNat && w.rnd == 0
/-- Integer types, RND4 zero. -/
def tyInt (w : VWord) : Bool := fmtInt w.ty.toNat && w.rnd == 0

/-- VCMP and VICMP: IMM5 a listed code (09 R170). -/
def vcmpOk (sl : Bool) (w : VWord) (codes : List Nat) : Bool :=
  vBase sl w && dstPredOk w && srcOk sl w w.sa 2 && srcOk sl w w.sb 1 && unusedOk w w.sc 0
    && codes.contains w.imm.toNat

/-- VRED and VSCAN (09 R166, R168). -/
def vredOk (sl scalar : Bool) (w : VWord) : Bool :=
  vBase sl w && (dstVecOk sl w || (scalar && dstScalarOk sl w)) && srcOk sl w w.sa 2 && unusedOk w w.sb 1
    && unusedOk w w.sc 0 && w.imm.toNat ≤ 2 && (tyFloatRnd w || tyInt w)

/-- The source code of a conversion in SC8 (05 R92): within six bits and without a step. -/
def srcFmtOk (w : VWord) (ok : Nat → Bool) : Bool := w.sc.toNat < 64 && stepOf w.strd 0 == 0 && ok w.sc.toNat

/-- Sources of VCVT and VCVTI (09 R175). -/
def cvtSrc (c : Nat) : Bool := fmtFloat c || fmtB8 c || fmtInt c
/-- Sources of VPACK and VUNPK (09 R176). -/
def packSrc (c : Nat) : Bool := cvtSrc c || c == 12

/-- VCVT and VCVTI. -/
def vcvtOk (sl : Bool) (w : VWord) (target : Nat → Bool) : Bool :=
  vBase sl w && dstVecOk sl w && srcOk sl w w.sa 2 && unusedOk w w.sb 1 && srcFmtOk w cvtSrc && rndOk w.rnd
    && target w.ty.toNat && w.imm.toNat < 2

/-- VPACK: a wider source, ratio 2, 4 or 8, h below half the ratio (09 R176). -/
def vpackOk (sl : Bool) (w : VWord) : Bool :=
  let ws := fmtWidth w.sc.toNat
  let wd := fmtWidth w.ty.toNat
  let t := w.ty.toNat
  vBase sl w && dstVecOk sl w && srcOk sl w w.sa 2 && srcOk sl w w.sb 1 && srcFmtOk w packSrc && rndOk w.rnd
    && (t == 1 || t == 2 || fmtB8 t || t == 12 || t == 4 || t == 5 || t == 8 || t == 9)
    && wd < ws && w.imm.toNat < 16 && w.imm.toNat / 2 < ws / wd / 2

/-- VUNPK: a narrower source, h below the ratio (09 R176). -/
def vunpkOk (sl : Bool) (w : VWord) : Bool :=
  let ws := fmtWidth w.sc.toNat
  let wd := fmtWidth w.ty.toNat
  let t := w.ty.toNat
  vBase sl w && dstVecOk sl w && srcOk sl w w.sa 2 && unusedOk w w.sb 1 && srcFmtOk w packSrc && rndOk w.rnd
    && (fmtFloat t || t == 5 || t == 6 || t == 9 || t == 10)
    && ws < wd && w.imm.toNat < 16 && w.imm.toNat / 2 < wd / ws

/-- VLEN (09 R168, R178). -/
def vlenOk (sl : Bool) (w : VWord) : Bool :=
  vBase sl w && dstScalarOk sl w && unusedOk w w.sa 2 && unusedOk w w.sb 1 && unusedOk w w.sc 0 && w.imm == 0
    && tyInt w

/-- VEXTR: no guard (09 R178). -/
def vextrOk (sl : Bool) (w : VWord) : Bool :=
  vBase sl w && w.pred == 0 && w.neg == 0 && dstScalarOk sl w && srcOk sl w w.sa 2 && srcOk sl w w.sb 1
    && unusedOk w w.sc 0 && tyInt w

/-- VACCRD (09 R166, R168, R179). -/
def vaccrdOk (sl : Bool) (w : VWord) : Bool :=
  vBase sl w && dstVecOk sl w && w.sa.toNat < 16 && stepOf w.strd 2 == 0 && unusedOk w w.sb 1 && unusedOk w w.sc 0
    && (fmtFloat w.ty.toNat || fmtB8 w.ty.toNat) && rndOk w.rnd && w.imm.toNat + w.rep.toNat ≤ 31

/-- VACCWR (09 R168, R180). -/
def vaccwrOk (sl : Bool) (w : VWord) : Bool :=
  vBase sl w && w.dst.toNat < 16 && stepOf w.strd 3 == 0 && srcOk sl w w.sa 2 && unusedOk w w.sb 1
    && unusedOk w w.sc 0 && w.ty == 0 && w.rnd == 0 && w.imm.toNat + w.rep.toNat ≤ 31

/-! Stream words. -/

/-- An x source field: any register in logical form; zero, a channel pop or a channel keep in slice form (05 R96). -/
def sSrcOk (sl : Bool) (x : BitVec 6) : Bool := !sl || x == 0 || 32 ≤ x.toNat

/-- Which fields an opcode of 05 R97 uses; every other field is zero. -/
structure SUse where
  xa    : Bool := false
  xb    : Bool := false
  xc    : Bool := false
  slot  : Bool := false
  qr    : Bool := false
  dir   : Bool := false
  size  : Bool := false
  mode  : Bool := false
  ck    : Bool := false
  ckr   : Bool := false
  imm   : Bool := false
  deriving DecidableEq, Repr

/-- An opcode that uses no field but SYNC19. -/
def sUseNone : SUse := {}

/-- The fields of a stream word against those its opcode uses. -/
def sOk (sl : Bool) (u : SUse) (w : SWord) : Bool :=
  (if u.xa then sSrcOk sl w.xa else w.xa == 0) && (if u.xb then sSrcOk sl w.xb else w.xb == 0)
    && (if u.xc then sSrcOk sl w.xc else w.xc == 0) && (u.slot || (w.slot == 0 && w.stage == 0)) && (u.qr || w.qr == 0)
    && (u.dir || (w.dir == 0 && w.dims == 0)) && (if u.size then w.size.toNat ≤ 10 else w.size == 0)
    && (u.mode || w.mode == 0) && (if u.ck then w.ckm != 3 else w.ckm == 0) && (u.ck || u.ckr || w.ckr == 0)
    && (u.imm || w.imm == 0) && syncOk sl w.sync

/-- CKRD with MODE4 0: XA is a destination, in slice form a push (05 R97). -/
def ckrdReadOk (sl : Bool) (w : SWord) : Bool :=
  sOk sl { ckr := true } { w with xa := 0 } && (!sl || w.xa.toNat / 16 == 2) && w.mode == 0

/-! Matrix words. -/

/-- K of one step by A's format (10 R190). -/
def stepK (afmt : Nat) : Nat := if afmt ≤ 2 then 32 else if afmt = 12 then 128 else 64

/-- Fields no matrix word of this kind uses, apart from those `keep` names. -/
def mmaOk (sl : Bool) (sparse : Bool) (w : MWord) : Bool :=
  let a := w.afmt.toNat
  let b := w.bfmt.toNat
  let kd := if w.spm == 0 then stepK a else 2 * stepK a
  let pair := (a == 2 && b == 2) || (a == 1 && b == 1) || (fmtB8Operand a && fmtB8Operand b) || (a == 12 && b == 12)
  pair && (w.mxe == 0 || fmtB8Operand a || a == 12)
    && (if w.asrc == 0 then w.apitch != 0 && w.arnd == 0 && w.asat == 0
        else w.aoff.toNat % 1024 == 0 && w.apitch == 0 && rndOk w.arnd && a != 12 && w.mxe == 0 && w.spm != 1
          && (w.rep.toNat + 1) * kd ≤ 64)
    && w.bpitch != 0 && w.acc2 != 3 && w.chk != 3 && (w.acc2 == 2 || w.fscale == 0) && w.xd == 0
    && (if sparse then w.spm == 1 || w.spm == 2 else w.spm == 0 && w.mqs == 0)
    && (w.mxe == 1 || (w.sca == 0 && w.scb == 0)) && syncOk sl w.sync

/-- MMA16: bf16, scratch A, no scales (10 R201). -/
def mma16Ok (sl : Bool) (w : MWord) : Bool :=
  mmaOk sl false w && w.afmt == 2 && w.bfmt == 2 && w.asrc == 0 && w.mxe == 0

/-- The matrix word with every field zero. -/
def MWord.zero : MWord :=
  { cidx := 0, asrc := 0, aoff := 0, apitch := 0, boff := 0, bpitch := 0, bt := 0, afmt := 0, bfmt := 0, arnd := 0,
    asat := 0, acc2 := 0, chk := 0, spm := 0, mqs := 0, mxe := 0, sca := 0, scb := 0, xd := 0, fscale := 0, rep := 0,
    sync := 0 }

/-- MZERO: CIDX alone (10 R196). -/
def mzeroOk (sl : Bool) (w : MWord) : Bool :=
  w == { MWord.zero with cidx := w.cidx, sync := w.sync } && syncOk sl w.sync

/-- MLOAD and MSTORE (10 R197). -/
def mmoveOk (sl store : Bool) (w : MWord) : Bool :=
  w == { MWord.zero with cidx := w.cidx, aoff := w.aoff, apitch := w.apitch, afmt := w.afmt, arnd := w.arnd,
                         asat := w.asat, sync := w.sync }
    && w.apitch != 0 && (w.afmt == 0 || w.afmt == 2)
    && (if store && w.afmt == 2 then rndOk w.arnd else w.arnd == 0 && w.asat == 0) && syncOk sl w.sync

/-- MSCALE (10 R198). -/
def mscaleOk (sl : Bool) (w : MWord) : Bool :=
  w == { MWord.zero with cidx := w.cidx, fscale := w.fscale, arnd := w.arnd, sync := w.sync } && rndOk w.arnd
    && syncOk sl w.sync

/-- MFLAG (10 R199). -/
def mflagOk (sl : Bool) (w : MWord) : Bool :=
  w == { MWord.zero with cidx := w.cidx, xd := w.xd, sync := w.sync } && (!sl || w.xd.toNat < 16) && syncOk sl w.sync

end Sys2Proof.Machine
end

