-- ==== Sys2Proof/Machine/Num.lean ====
section
/-! DEFINITION. The arithmetic promise (06, 07): values of the number formats, exact operations on them, rounding into a
format, the random bits of stochastic rounding, and conversions. A code is the natural number its bits spell. -/

namespace Sys2Proof.Machine

/-- A value of a floating format, or an exact result before rounding: (-1)^neg * mag * 2^exp, where `more` says that the
magnitude lies strictly between mag and mag + 1 (a quotient, a root, a power or a logarithm that no binary fraction holds). -/
inductive FNum where
  | nan
  | inf (neg : Bool)
  | fin (neg : Bool) (mag : Nat) (exp : Int) (more : Bool)
  deriving DecidableEq, Repr

/-- Zero with a sign. -/
def FNum.zero (neg : Bool) : FNum := .fin neg 0 0 false

/-- An integer as a value. -/
def FNum.ofInt (i : Int) : FNum := .fin (i < 0) i.natAbs 0 false

/-- Whether a value is a zero. -/
def FNum.isZero (x : FNum) : Bool := match x with | .fin _ m _ s => m == 0 && !s | _ => false

/-- Whether a value is finite. -/
def FNum.isFin (x : FNum) : Bool := match x with | .fin _ _ _ _ => true | _ => false

/-- The sign of a value; a NaN has none. -/
def FNum.neg (x : FNum) : Bool := match x with | .nan => false | .inf n => n | .fin n _ _ _ => n

/-- The layout of a floating format (06 R107, R112, R113, R119): fraction bits, bias, the largest finite magnitude code, the
infinity's magnitude code, the NaN code, the sign bit's weight (0 for unsigned), whether it is an IEEE format, whether it is
the scale format. -/
structure FloatFmt where
  frac  : Nat
  bias  : Nat
  maxc  : Nat
  infc  : Option Nat
  nanc  : Nat
  sign  : Nat
  ieee  : Bool
  scale : Bool
  deriving DecidableEq, Repr

/-- The layout of a binary8 code b8pPsd (06 R112-R114). -/
def b8Fmt (c : Nat) : FloatFmt :=
  let p := (c - 0x20) / 4 + 1
  let x := c % 2 == 1
  if (c - 0x20) / 2 % 2 == 1 then
    { frac := p - 1, bias := 2 ^ (8 - p), maxc := if x then 0xFD else 0xFE, infc := if x then some 0xFE else none,
      nanc := 0xFF, sign := 0, ieee := false, scale := p == 1 }
  else
    { frac := p - 1, bias := 2 ^ (7 - p), maxc := if x then 0x7E else 0x7F, infc := if x then some 0x7F else none,
      nanc := 0x80, sign := 0x80, ieee := false, scale := false }

/-- The layout of a floating format code (05 R83, 06 R107, R109, R119). -/
def floatFmt (c : Nat) : FloatFmt :=
  match c with
  | 0 => { frac := 23, bias := 127, maxc := 0x7F7FFFFF, infc := some 0x7F800000, nanc := 0x7FC00000, sign := 2 ^ 31,
           ieee := true, scale := false }
  | 1 => { frac := 10, bias := 15, maxc := 0x7BFF, infc := some 0x7C00, nanc := 0x7E00, sign := 2 ^ 15, ieee := true,
           scale := false }
  | 2 => { frac := 7, bias := 127, maxc := 0x7F7F, infc := some 0x7F80, nanc := 0x7FC0, sign := 2 ^ 15, ieee := true,
           scale := false }
  | 12 => { frac := 1, bias := 2, maxc := 7, infc := none, nanc := 8, sign := 8, ieee := false, scale := false }
  | _ => b8Fmt c

/-- The magnitude of a finite magnitude code: significand and exponent (06 R107, R115). -/
def magOf (f : FloatFmt) (c : Nat) : Nat × Int :=
  let e := c / 2 ^ f.frac
  let fr := c % 2 ^ f.frac
  if e = 0 then (fr, 1 - (f.bias : Int) - f.frac) else (2 ^ f.frac + fr, (e : Int) - f.bias - f.frac)

/-- The value of a code of a floating format (06 R107, R110, R115). -/
def decodeFloat (fmt c : Nat) : FNum :=
  let f := floatFmt fmt
  if f.scale then if c = 0xFF then .nan else .fin false 1 ((c : Int) - 127) false
  else if f.ieee then
    let m := c % f.sign
    let n := c / f.sign % 2 == 1
    match f.infc with
    | some i => if i < m then .nan else if m = i then .inf n else .fin n (magOf f m).1 (magOf f m).2 false
    | none => .nan
  else if c = f.nanc then .nan
  else
    let m := if f.sign = 0 then c else c % f.sign
    let n := f.sign != 0 && c / f.sign % 2 == 1
    if f.infc = some m then .inf n else .fin n (magOf f m).1 (magOf f m).2 false

/-- Signed(v, w) (08 R135). -/
def signedOf (w v : Nat) : Int := if v % 2 ^ w < 2 ^ (w - 1) then ((v % 2 ^ w : Nat) : Int) else (v % 2 ^ w : Nat) - 2 ^ w

/-- The low `w` bits of an integer. -/
def lowBits (w : Nat) (i : Int) : Nat := (i % 2 ^ w).toNat

/-- The integer an element of an integer format holds (06 R111). -/
def decodeInt (fmt c : Nat) : Int :=
  if fmtSigned fmt || fmt == 7 then signedOf (fmtWidth fmt) c else ((c % 2 ^ fmtWidth fmt : Nat) : Int)

/-- Whether a format code names an integer format. -/
def isIntFmt (fmt : Nat) : Bool := (4 ≤ fmt && fmt ≤ 7) || (8 ≤ fmt && fmt ≤ 11)

/-- The value of a code of any format. -/
def decodeNum (fmt c : Nat) : FNum := if isIntFmt fmt then .ofInt (decodeInt fmt c) else decodeFloat fmt c

/-! Rounding (07 R122, R123). Modes: 0 rne, 1 rz, 2 rd, 3 ru, 4 rs. -/

/-- The quotient mag / 2^sh rounded to an integer: `odd` is the parity of the code of the lower neighbour, `u` the random
bits of a stochastic rounding. -/
def roundQuot (mode u : Nat) (neg odd : Bool) (mag sh : Nat) (more : Bool) : Nat :=
  let lo := mag / 2 ^ sh
  let rem := mag % 2 ^ sh
  if rem = 0 ∧ more = false then lo
  else
    let up :=
      match mode with
      | 0 => 2 ^ sh < 2 * rem || (2 * rem == 2 ^ sh && (more || odd))
      | 1 => false
      | 2 => neg
      | 3 => !neg
      | _ => u < rem * 2 ^ 16 / 2 ^ sh
    if up then lo + 1 else lo

/-- A right shift that leaves nothing of `mag` but its being nonzero becomes a short one (no power of two of the size of the
exponent is formed). -/
def clampShift (mag : Nat) (sh : Int) (more : Bool) : Nat × Nat × Bool :=
  if sh ≤ 0 then (mag * 2 ^ (-sh).toNat, 0, more)
  else if (mag.log2 : Int) + 24 < sh then (0, 0, more || mag != 0)
  else (mag, sh.toNat, more)

/-- The magnitude code of a nonzero magnitude rounded with an unbounded exponent range (07 R122): codes of consecutive
magnitudes are consecutive, and the last significand bit of a code is its bit 0. -/
def roundMagCode (f : FloatFmt) (mode u : Nat) (neg : Bool) (mag : Nat) (exp : Int) (more : Bool) : Int :=
  let top := exp + mag.log2
  if f.scale then
    let sh := mag.log2
    let lo := top + 127
    lo - 1 + roundQuot mode u neg (lo % 2 == 1) mag sh more
  else
    let ef := max (top + f.bias) 1
    let base := (ef - 1) * 2 ^ f.frac
    let c := clampShift mag (ef - f.bias - f.frac - exp) more
    let odd := (base + c.1 / 2 ^ c.2.1) % 2 == 1
    base + roundQuot mode u neg odd c.1 c.2.1 c.2.2

/-- A signed magnitude code. -/
def withSign (f : FloatFmt) (neg : Bool) (m : Nat) : Nat := if neg then m + f.sign else m

/-- Overflow of a rounded magnitude (07 R125). -/
def overflowCode (f : FloatFmt) (mode : Nat) (neg sat : Bool) : Nat :=
  let toMax := mode == 1 || (mode == 2 && !neg) || (mode == 3 && neg)
  if sat || toMax then withSign f neg f.maxc
  else match f.infc with | some i => withSign f neg i | none => f.nanc

/-- Rounding into the scale format b8p1uf (07 R125): a value above 2^127 is one that rounds above it, as for every overflow (R132;
DEDUCED, log 61). -/
def encodeScale (mode u : Nat) (sat : Bool) (x : FNum) : Nat :=
  match x with
  | .nan => 0xFF
  | .inf n => if sat then (if n then 0x00 else 0xFE) else 0xFF
  | .fin n m e s =>
    if n ∨ (m = 0 ∧ s = false) then if sat then 0x00 else 0xFF
    else
      let top := e + m.log2
      if top < -127 then 0x00
      else
        let c := (roundMagCode (b8Fmt 0x22) mode u n m e s).toNat
        if c ≤ 0xFE then c else if sat || mode == 1 || mode == 2 then 0xFE else 0xFF

/-- A value rounded once into a floating format (07 R122, R123, R125; 06 R118). -/
def encodeFloat (fmt mode u : Nat) (sat : Bool) (x : FNum) : Nat :=
  let f := floatFmt fmt
  if f.scale then encodeScale mode u sat x
  else
    match x with
    | .nan => f.nanc
    | .inf n =>
      if f.sign = 0 ∧ n then if sat then 0x00 else f.nanc
      else if sat then withSign f n f.maxc
      else match f.infc with | some i => withSign f n i | none => f.nanc
    | .fin n m e s =>
      if m = 0 ∧ s = false then if f.ieee then withSign f n 0 else 0
      else
        let c := (roundMagCode f mode u n m e s).toNat
        if c = 0 then if f.ieee then withSign f n 0 else 0
        else if f.sign = 0 ∧ n then if sat then 0x00 else f.nanc
        else if f.maxc < c then overflowCode f mode n sat
        else withSign f n c

/-- A finite value rounded to an integer by the mode (07 R126). -/
def roundInt (mode u : Nat) (neg : Bool) (m : Nat) (e : Int) (s : Bool) : Int :=
  let c := clampShift m (-e) s
  let q := roundQuot mode u neg (c.1 / 2 ^ c.2.1 % 2 == 1) c.1 c.2.1 c.2.2
  if neg then -(q : Int) else q

/-- The bounds of an integer format of `w` bits (06 R111). -/
def intMin (signed : Bool) (w : Nat) : Int := if signed then -2 ^ (w - 1) else 0
/-- Largest value. -/
def intMax (signed : Bool) (w : Nat) : Int := if signed then 2 ^ (w - 1) - 1 else 2 ^ w - 1

/-- The integer indefinite (07 R126). -/
def intIndefinite (signed : Bool) (w : Nat) : Nat := if signed then 2 ^ (w - 1) else 2 ^ w - 1

/-- A magnitude whose top bit stands far above any integer format is outside it without its power of two being formed. -/
def beyondInt (m : Nat) (e : Int) : Bool := 70 < e + m.log2

/-- A floating value converted into an integer format (07 R126). -/
def encodeIntFromNum (signed : Bool) (w mode u : Nat) (sat : Bool) (x : FNum) : Nat :=
  let indef := intIndefinite signed w
  let lo := intMin signed w
  let hi := intMax signed w
  match x with
  | .nan => if sat then 0 else indef
  | .inf n => if sat then lowBits w (if n then lo else hi) else indef
  | .fin n m e s =>
    let i := if beyondInt m e then (if n then lo - 1 else hi + 1) else roundInt mode u n m e s
    if i < lo then if sat then lowBits w lo else indef
    else if hi < i then if sat then lowBits w hi else indef
    else lowBits w i

/-- An integer of a format of `ws` bits converted into an integer format of `w` bits: exact where that is wider (09 R175), else clamped
with sat; without it its low bits where that is narrower, and where the widths agree the integer indefinite out of range
(07 R126). -/
def encodeIntFromInt (signed : Bool) (ws w : Nat) (sat : Bool) (i : Int) : Nat :=
  if ws < w then lowBits w i
  else if sat then lowBits w (max (intMin signed w) (min (intMax signed w) i))
  else if w < ws ∨ (intMin signed w ≤ i ∧ i ≤ intMax signed w) then lowBits w i
  else intIndefinite signed w

/-- The conversion of VCVT, VCVTI, VPACK and VUNPK (09 R175): equal formats copy, with NaN made canonical. -/
def convert (src dst mode u : Nat) (sat : Bool) (c : Nat) : Nat :=
  if src = dst then
    if isIntFmt src then c else match decodeFloat src c with | .nan => (floatFmt src).nanc | _ => c
  else if isIntFmt dst then
    let signed := fmtSigned dst
    if isIntFmt src then encodeIntFromInt signed (fmtWidth src) (fmtWidth dst) sat (decodeInt src c)
    else encodeIntFromNum signed (fmtWidth dst) mode u sat (decodeFloat src c)
  else encodeFloat dst mode u sat (decodeNum src c)

/-! Exact operations. -/

/-- The signed integer (-1)^neg * m * 2^(e - lo), for lo at most e. -/
def scaledInt (neg : Bool) (m : Nat) (e lo : Int) : Int :=
  let v : Int := (m * 2 ^ (e - lo).toNat : Nat)
  if neg then -v else v

/-- A sum of exact values. `rd` gives the sign of an exact zero: -0 under rd unless the addends agree on +0 (09 R169). -/
def numAdd (rd : Bool) (a b : FNum) : FNum :=
  match a, b with
  | .nan, _ => .nan
  | _, .nan => .nan
  | .inf n, .inf k => if n = k then .inf n else .nan
  | .inf n, _ => .inf n
  | _, .inf n => .inf n
  | .fin n m e s, .fin k l g t =>
    if m = 0 ∧ l = 0 then .zero (if n = k then n else rd)
    else if m = 0 then .fin k l g t
    else if l = 0 then .fin n m e s
    else
      let lo := min e g
      let v := scaledInt n m e lo + scaledInt k l g lo
      if v = 0 then .zero rd else .fin (v < 0) v.natAbs lo false

/-- An exact product. -/
def numMul (a b : FNum) : FNum :=
  match a, b with
  | .nan, _ => .nan
  | _, .nan => .nan
  | .inf n, .inf k => .inf (n != k)
  | .inf n, .fin k l _ _ => if l = 0 then .nan else .inf (n != k)
  | .fin n m _ _, .inf k => if m = 0 then .nan else .inf (n != k)
  | .fin n m e _, .fin k l g _ => .fin (n != k) (m * l) (if m * l = 0 then 0 else e + g) false

/-- The value with its sign turned. -/
def numNeg (a : FNum) : FNum :=
  match a with | .nan => .nan | .inf n => .inf (!n) | .fin n m e s => .fin (!n) m e s

/-- The magnitude. -/
def numAbs (a : FNum) : FNum :=
  match a with | .nan => .nan | .inf _ => .inf false | .fin _ m e s => .fin false m e s

/-- Bits kept beyond the leading one by quotients and roots: more than the 24 of a significand and the 16 of 07 R123. -/
def guardBits : Nat := 80

/-- a / b (07 R128): a quotient's magnitude is kept to `guardBits` bits, the rest in `more`. -/
def numDiv (a b : FNum) : FNum :=
  match a, b with
  | .nan, _ => .nan
  | _, .nan => .nan
  | .inf _, .inf _ => .nan
  | .inf n, .fin k _ _ _ => .inf (n != k)
  | .fin n _ _ _, .inf k => .zero (n != k)
  | .fin n m e _, .fin k l g _ =>
    if l = 0 then if m = 0 then .nan else .inf (n != k)
    else if m = 0 then .zero (n != k)
    else
      let up := guardBits + l.log2
      let q := m * 2 ^ up / l
      .fin (n != k) q (e - g - up) (q * l != m * 2 ^ up)

/-- The bits of the integer square root of `n` from bit `k` - 1 down, above those `r` already holds. -/
def sqrtBits (k n r : Nat) : Nat :=
  match k with
  | 0 => r
  | j + 1 => if (r + 2 ^ j) * (r + 2 ^ j) ≤ n then sqrtBits j n (r + 2 ^ j) else sqrtBits j n r

/-- The integer square root. -/
def isqrt (n : Nat) : Nat := sqrtBits (n.log2 / 2 + 1) n 0

/-- A finite value's significand and even exponent. -/
def evenExp (m : Nat) (e : Int) : Nat × Int := if e % 2 = 0 then (m, e) else (2 * m, e - 1)

/-- The square root (07 R128). -/
def numSqrt (a : FNum) : FNum :=
  match a with
  | .nan => .nan
  | .inf n => if n then .nan else .inf false
  | .fin n m e _ =>
    if m = 0 then .zero n
    else if n then .nan
    else
      let x := evenExp m e
      let v := x.1 * 2 ^ (2 * guardBits)
      let r := isqrt v
      .fin false r (x.2 / 2 - guardBits) (r * r != v)

/-- 1 / √a (07 R128): the root of 2^(2k) / m. -/
def numRsq (a : FNum) : FNum :=
  match a with
  | .nan => .nan
  | .inf n => if n then .nan else .zero false
  | .fin n m e _ =>
    if m = 0 then .inf n
    else if n then .nan
    else
      let x := evenExp m e
      let k := guardBits + x.1.log2
      let r := isqrt (2 ^ (2 * k) / x.1)
      .fin false r (-(k : Int) - x.2 / 2) (r * r * x.1 != 2 ^ (2 * k))

/-- Working bits of a power and a logarithm: far above the 40 that any rounding of 07 R122, R123 reads (DEDUCED, log 5). -/
def funcBits : Nat := 512

/-- The product of the roots 2^(2^-j) over the set bits of a binary fraction of `n` bits, to `funcBits` bits: `root` is the
root of the bit above. -/
def exp2Frac (n frac root acc : Nat) : Nat :=
  match n with
  | 0 => acc
  | k + 1 =>
    let r := isqrt (root * 2 ^ funcBits)
    exp2Frac k frac r (if frac / 2 ^ k % 2 = 1 then acc * r / 2 ^ funcBits else acc)

/-- 2^a (07 R128). A power of two with a fraction in its exponent is irrational. -/
def numExp2 (a : FNum) : FNum :=
  match a with
  | .nan => .nan
  | .inf n => if n then .zero false else .inf false
  | .fin n m e _ =>
    if m = 0 then .fin false 1 0 false
    else if 40 < e + m.log2 then
      if n then .fin false 1 (-(2 ^ 40)) false else .fin false 1 (2 ^ 40) false
    else if 0 ≤ e then .fin false 1 (scaledInt n m e 0) false
    else
      let k := (-e).toNat
      let v : Int := if n then -(m : Int) else m
      let i := v / 2 ^ k
      let f := (v % 2 ^ k).toNat
      if f = 0 then .fin false 1 i false
      else .fin false (exp2Frac k f (2 * 2 ^ funcBits) (2 ^ funcBits)) (i - funcBits) true

/-- Fraction bits of log2 of y in [1, 2), y to `funcBits` bits: squaring doubles the logarithm. -/
def log2Bits (n y acc : Nat) : Nat :=
  match n with
  | 0 => acc
  | k + 1 =>
    let z := y * y / 2 ^ funcBits
    if 2 ^ (funcBits + 1) ≤ z then log2Bits k (z / 2) (2 * acc + 1) else log2Bits k z (2 * acc)

/-- Fraction bits formed of a logarithm. -/
def logBits : Nat := 192

/-- log2 a (07 R128). The logarithm of a value that is no power of two is irrational. -/
def numLog2 (a : FNum) : FNum :=
  match a with
  | .nan => .nan
  | .inf n => if n then .nan else .inf false
  | .fin n m e _ =>
    if m = 0 then .inf true
    else if n then .nan
    else
      let top := e + m.log2
      if m = 2 ^ m.log2 then .ofInt top
      else
        let y := m * 2 ^ (funcBits - m.log2)
        let t := top * 2 ^ logBits + log2Bits logBits y 0
        if t < 0 then .fin true (-t - 1).toNat (-logBits) true else .fin false t.toNat (-logBits) true

/-- a * 2^k (09 R169). -/
def numScale (a : FNum) (k : Int) : FNum :=
  match a with | .fin n m e s => .fin n m (if m = 0 then e else e + k) s | x => x

/-- Order of two values that are not NaN: -0 below +0 where `zeros` says so (07 R127). -/
def numLt (zeros : Bool) (a b : FNum) : Bool :=
  match a, b with
  | .nan, _ => false
  | _, .nan => false
  | .inf n, .inf k => n && !k
  | .inf n, _ => n
  | _, .inf k => !k
  | .fin n m e _, .fin k l g _ =>
    if m = 0 ∧ l = 0 then zeros && n && !k
    else
      let lo := min (if m = 0 then g else e) (if l = 0 then e else g)
      scaledInt n m (if m = 0 then lo else e) lo < scaledInt k l (if l = 0 then lo else g) lo

/-- Equality of two values; -0 equals +0, a NaN equals nothing (09 R170). -/
def numEq (a b : FNum) : Bool :=
  match a, b with
  | .nan, _ => false
  | _, .nan => false
  | _, _ => !numLt false a b && !numLt false b a

/-- The lesser value (07 R127). -/
def numMin (a b : FNum) : FNum :=
  match a, b with | .nan, _ => .nan | _, .nan => .nan | _, _ => if numLt true b a then b else a

/-- The greater value (07 R127). -/
def numMax (a b : FNum) : FNum :=
  match a, b with | .nan, _ => .nan | _, .nan => .nan | _, _ => if numLt true a b then b else a

/-- FP32 rounding under rne of every sum no field rounds (07 R122, R129). -/
def roundF32 (x : FNum) : Nat := encodeFloat 0 0 0 false x

/-! The random bits of 07 R124. -/

/-- One round of Philox4x32 on counter words c0-c3 with key words k0, k1. -/
def philoxRound (c : Nat × Nat × Nat × Nat) (k0 k1 : Nat) : Nat × Nat × Nat × Nat :=
  let (c0, c1, c2, c3) := c
  let p0 := 0xD2511F53 * c0
  let p1 := 0xCD9E8D57 * c2
  (Nat.xor (Nat.xor (p1 / 2 ^ 32) c1) k0, p1 % 2 ^ 32, Nat.xor (Nat.xor (p0 / 2 ^ 32) c3) k1, p0 % 2 ^ 32)

/-- `n` rounds, the key stepping between them. -/
def philoxRounds (n : Nat) (c : Nat × Nat × Nat × Nat) (k0 k1 : Nat) : Nat × Nat × Nat × Nat :=
  match n with
  | 0 => c
  | m + 1 => philoxRounds m (philoxRound c k0 k1) ((k0 + 0x9E3779B9) % 2 ^ 32) ((k1 + 0xBB67AE85) % 2 ^ 32)

/-- What the random bits depend on: SEED, the LSN and the task serial. -/
structure Draw where
  seed   : Nat
  lsn    : Nat
  serial : Nat
  deriving DecidableEq, Repr

/-- The 16 random bits of site `j` in repetition `r` (07 R124). -/
def randomBits (d : Draw) (r j : Nat) : Nat :=
  let c := (d.lsn % 2 ^ 32, d.lsn / 2 ^ 32 % 2 ^ 16 + d.serial / 2 ^ 32 % 2 ^ 16 * 2 ^ 16, d.serial % 2 ^ 32,
            (r * 2 ^ 16 + j / 8) % 2 ^ 32)
  let o := philoxRounds 10 c (d.seed % 2 ^ 32) (d.seed / 2 ^ 32 % 2 ^ 32)
  let w := match j % 8 / 2 with | 0 => o.1 | 1 => o.2.1 | 2 => o.2.2.1 | _ => o.2.2.2
  w / 2 ^ (16 * (j % 2)) % 2 ^ 16

/-! Elements in storage (06 R106). -/

/-- Element `i` of width `w` bits of a vector. -/
def getElem (v : VecWord) (w i : Nat) : Nat := v.toNat / 2 ^ (w * i) % 2 ^ w

/-- A vector with element `i` of width `w` replaced by the low bits of `x`. -/
def setElem (v : VecWord) (w i x : Nat) : VecWord :=
  BitVec.ofNat 4096 (v.toNat - getElem v w i * 2 ^ (w * i) + x % 2 ^ w * 2 ^ (w * i))

/-- A vector with elements written from a list of positions and values. -/
def setElems (v : VecWord) (w : Nat) (l : List (Nat × Nat)) : VecWord := l.foldl (fun a p => setElem a w p.1 p.2) v

/-- The elements of a vector. -/
def elemsOf (v : VecWord) (w n : Nat) : List Nat := (List.range n).map (getElem v w)

/-- A vector of one value in every element. -/
def splat (w x : Nat) : VecWord := setElems 0 w ((List.range (4096 / w)).map fun i => (i, x))

/-- Bytes of a natural number, least significant first. -/
def bytesOf (n v : Nat) : List Byte :=
  match n with
  | 0 => []
  | m + 1 => BitVec.ofNat 8 v :: bytesOf m (v / 256)

/-- A list of bytes cut or padded with zeros to `n`. -/
def padTo (n : Nat) (bs : List Byte) : List Byte := bs.take n ++ List.replicate (n - bs.length) 0

/-- The natural number of little-endian bytes. -/
def natOf (bs : List Byte) : Nat :=
  match bs with
  | [] => 0
  | b :: rest => b.toNat + 256 * natOf rest

/-- Add32 of 12 R245. -/
def add32 (ck : BitVec 32) (bs : List Byte) (fuel : Nat) : BitVec 32 :=
  match fuel with
  | 0 => ck
  | k + 1 => match bs with | [] => ck | _ => add32 (ck + BitVec.ofNat 32 (natOf (bs.take 4))) (bs.drop 4) k

/-- One bit of CRC-32C, `n` times. -/
def crcBits (n : Nat) (c : BitVec 32) : BitVec 32 :=
  match n with
  | 0 => c
  | k + 1 => crcBits k (if c.getLsbD 0 then (c >>> 1) ^^^ 0x82F63B78#32 else c >>> 1)

/-- Crc32c of 12 R245, continuing from ck. -/
def crc32c (ck : BitVec 32) (bs : List Byte) : BitVec 32 :=
  ~~~(bs.foldl (fun c b => crcBits 8 (c ^^^ b.setWidth 32)) (~~~ck))

/-- The checksum of CKM2 over bytes in ascending address order (12 R245). -/
def checksum (ckm : BitVec 2) (ck : BitVec 32) (bs : List Byte) : BitVec 32 :=
  if ckm = 1 then add32 ck bs bs.length else if ckm = 2 then crc32c ck bs else ck

end Sys2Proof.Machine
end

