-- ==== Sys2Proof/Machine/Flags.lean ====
section
/-! DEFINITION. Every comparison and test that decides a predicate or a branch: the scalar and vector compare conditions, the
branch tests, the class mask, predicate logic. The architecture has no carry or overflow flags (08 R136, 07 R127). -/

namespace Sys2Proof.Machine

/-- The signed compares: eq, ne, lt, le, gt, ge by code (08 R139). -/
def cmpSignedCode (cc : Nat) (a b : Word) : Bool :=
  match cc with
  | 0 => a == b
  | 1 => a != b
  | 2 => a.slt b
  | 3 => a.sle b
  | 4 => b.slt a
  | _ => b.sle a

/-- The unsigned compares: ltu, leu, gtu, geu by code (08 R139). -/
def cmpUnsignedCode (cc : Nat) (a b : Word) : Bool :=
  match cc with
  | 0 => a.ult b
  | 1 => a.ule b
  | 2 => b.ult a
  | _ => b.ule a

/-- The branch test of COND3 on the 128 lanes of a predicate (08 R152). -/
def condTest (cond : BitVec 3) (p : PredWord) : Bool :=
  match cond.toNat with
  | 0 => true
  | 1 => p[0]
  | 2 => !p[0]
  | 3 => p != 0
  | 4 => p == 0
  | 5 => p == BitVec.allOnes 128
  | _ => p != BitVec.allOnes 128

/-- Lane by lane logic of PLOG (08 R140). -/
def plogLanes (fn : Nat) (a b : PredWord) : PredWord :=
  match fn with
  | 0 => a &&& b
  | 1 => a ||| b
  | 2 => a ^^^ b
  | 3 => a &&& ~~~b
  | _ => ~~~a

/-- Lanes 0 to n - 1 set (08 R141). -/
def lanesBelow (n : Nat) : PredWord := BitVec.ofNat 128 (2 ^ (min n 128) - 1)

/-- How many lanes are set. -/
def laneCount (p : PredWord) : Nat := ((List.range 128).filter fun i => p.getLsbD i).length

/-- The ordered relations of VCMP: NaN makes every one false but ne (09 R170). -/
def vcmpOrd (cc : Nat) (a b : FNum) : Bool :=
  match cc with
  | 0 => numEq a b
  | 1 => !numEq a b
  | 2 => numLt false a b
  | 3 => numLt false a b || numEq a b
  | 4 => numLt false b a
  | _ => numLt false b a || numEq a b

/-- Either operand NaN. -/
def eitherNaN (a b : FNum) : Bool := a == .nan || b == .nan

/-- The unordered relations of VCMP: un, ueq, ult, ule, ugt, uge (09 R170). -/
def vcmpUnord (cc : Nat) (a b : FNum) : Bool :=
  eitherNaN a b || (match cc with
    | 0 => false
    | 1 => numEq a b
    | 2 => numLt false a b
    | 3 => numLt false a b || numEq a b
    | 4 => numLt false b a
    | _ => numLt false b a || numEq a b)

/-- The relations of VICMP on `w` bits: 0 to 5 signed, 8 to 11 unsigned (09 R170). -/
def vicmpRel (cc w a b : Nat) : Bool :=
  match cc with
  | 0 => a == b
  | 1 => a != b
  | 2 => decide (signedOf w a < signedOf w b)
  | 3 => decide (signedOf w a ≤ signedOf w b)
  | 4 => decide (signedOf w b < signedOf w a)
  | 5 => decide (signedOf w b ≤ signedOf w a)
  | 8 => decide (a < b)
  | 9 => decide (a ≤ b)
  | 10 => decide (b < a)
  | _ => decide (b ≤ a)

/-- Smallest exponent of a normal number of f32, f16, bf16, as the exponent of its value (06 R109). -/
def minNormal (fmt : Nat) : Int := if fmt = 1 then -14 else -126

/-- The class mask of VCLASS: exactly one of bits 0 to 8 (09 R169). -/
def classMask (fmt : Nat) (x : FNum) : Nat :=
  match x with
  | .nan => 1
  | .inf true => 2
  | .inf false => 256
  | .fin n m e _ =>
    if m = 0 then if n then 16 else 32
    else
      let sub := e + m.log2 < minNormal fmt
      if n then (if sub then 8 else 4) else (if sub then 64 else 128)

end Sys2Proof.Machine
end

