-- ==== Sys2Proof/WellFormed.lean ====
section
/-! DEFINITION. The instructions whose field values the decoder accepts. An event has no encoding and is well-formed. -/

namespace Sys2Proof

open Sys2Proof.Machine

/-- Whether every field of an instruction holds a value its word accepts, in slice text (`sl`) or in logical text (05 R102,
item 2). -/
def Instr.wfIn (sl : Bool) (i : Instr) : Bool :=
  match i with
  | .add d _ b f => chanOk sl d b f
  | .sub d _ b f => chanOk sl d b f
  | .and d _ b f => chanOk sl d b f
  | .or d _ b f => chanOk sl d b f
  | .xor d _ b f => chanOk sl d b f
  | .shl d _ b f => chanOk sl d b f
  | .shr d _ b f => chanOk sl d b f
  | .sar d _ b f => chanOk sl d b f
  | .mul d _ b f => chanOk sl d b f
  | .mulh d _ b f => chanOk sl d b f
  | .mulhu d _ b f => chanOk sl d b f
  | .div d _ b f => chanOk sl d b f
  | .divu d _ b f => chanOk sl d b f
  | .rem d _ b f => chanOk sl d b f
  | .remu d _ b f => chanOk sl d b f
  | .min d _ b f => chanOk sl d b f
  | .max d _ b f => chanOk sl d b f
  | .minu d _ b f => chanOk sl d b f
  | .maxu d _ b f => chanOk sl d b f
  | .clz _ _ => true
  | .ctz _ _ => true
  | .popc _ _ => true
  | .bfx _ _ pos width => decide (pos.toNat + width.toNat + 1 ≤ 64)
  | .bfi _ _ pos width => decide (pos.toNat + width.toNat + 1 ≤ 64)
  | .sel _ _ _ f => decide (f.toNat % 32 < 24)
  | .cmpSigned pd _ _ cc => pOk pd && decide (cc.toNat ≤ 5)
  | .cmpUnsigned pd _ _ cc => pOk pd && decide (cc.toNat ≤ 3)
  | .plog pd pa pb fn => pOk pd && pOk pa && pOk pb && decide (fn.toNat ≤ 4) && (fn != 4 || pb == 0)
  | .psetn pd _ => pOk pd
  | .ptest _ pa => pOk pa
  | .addi _ _ _ => true
  | .andi _ _ _ => true
  | .ori _ _ _ => true
  | .xori _ _ _ => true
  | .shli _ _ imm => decide (imm.toNat < 64)
  | .shri _ _ imm => decide (imm.toNat < 64)
  | .sari _ _ imm => decide (imm.toNat < 64)
  | .muli _ _ _ => true
  | .cmpiEq pd _ _ => pOk pd
  | .cmpiNe pd _ _ => pOk pd
  | .cmpiLt pd _ _ => pOk pd
  | .cmpiLe pd _ _ => pOk pd
  | .cmpiLtu pd _ _ => pOk pd
  | .cmpiLeu pd _ _ => pOk pd
  | .lih _ _ => true
  | .csrrd _ _ => true
  | .csrwr _ _ => true
  | .ldg _ _ => true
  | .ldc _ _ _ => true
  | .ldb _ a hb _ => baseOk hb a
  | .ldbu _ a hb _ => baseOk hb a
  | .ldh _ a hb _ => baseOk hb a
  | .ldhu _ a hb _ => baseOk hb a
  | .ldw _ a hb _ => baseOk hb a
  | .ldwu _ a hb _ => baseOk hb a
  | .ldd _ a hb _ => baseOk hb a
  | .stb _ a hb _ => baseOk hb a
  | .sth _ a hb _ => baseOk hb a
  | .stw _ a hb _ => baseOk hb a
  | .std _ a hb _ => baseOk hb a
  | .cvta _ _ f => decide (f.toNat % 8 ≤ 5) && decide (f.toNat / 8 ≤ 5)
  | .isspace pd _ f => pOk pd && decide (f.toNat ≤ 5)
  | .qmark => true
  | .fence f => fenceOk f
  | .pfence a b f => fenceOk f && decide (a.toNat < 2) && decide (b.toNat < 2) && a != b
  | .pbr _ _ => true
  | .pbrx t _ => decide (t.toNat < 8)
  | .br pred cond _ => condOk pred cond
  | .call pred cond _ => condOk pred cond
  | .loopReg _ _ _ => true
  | .loopImm _ _ _ => true
  | .dpush pred cond _ => sl && predOk pred && cond != 7
  | .dtake pd _ => sl && predOk pd
  | .texit => true
  | .taskExit _ => true
  | .trap _ => true
  | .bkpt _ => true
  | .nop => true
  | .erls => true
  | .swait _ _ => true
  | .swaitge _ _ => true
  | .semaphoreWaitSuccess _ => true
  | .saddImm _ _ => true
  | .saddReg _ _ _ => true
  | .push _ _ _ => true
  | .popy _ _ => true
  | .popyNb _ _ => true
  | .resultQueueReady _ => true
  | .maprd _ _ => true
  | .mapack _ => true
  | .cropen _ => true
  | .crclose => true
  | .hnew _ _ k => decide (12 ≤ k.toNat) && decide (k.toNat ≤ 22)
  | .hsee _ _ => true
  | .hseeof _ _ => true
  | .hdup _ _ => true
  | .hdrop _ => true
  | .versionSeal _ => true
  | .hsend _ _ => true
  | .mailboxRetry _ => true
  | .hrecv _ _ => true
  | .handleReceived _ => true
  | .hstat _ _ => true
  | .parkedAccessUnpark _ => true
  | .amo op _ _ scope _ a _ hb _ => decide (op.toNat ≤ 8) && decide (scope.toNat ≤ 6) && baseOk hb a
  | .cas _ _ scope _ _ a _ hb _ => decide (scope.toNat ≤ 6) && baseOk hb a
  | .swaitt _ _ _ pd => predOk pd
  | .swaittTimeout _ => true
  | .spostx _ _ _ => true
  | .spostxArrival => true
  | .bararr _ => true
  | .barexp _ _ => true
  | .barwait _ => true
  | .barwaitt _ _ pd => predOk pd
  | .barrierWaitSuccess _ => true
  | .barwaittTimeout _ => true
  | .launch _ => true
  | .launchNb _ _ => true
  | .ldil _ _ => true
  | .sbind w => sOk sl { xa := true, xb := true, xc := true, qr := true, dir := true } w
  | .sunbind w => sOk sl { qr := true } w
  | .qEntryFetch _ _ => true
  | .sld w => sOk sl { xa := true, slot := true, size := true } w
  | .sst w => sOk sl { xa := true, slot := true, size := true } w
  | .sgather w => sOk sl { xa := true, xb := true, qr := true, mode := true } w && decide (w.mode.toNat ≤ 3)
  | .sscatter w => sOk sl { xa := true, xb := true, qr := true, mode := true } w && decide (w.mode.toNat ≤ 3)
  | .smeta w => sOk sl { xa := true, xb := true, imm := true } w && decide (w.imm.toNat ≤ 1)
  | .mqEntryFetch _ _ => true
  | .cpy w => sOk sl { xa := true, xb := true, xc := true, ck := true } w
  | .cpymc w => sOk sl { xa := true, xb := true, xc := true, size := true } w
  | .cpyr w => sOk sl { xa := true, xb := true, xc := true, mode := true, ck := true } w && decide (w.mode.toNat % 4 ≤ 2) && decide (w.mode.toNat / 4 ≤ 2)
  | .cpyf w => sOk sl { xa := true, xb := true, xc := true, ck := true } w
  | .ckrdRead w => ckrdReadOk sl w
  | .ckrdLoad w => sOk sl { xa := true, mode := true, ckr := true } w && w.mode == 1
  | .stage w => sOk sl { xa := true, xb := true, xc := true } w
  | .spf w => sOk sl { xa := true, xc := true } w
  | .gpush w => sOk sl { xa := true, xb := true } w
  | .sloop _ _ _ sync => sl && syncOk sl sync
  | .sdbr _ _ _ sync => sl && syncOk sl sync
  | .snop w => sOk sl sUseNone w
  | .snopMark w => sOk sl { imm := true } w && w.imm == 1
  | .vadd w => v2Ok sl w && tyFloatRnd w
  | .vsub w => v2Ok sl w && tyFloatRnd w
  | .vmul w => v2Ok sl w && tyFloatRnd w
  | .vfma w => v3Ok sl w && tyFloatRnd w
  | .vfms w => v3Ok sl w && tyFloatRnd w
  | .vfnma w => v3Ok sl w && tyFloatRnd w
  | .vmin w => v2Ok sl w && tyFloat w
  | .vmax w => v2Ok sl w && tyFloat w
  | .vabs w => v1Ok sl w && tyFloat w
  | .vneg w => v1Ok sl w && tyFloat w
  | .vdiv w => v2Ok sl w && tyFloatRnd w
  | .vsqrt w => v1Ok sl w && tyFloatRnd w
  | .vexp2 w => v1Ok sl w && tyFloatRnd w
  | .vlog2 w => v1Ok sl w && tyFloatRnd w
  | .vrsq w => v1Ok sl w && tyFloatRnd w
  | .vscale w => v2Ok sl w && tyFloatRnd w
  | .vclass w => v1Ok sl w && tyFloat w
  | .vcmpOrdered w => vcmpOk sl w [0, 1, 2, 3, 4, 5] && tyFloat w
  | .vcmpUnordered w => vcmpOk sl w [0, 1, 2, 3, 4, 5] && tyFloat w
  | .vsel w => v2Ok sl w && tyInt w
  | .vred w => vredOk sl true w
  | .vscan w => vredOk sl false w
  | .vcvt w => vcvtOk sl w (fun t => fmtFloat t || fmtB8 t)
  | .vpack w => vpackOk sl w
  | .vunpk w => vunpkOk sl w
  | .vcvti w => vcvtOk sl w fmtInt
  | .viadd w => v2Ok sl w && tyInt w
  | .visub w => v2Ok sl w && tyInt w
  | .vimul w => v2Ok sl w && tyInt w
  | .vimad w => v3Ok sl w && tyInt w
  | .vand w => v2Ok sl w && tyInt w
  | .vor w => v2Ok sl w && tyInt w
  | .vxor w => v2Ok sl w && tyInt w
  | .vshl w => v2Ok sl w && tyInt w
  | .vshr w => v2Ok sl w && tyInt w
  | .vsar w => v2Ok sl w && tyInt w
  | .vimin w => v2Ok sl w && tyInt w
  | .vimax w => v2Ok sl w && tyInt w
  | .vicmp w => vcmpOk sl w [0, 1, 2, 3, 4, 5, 8, 9, 10, 11] && tyInt w
  | .vhash w => v2Ok sl { w with imm := 0 } && (w.ty == 6 || w.ty == 10) && w.rnd == 0
  | .vperm w => v2Ok sl w && (w.ty == 5 || w.ty == 6 || w.ty == 9 || w.ty == 10) && w.rnd == 0
  | .vbcast w => v2Ok sl w && tyInt w
  | .viota w => v1Ok sl w && tyInt w
  | .vmov w => v1Ok sl w && tyInt w
  | .vlen w => vlenOk sl w
  | .vextr w => vextrOk sl w
  | .vaccrd w => vaccrdOk sl w
  | .vaccwr w => vaccwrOk sl w
  | .vloop _ _ _ sync => sl && syncOk sl sync
  | .vdbr _ _ _ sync => sl && syncOk sl sync
  | .vnop sync => syncOk sl sync
  | .vdot4 w => v2Ok sl w && w.ty == 6 && w.rnd == 0
  | .mma w => mmaOk sl false w
  | .mmas w => mmaOk sl true w
  | .mzero w => mzeroOk sl w
  | .mload w => mmoveOk sl false w
  | .mstore w => mmoveOk sl true w
  | .mscale w => mscaleOk sl w
  | .mflag w => mflagOk sl w
  | .mloop _ _ _ sync => sl && syncOk sl sync
  | .mdbr _ _ _ sync => sl && syncOk sl sync
  | .mnop sync => syncOk sl sync
  | .mma16 w => mma16Ok sl w
  | .frontierPost _ => true
  | .perform _ _ => true
  | .depart _ _ => true
  | .writeback _ _ _ => true
  | .dirtyWritebackTimeout _ _ => true
  | .fill _ _ => true
  | .drop _ _ => true
  | .rvfill _ _ => true
  | .rvdrop _ _ => true
  | .atomic _ => true
  | .loadCodeObject _ _ => true
  | .granuleArrival _ _ _ => true
  | .launchQueueSubmit _ _ _ => true
  | .launchAccept _ _ => true
  | .taskBind _ => true
  | .taskDispatch _ => true
  | .taskStart _ => true
  | .launchComplete _ => true
  | .class0Preemption _ => true
  | .cycleLimitExpiry _ => true
  | .rebuild _ _ => true
  | .taskResume _ _ _ => true
  | .hostFaultResume _ _ _ => true
  | .debugHalt _ => true
  | .debugSingleStep _ _ => true
  | .debugImageEdit _ _ _ => true
  | .debugRelease _ _ => true
  | .partitionEviction _ => true
  | .hostRelease _ => true
  | .unitFailure _ => true
  | .mapPublish _ _ _ => true
  | .ackWindowExpiry _ => true
  | .hostMapAck _ _ => true
  | .gddr7ChannelRetraining _ _ _ _ => true
  | .dieFirmwareUpdate _ _ _ => true
  | .rurelPortRetraining _ _ => true
  | .moduleReplacement _ _ => true
  | .thermalClockStep => true
  | .thermalShutdown => true
  | .undervoltClockStep _ => true
  | .undervoltRecoveryStep => true
  | .voltageDip _ => true
  | .overvoltageNotify _ => true
  | .powerFailure => true
  | .powerRemoval => true
  | .modResetRelease _ _ _ _ => true
  | .firmwareSlotWrite _ => true
  | .attestationRequest _ _ => true
  | .errinjWrite _ => true
  | .errorCounterRead _ _ => true
  | .mgmtRegisterWrite _ _ _ _ => true
  | .partitionCreate _ => true
  | .partitionEnd _ => true
  | .resourceMove _ _ _ => true
  | .translationInvalidate _ _ _ => true
  | .flitReceive _ _ => true
  | .portFailure _ => true
  | .readRequest _ => true
  | .readResponse _ => true
  | .writePacket _ => true
  | .atomicPacket _ => true
  | .copySector _ => true
  | .reducingCopySector _ => true
  | .handlePacket _ => true
  | .launchSubmission _ => true
  | .hostCommand _ => true
  | .event _ => true
  | .mapNotice _ => true
  | .acknowledgement _ => true
  | .sealOrAbandon _ => true
  | .sectorResend _ => true
  | .commandGiveUp _ => true
  | .xidMarkExpiry _ => true
  | .gradientBlock _ => true
  | .weightPublication _ => true
  | .stepComplete _ _ => true
  | .stepDeadlineExpiry _ _ => true
  | .paramHomeCreate _ => true
  | .hostKill _ => true
  | .heldLaunchResume _ => true
  | .gradientBlockResend _ => true
  | .patrolScrub _ => true
  | .hostErrorCounterRead _ => true

/-- Accepted in logical or in slice text. -/
def Instr.wf (i : Instr) : Bool := i.wfIn false || i.wfIn true

end Sys2Proof
end

