-- ==== Sys2Proof/Decode.lean ====
section
/-! DEFINITION. The decoder (05 R80-R102): from the bytes of stored units to an instruction, or a rejection by name; and
the encoder, written from the same tables. -/

namespace Sys2Proof

open Sys2Proof.Machine

/-- Why a word is no instruction. -/
inductive Reject where
  /-- Fewer bytes than the class needs. -/
  | truncated
  /-- An undefined opcode or EOP: 0x0101 (05 R102, item 1). -/
  | undefined
  /-- A reserved field or value, an index out of range, a step past its file: 0x0102 (05 R102, item 2). -/
  | reserved
  deriving DecidableEq, Repr

/-- The fault code of a rejection (05 R102); a last word that the end of the text cuts off is taken as an undefined encoding, since no rule
names a code for it (DESIGN CHOICE, log 63). -/
def Reject.code (r : Reject) : Nat := match r with | .reserved => 0x0102 | .undefined => 0x0101 | .truncated => 0x0101

/-- The `n` bits of `w` from bit `lo` up. -/
def fieldAt (n lo w : Nat) : BitVec n := BitVec.ofNat n (w / 2 ^ lo)

/-- A word from its fixed bits and its fields, each at its lowest bit. -/
def put (base : Nat) (fields : List (Nat × Nat)) : Nat :=
  match fields with
  | [] => base
  | (v, lo) :: rest => put (base + v * 2 ^ lo) rest

/-- OP7 of a C32 word (05 R85). -/
def op7 (op : Nat) : Nat := op * 2 ^ 24
/-- Class and EOP9 of an E64 word (05 R89). -/
def eop (op : Nat) : Nat := 7 * 2 ^ 61 + op * 2 ^ 52
/-- Class and OP9 of an S96 word (05 R96). -/
def op9S (op : Nat) : Nat := 4 * 2 ^ 93 + op * 2 ^ 84
/-- Class and OP9 of a V96 word (05 R90). -/
def op9V (op : Nat) : Nat := 5 * 2 ^ 93 + op * 2 ^ 84
/-- Class and OP8 of an M192 word (05 R98). -/
def op8M (op : Nat) : Nat := 6 * 2 ^ 189 + op * 2 ^ 181

/-- The flow layout of a loop word (05 R95). -/
def loopFlow (l : BitVec 2) (ch : BitVec 4) (body : BitVec 14) : Nat := l.toNat * 2 ^ 22 + ch.toNat * 2 ^ 18 + body.toNat
/-- The flow layout of a branch word (05 R95). -/
def branchFlow (q : BitVec 2) (sense : BitVec 1) (disp : BitVec 21) : Nat :=
  q.toNat * 2 ^ 22 + sense.toNat * 2 ^ 21 + disp.toNat

/-- The fields of a V96 word (05 R90). -/
def vBits (op : Nat) (w : VWord) : Nat :=
  put (op9V op)
    [(w.dst.toNat, 76), (w.sa.toNat, 68), (w.sb.toNat, 60), (w.sc.toNat, 52), (w.pred.toNat, 47),
     (w.neg.toNat, 46), (w.ty.toNat, 40), (w.rnd.toNat, 36), (w.rep.toNat, 32), (w.strd.toNat, 24),
     (w.sync.toNat, 5), (w.imm.toNat, 0)]

/-- The fields of an S96 word (05 R96). -/
def sBits (op : Nat) (w : SWord) : Nat :=
  put (op9S op)
    [(w.xa.toNat, 78), (w.xb.toNat, 72), (w.xc.toNat, 66), (w.slot.toNat, 60), (w.stage.toNat, 58),
     (w.qr.toNat, 54), (w.dir.toNat, 53), (w.dims.toNat, 51), (w.size.toNat, 47), (w.mode.toNat, 43),
     (w.ckm.toNat, 41), (w.ckr.toNat, 39), (w.sync.toNat, 5), (w.imm.toNat, 0)]

/-- The fields of an M192 word (05 R98). -/
def mBits (op : Nat) (w : MWord) : Nat :=
  put (op8M op)
    [(w.cidx.toNat, 177), (w.asrc.toNat, 176), (w.aoff.toNat, 162), (w.apitch.toNat, 150), (w.boff.toNat, 136),
     (w.bpitch.toNat, 124), (w.bt.toNat, 123), (w.afmt.toNat, 117), (w.bfmt.toNat, 111), (w.arnd.toNat, 107),
     (w.asat.toNat, 106), (w.acc2.toNat, 104), (w.chk.toNat, 102), (w.spm.toNat, 100), (w.mqs.toNat, 99),
     (w.mxe.toNat, 98), (w.sca.toNat, 84), (w.scb.toNat, 70), (w.xd.toNat, 64), (w.fscale.toNat, 32),
     (w.rep.toNat, 24), (w.sync.toNat, 5)]

/-- The fields of a V96 word, read (05 R90). -/
def vFields (w : Nat) : VWord :=
  { dst := fieldAt 8 76 w, sa := fieldAt 8 68 w, sb := fieldAt 8 60 w, sc := fieldAt 8 52 w,
    pred := fieldAt 5 47 w, neg := fieldAt 1 46 w, ty := fieldAt 6 40 w, rnd := fieldAt 4 36 w,
    rep := fieldAt 4 32 w, strd := fieldAt 8 24 w, sync := fieldAt 19 5 w, imm := fieldAt 5 0 w }

/-- The fields of an S96 word, read (05 R96). -/
def sFields (w : Nat) : SWord :=
  { xa := fieldAt 6 78 w, xb := fieldAt 6 72 w, xc := fieldAt 6 66 w, slot := fieldAt 6 60 w,
    stage := fieldAt 2 58 w, qr := fieldAt 4 54 w, dir := fieldAt 1 53 w, dims := fieldAt 2 51 w,
    size := fieldAt 4 47 w, mode := fieldAt 4 43 w, ckm := fieldAt 2 41 w, ckr := fieldAt 2 39 w,
    sync := fieldAt 19 5 w, imm := fieldAt 5 0 w }

/-- The fields of an M192 word, read (05 R98). -/
def mFields (w : Nat) : MWord :=
  { cidx := fieldAt 4 177 w, asrc := fieldAt 1 176 w, aoff := fieldAt 14 162 w, apitch := fieldAt 12 150 w,
    boff := fieldAt 14 136 w, bpitch := fieldAt 12 124 w, bt := fieldAt 1 123 w, afmt := fieldAt 6 117 w,
    bfmt := fieldAt 6 111 w, arnd := fieldAt 4 107 w, asat := fieldAt 1 106 w, acc2 := fieldAt 2 104 w,
    chk := fieldAt 2 102 w, spm := fieldAt 2 100 w, mqs := fieldAt 1 99 w, mxe := fieldAt 1 98 w,
    sca := fieldAt 14 84 w, scb := fieldAt 14 70 w, xd := fieldAt 6 64 w, fscale := fieldAt 32 32 w,
    rep := fieldAt 8 24 w, sync := fieldAt 19 5 w }

/-- 32-bit units of an instruction's word; 0 for an event, which has none (05 R81). -/
def Instr.units (i : Instr) : Nat :=
  match i with
  | .add _ _ _ _ => 1
  | .sub _ _ _ _ => 1
  | .and _ _ _ _ => 1
  | .or _ _ _ _ => 1
  | .xor _ _ _ _ => 1
  | .shl _ _ _ _ => 1
  | .shr _ _ _ _ => 1
  | .sar _ _ _ _ => 1
  | .mul _ _ _ _ => 1
  | .mulh _ _ _ _ => 1
  | .mulhu _ _ _ _ => 1
  | .div _ _ _ _ => 1
  | .divu _ _ _ _ => 1
  | .rem _ _ _ _ => 1
  | .remu _ _ _ _ => 1
  | .min _ _ _ _ => 1
  | .max _ _ _ _ => 1
  | .minu _ _ _ _ => 1
  | .maxu _ _ _ _ => 1
  | .clz _ _ => 1
  | .ctz _ _ => 1
  | .popc _ _ => 1
  | .bfx _ _ _ _ => 1
  | .bfi _ _ _ _ => 1
  | .sel _ _ _ _ => 1
  | .cmpSigned _ _ _ _ => 1
  | .cmpUnsigned _ _ _ _ => 1
  | .plog _ _ _ _ => 1
  | .psetn _ _ => 1
  | .ptest _ _ => 1
  | .addi _ _ _ => 1
  | .andi _ _ _ => 1
  | .ori _ _ _ => 1
  | .xori _ _ _ => 1
  | .shli _ _ _ => 1
  | .shri _ _ _ => 1
  | .sari _ _ _ => 1
  | .muli _ _ _ => 1
  | .cmpiEq _ _ _ => 1
  | .cmpiNe _ _ _ => 1
  | .cmpiLt _ _ _ => 1
  | .cmpiLe _ _ _ => 1
  | .cmpiLtu _ _ _ => 1
  | .cmpiLeu _ _ _ => 1
  | .lih _ _ => 1
  | .csrrd _ _ => 1
  | .csrwr _ _ => 1
  | .ldg _ _ => 1
  | .ldc _ _ _ => 1
  | .ldb _ _ _ _ => 1
  | .ldbu _ _ _ _ => 1
  | .ldh _ _ _ _ => 1
  | .ldhu _ _ _ _ => 1
  | .ldw _ _ _ _ => 1
  | .ldwu _ _ _ _ => 1
  | .ldd _ _ _ _ => 1
  | .stb _ _ _ _ => 1
  | .sth _ _ _ _ => 1
  | .stw _ _ _ _ => 1
  | .std _ _ _ _ => 1
  | .cvta _ _ _ => 1
  | .isspace _ _ _ => 1
  | .qmark => 1
  | .fence _ => 1
  | .pfence _ _ _ => 1
  | .pbr _ _ => 1
  | .pbrx _ _ => 1
  | .br _ _ _ => 1
  | .call _ _ _ => 1
  | .loopReg _ _ _ => 1
  | .loopImm _ _ _ => 1
  | .dpush _ _ _ => 1
  | .dtake _ _ => 1
  | .texit => 1
  | .taskExit _ => 0
  | .trap _ => 1
  | .bkpt _ => 1
  | .nop => 1
  | .erls => 1
  | .swait _ _ => 1
  | .swaitge _ _ => 1
  | .semaphoreWaitSuccess _ => 0
  | .saddImm _ _ => 1
  | .saddReg _ _ _ => 1
  | .push _ _ _ => 1
  | .popy _ _ => 1
  | .popyNb _ _ => 1
  | .resultQueueReady _ => 0
  | .maprd _ _ => 1
  | .mapack _ => 1
  | .cropen _ => 1
  | .crclose => 1
  | .hnew _ _ _ => 1
  | .hsee _ _ => 1
  | .hseeof _ _ => 1
  | .hdup _ _ => 1
  | .hdrop _ => 1
  | .versionSeal _ => 0
  | .hsend _ _ => 1
  | .mailboxRetry _ => 0
  | .hrecv _ _ => 1
  | .handleReceived _ => 0
  | .hstat _ _ => 1
  | .parkedAccessUnpark _ => 0
  | .amo _ _ _ _ _ _ _ _ _ => 2
  | .cas _ _ _ _ _ _ _ _ _ => 2
  | .swaitt _ _ _ _ => 2
  | .swaittTimeout _ => 0
  | .spostx _ _ _ => 2
  | .spostxArrival => 0
  | .bararr _ => 2
  | .barexp _ _ => 2
  | .barwait _ => 2
  | .barwaitt _ _ _ => 2
  | .barrierWaitSuccess _ => 0
  | .barwaittTimeout _ => 0
  | .launch _ => 2
  | .launchNb _ _ => 2
  | .ldil _ _ => 2
  | .sbind _ => 3
  | .sunbind _ => 3
  | .qEntryFetch _ _ => 0
  | .sld _ => 3
  | .sst _ => 3
  | .sgather _ => 3
  | .sscatter _ => 3
  | .smeta _ => 3
  | .mqEntryFetch _ _ => 0
  | .cpy _ => 3
  | .cpymc _ => 3
  | .cpyr _ => 3
  | .cpyf _ => 3
  | .ckrdRead _ => 3
  | .ckrdLoad _ => 3
  | .stage _ => 3
  | .spf _ => 3
  | .gpush _ => 3
  | .sloop _ _ _ _ => 3
  | .sdbr _ _ _ _ => 3
  | .snop _ => 3
  | .snopMark _ => 3
  | .vadd _ => 3
  | .vsub _ => 3
  | .vmul _ => 3
  | .vfma _ => 3
  | .vfms _ => 3
  | .vfnma _ => 3
  | .vmin _ => 3
  | .vmax _ => 3
  | .vabs _ => 3
  | .vneg _ => 3
  | .vdiv _ => 3
  | .vsqrt _ => 3
  | .vexp2 _ => 3
  | .vlog2 _ => 3
  | .vrsq _ => 3
  | .vscale _ => 3
  | .vclass _ => 3
  | .vcmpOrdered _ => 3
  | .vcmpUnordered _ => 3
  | .vsel _ => 3
  | .vred _ => 3
  | .vscan _ => 3
  | .vcvt _ => 3
  | .vpack _ => 3
  | .vunpk _ => 3
  | .vcvti _ => 3
  | .viadd _ => 3
  | .visub _ => 3
  | .vimul _ => 3
  | .vimad _ => 3
  | .vand _ => 3
  | .vor _ => 3
  | .vxor _ => 3
  | .vshl _ => 3
  | .vshr _ => 3
  | .vsar _ => 3
  | .vimin _ => 3
  | .vimax _ => 3
  | .vicmp _ => 3
  | .vhash _ => 3
  | .vperm _ => 3
  | .vbcast _ => 3
  | .viota _ => 3
  | .vmov _ => 3
  | .vlen _ => 3
  | .vextr _ => 3
  | .vaccrd _ => 3
  | .vaccwr _ => 3
  | .vloop _ _ _ _ => 3
  | .vdbr _ _ _ _ => 3
  | .vnop _ => 3
  | .vdot4 _ => 3
  | .mma _ => 6
  | .mmas _ => 6
  | .mzero _ => 6
  | .mload _ => 6
  | .mstore _ => 6
  | .mscale _ => 6
  | .mflag _ => 6
  | .mloop _ _ _ _ => 6
  | .mdbr _ _ _ _ => 6
  | .mnop _ => 6
  | .mma16 _ => 6
  | .frontierPost _ => 0
  | .perform _ _ => 0
  | .depart _ _ => 0
  | .writeback _ _ _ => 0
  | .dirtyWritebackTimeout _ _ => 0
  | .fill _ _ => 0
  | .drop _ _ => 0
  | .rvfill _ _ => 0
  | .rvdrop _ _ => 0
  | .atomic _ => 0
  | .loadCodeObject _ _ => 0
  | .granuleArrival _ _ _ => 0
  | .launchQueueSubmit _ _ _ => 0
  | .launchAccept _ _ => 0
  | .taskBind _ => 0
  | .taskDispatch _ => 0
  | .taskStart _ => 0
  | .launchComplete _ => 0
  | .class0Preemption _ => 0
  | .cycleLimitExpiry _ => 0
  | .rebuild _ _ => 0
  | .taskResume _ _ _ => 0
  | .hostFaultResume _ _ _ => 0
  | .debugHalt _ => 0
  | .debugSingleStep _ _ => 0
  | .debugImageEdit _ _ _ => 0
  | .debugRelease _ _ => 0
  | .partitionEviction _ => 0
  | .hostRelease _ => 0
  | .unitFailure _ => 0
  | .mapPublish _ _ _ => 0
  | .ackWindowExpiry _ => 0
  | .hostMapAck _ _ => 0
  | .gddr7ChannelRetraining _ _ _ _ => 0
  | .dieFirmwareUpdate _ _ _ => 0
  | .rurelPortRetraining _ _ => 0
  | .moduleReplacement _ _ => 0
  | .thermalClockStep => 0
  | .thermalShutdown => 0
  | .undervoltClockStep _ => 0
  | .undervoltRecoveryStep => 0
  | .voltageDip _ => 0
  | .overvoltageNotify _ => 0
  | .powerFailure => 0
  | .powerRemoval => 0
  | .modResetRelease _ _ _ _ => 0
  | .firmwareSlotWrite _ => 0
  | .attestationRequest _ _ => 0
  | .errinjWrite _ => 0
  | .errorCounterRead _ _ => 0
  | .mgmtRegisterWrite _ _ _ _ => 0
  | .partitionCreate _ => 0
  | .partitionEnd _ => 0
  | .resourceMove _ _ _ => 0
  | .translationInvalidate _ _ _ => 0
  | .flitReceive _ _ => 0
  | .portFailure _ => 0
  | .readRequest _ => 0
  | .readResponse _ => 0
  | .writePacket _ => 0
  | .atomicPacket _ => 0
  | .copySector _ => 0
  | .reducingCopySector _ => 0
  | .handlePacket _ => 0
  | .launchSubmission _ => 0
  | .hostCommand _ => 0
  | .event _ => 0
  | .mapNotice _ => 0
  | .acknowledgement _ => 0
  | .sealOrAbandon _ => 0
  | .sectorResend _ => 0
  | .commandGiveUp _ => 0
  | .xidMarkExpiry _ => 0
  | .gradientBlock _ => 0
  | .weightPublication _ => 0
  | .stepComplete _ _ => 0
  | .stepDeadlineExpiry _ _ => 0
  | .paramHomeCreate _ => 0
  | .hostKill _ => 0
  | .heldLaunchResume _ => 0
  | .gradientBlockResend _ => 0
  | .patrolScrub _ => 0
  | .hostErrorCounterRead _ => 0

/-- The word of an instruction: bits [32n-1:0] for n units (05 R80); 0 for an event. -/
def encode (i : Instr) : Nat :=
  match i with
  | .add d a b f => put (op7 0x00) [(d.toNat, 18), (a.toNat, 12), (b.toNat, 6), (f.toNat, 0)]
  | .sub d a b f => put (op7 0x01) [(d.toNat, 18), (a.toNat, 12), (b.toNat, 6), (f.toNat, 0)]
  | .and d a b f => put (op7 0x02) [(d.toNat, 18), (a.toNat, 12), (b.toNat, 6), (f.toNat, 0)]
  | .or d a b f => put (op7 0x03) [(d.toNat, 18), (a.toNat, 12), (b.toNat, 6), (f.toNat, 0)]
  | .xor d a b f => put (op7 0x04) [(d.toNat, 18), (a.toNat, 12), (b.toNat, 6), (f.toNat, 0)]
  | .shl d a b f => put (op7 0x05) [(d.toNat, 18), (a.toNat, 12), (b.toNat, 6), (f.toNat, 0)]
  | .shr d a b f => put (op7 0x06) [(d.toNat, 18), (a.toNat, 12), (b.toNat, 6), (f.toNat, 0)]
  | .sar d a b f => put (op7 0x07) [(d.toNat, 18), (a.toNat, 12), (b.toNat, 6), (f.toNat, 0)]
  | .mul d a b f => put (op7 0x08) [(d.toNat, 18), (a.toNat, 12), (b.toNat, 6), (f.toNat, 0)]
  | .mulh d a b f => put (op7 0x09) [(d.toNat, 18), (a.toNat, 12), (b.toNat, 6), (f.toNat, 0)]
  | .mulhu d a b f => put (op7 0x0A) [(d.toNat, 18), (a.toNat, 12), (b.toNat, 6), (f.toNat, 0)]
  | .div d a b f => put (op7 0x0B) [(d.toNat, 18), (a.toNat, 12), (b.toNat, 6), (f.toNat, 0)]
  | .divu d a b f => put (op7 0x0C) [(d.toNat, 18), (a.toNat, 12), (b.toNat, 6), (f.toNat, 0)]
  | .rem d a b f => put (op7 0x0D) [(d.toNat, 18), (a.toNat, 12), (b.toNat, 6), (f.toNat, 0)]
  | .remu d a b f => put (op7 0x0E) [(d.toNat, 18), (a.toNat, 12), (b.toNat, 6), (f.toNat, 0)]
  | .min d a b f => put (op7 0x0F) [(d.toNat, 18), (a.toNat, 12), (b.toNat, 6), (f.toNat, 0)]
  | .max d a b f => put (op7 0x10) [(d.toNat, 18), (a.toNat, 12), (b.toNat, 6), (f.toNat, 0)]
  | .minu d a b f => put (op7 0x11) [(d.toNat, 18), (a.toNat, 12), (b.toNat, 6), (f.toNat, 0)]
  | .maxu d a b f => put (op7 0x12) [(d.toNat, 18), (a.toNat, 12), (b.toNat, 6), (f.toNat, 0)]
  | .clz d a => put (op7 0x13) [(d.toNat, 18), (a.toNat, 12)]
  | .ctz d a => put (op7 0x14) [(d.toNat, 18), (a.toNat, 12)]
  | .popc d a => put (op7 0x15) [(d.toNat, 18), (a.toNat, 12)]
  | .bfx d a pos width => put (op7 0x16) [(d.toNat, 18), (a.toNat, 12), (pos.toNat, 6), (width.toNat, 0)]
  | .bfi d a pos width => put (op7 0x17) [(d.toNat, 18), (a.toNat, 12), (pos.toNat, 6), (width.toNat, 0)]
  | .sel d a b f => put (op7 0x18) [(d.toNat, 18), (a.toNat, 12), (b.toNat, 6), (f.toNat, 0)]
  | .cmpSigned pd a b cc => put (op7 0x19) [(pd.toNat, 18), (a.toNat, 12), (b.toNat, 6), (cc.toNat, 0)]
  | .cmpUnsigned pd a b cc => put (op7 0x1A) [(pd.toNat, 18), (a.toNat, 12), (b.toNat, 6), (cc.toNat, 0)]
  | .plog pd pa pb fn => put (op7 0x1B) [(pd.toNat, 18), (pa.toNat, 12), (pb.toNat, 6), (fn.toNat, 0)]
  | .psetn pd a => put (op7 0x1C) [(pd.toNat, 18), (a.toNat, 12)]
  | .ptest d pa => put (op7 0x1D) [(d.toNat, 18), (pa.toNat, 12)]
  | .addi d a imm => put (op7 0x20) [(d.toNat, 18), (a.toNat, 12), (imm.toNat, 0)]
  | .andi d a imm => put (op7 0x21) [(d.toNat, 18), (a.toNat, 12), (imm.toNat, 0)]
  | .ori d a imm => put (op7 0x22) [(d.toNat, 18), (a.toNat, 12), (imm.toNat, 0)]
  | .xori d a imm => put (op7 0x23) [(d.toNat, 18), (a.toNat, 12), (imm.toNat, 0)]
  | .shli d a imm => put (op7 0x24) [(d.toNat, 18), (a.toNat, 12), (imm.toNat, 0)]
  | .shri d a imm => put (op7 0x25) [(d.toNat, 18), (a.toNat, 12), (imm.toNat, 0)]
  | .sari d a imm => put (op7 0x26) [(d.toNat, 18), (a.toNat, 12), (imm.toNat, 0)]
  | .muli d a imm => put (op7 0x27) [(d.toNat, 18), (a.toNat, 12), (imm.toNat, 0)]
  | .cmpiEq pd a imm => put (op7 0x28) [(pd.toNat, 18), (a.toNat, 12), (imm.toNat, 0)]
  | .cmpiNe pd a imm => put (op7 0x29) [(pd.toNat, 18), (a.toNat, 12), (imm.toNat, 0)]
  | .cmpiLt pd a imm => put (op7 0x2A) [(pd.toNat, 18), (a.toNat, 12), (imm.toNat, 0)]
  | .cmpiLe pd a imm => put (op7 0x2B) [(pd.toNat, 18), (a.toNat, 12), (imm.toNat, 0)]
  | .cmpiLtu pd a imm => put (op7 0x2C) [(pd.toNat, 18), (a.toNat, 12), (imm.toNat, 0)]
  | .cmpiLeu pd a imm => put (op7 0x2D) [(pd.toNat, 18), (a.toNat, 12), (imm.toNat, 0)]
  | .lih d imm => put (op7 0x2E) [(d.toNat, 18), (imm.toNat, 0)]
  | .csrrd d csr => put (op7 0x2F) [(d.toNat, 18), (csr.toNat, 0)]
  | .csrwr a csr => put (op7 0x30) [(a.toNat, 12), (csr.toNat, 0)]
  | .ldg d off => put (op7 0x31) [(d.toNat, 18), (off.toNat, 0)]
  | .ldc d a imm => put (op7 0x32) [(d.toNat, 18), (a.toNat, 12), (imm.toNat, 0)]
  | .ldb d a hb disp => put (op7 0x40) [(d.toNat, 18), (a.toNat, 12), (hb.toNat, 11), (disp.toNat, 0)]
  | .ldbu d a hb disp => put (op7 0x41) [(d.toNat, 18), (a.toNat, 12), (hb.toNat, 11), (disp.toNat, 0)]
  | .ldh d a hb disp => put (op7 0x42) [(d.toNat, 18), (a.toNat, 12), (hb.toNat, 11), (disp.toNat, 0)]
  | .ldhu d a hb disp => put (op7 0x43) [(d.toNat, 18), (a.toNat, 12), (hb.toNat, 11), (disp.toNat, 0)]
  | .ldw d a hb disp => put (op7 0x44) [(d.toNat, 18), (a.toNat, 12), (hb.toNat, 11), (disp.toNat, 0)]
  | .ldwu d a hb disp => put (op7 0x45) [(d.toNat, 18), (a.toNat, 12), (hb.toNat, 11), (disp.toNat, 0)]
  | .ldd d a hb disp => put (op7 0x46) [(d.toNat, 18), (a.toNat, 12), (hb.toNat, 11), (disp.toNat, 0)]
  | .stb d a hb disp => put (op7 0x47) [(d.toNat, 18), (a.toNat, 12), (hb.toNat, 11), (disp.toNat, 0)]
  | .sth d a hb disp => put (op7 0x48) [(d.toNat, 18), (a.toNat, 12), (hb.toNat, 11), (disp.toNat, 0)]
  | .stw d a hb disp => put (op7 0x49) [(d.toNat, 18), (a.toNat, 12), (hb.toNat, 11), (disp.toNat, 0)]
  | .std d a hb disp => put (op7 0x4A) [(d.toNat, 18), (a.toNat, 12), (hb.toNat, 11), (disp.toNat, 0)]
  | .cvta d a f => put (op7 0x4B) [(d.toNat, 18), (a.toNat, 12), (f.toNat, 0)]
  | .isspace pd a f => put (op7 0x4C) [(pd.toNat, 18), (a.toNat, 12), (f.toNat, 0)]
  | .qmark => op7 0x4D
  | .fence f => put (op7 0x4E) [(f.toNat, 0)]
  | .pfence a b f => put (op7 0x4F) [(a.toNat, 12), (b.toNat, 6), (f.toNat, 0)]
  | .pbr t disp => put (op7 0x50) [(t.toNat, 21), (disp.toNat, 0)]
  | .pbrx t a => put (op7 0x51) [(t.toNat, 18), (a.toNat, 12)]
  | .br pred cond t => put (op7 0x52) [(pred.toNat, 19), (cond.toNat, 16), (t.toNat, 13)]
  | .call pred cond t => put (op7 0x53) [(pred.toNat, 19), (cond.toNat, 16), (t.toNat, 13)]
  | .loopReg l a body => put (op7 0x54) [(l.toNat, 22), (a.toNat, 14), (body.toNat, 0)]
  | .loopImm l cnt body => put (op7 0x55) [(l.toNat, 22), (cnt.toNat, 14), (body.toNat, 0)]
  | .dpush pred cond q => put (op7 0x56) [(pred.toNat, 19), (cond.toNat, 16), (q.toNat, 14)]
  | .dtake pd q => put (op7 0x57) [(pd.toNat, 19), (q.toNat, 14)]
  | .texit => op7 0x58
  | .taskExit _ => 0
  | .trap n => put (op7 0x59) [(n.toNat, 0)]
  | .bkpt n => put (op7 0x5A) [(n.toNat, 0)]
  | .nop => op7 0x5B
  | .erls => op7 0x5C
  | .swait sem n => put (op7 0x60) [(sem.toNat, 16), (n.toNat, 0)]
  | .swaitge sem n => put (op7 0x61) [(sem.toNat, 16), (n.toNat, 0)]
  | .semaphoreWaitSuccess _ => 0
  | .saddImm sem n => put (op7 0x62) [(sem.toNat, 16), (n.toNat, 0)]
  | .saddReg lo a hi => put (op7 0x63) [(lo.toNat, 18), (a.toNat, 12), (hi.toNat, 6)]
  | .push y a b => put (op7 0x64) [(y.toNat, 18), (a.toNat, 12), (b.toNat, 6)]
  | .popy d y => put (op7 0x65) [(d.toNat, 18), (y.toNat, 12)]
  | .popyNb d y => put (op7 0x65 + 1) [(d.toNat, 18), (y.toNat, 12)]
  | .resultQueueReady _ => 0
  | .maprd d a => put (op7 0x66) [(d.toNat, 18), (a.toNat, 12)]
  | .mapack a => put (op7 0x67) [(a.toNat, 12)]
  | .cropen disp => put (op7 0x68) [(disp.toNat, 0)]
  | .crclose => op7 0x69
  | .hnew hd a k => put (op7 0x70) [(hd.toNat, 18), (a.toNat, 12), (k.toNat, 0)]
  | .hsee hd a => put (op7 0x71) [(hd.toNat, 18), (a.toNat, 12)]
  | .hseeof hd hs => put (op7 0x72) [(hd.toNat, 18), (hs.toNat, 12)]
  | .hdup hd hs => put (op7 0x73) [(hd.toNat, 18), (hs.toNat, 12)]
  | .hdrop hs => put (op7 0x74) [(hs.toNat, 12)]
  | .versionSeal _ => 0
  | .hsend hs b => put (op7 0x75) [(hs.toNat, 12), (b.toNat, 6)]
  | .mailboxRetry _ => 0
  | .hrecv hd a => put (op7 0x76) [(hd.toNat, 18), (a.toNat, 12)]
  | .handleReceived _ => 0
  | .hstat d hs => put (op7 0x77) [(d.toNat, 18), (hs.toNat, 12)]
  | .parkedAccessUnpark _ => 0
  | .amo op sz ord scope d a b hb disp => put (eop 0x000) [(op.toNat, 48), (sz.toNat, 47), (ord.toNat, 45), (scope.toNat, 42), (d.toNat, 26), (a.toNat, 20), (b.toNat, 14), (hb.toNat, 13), (disp.toNat, 0)]
  | .cas sz ord scope c d a b hb disp => put (eop 0x001) [(sz.toNat, 47), (ord.toNat, 45), (scope.toNat, 42), (c.toNat, 36), (d.toNat, 26), (a.toNat, 20), (b.toNat, 14), (hb.toNat, 13), (disp.toNat, 0)]
  | .swaitt sem n a pd => put (eop 0x002) [(sem.toNat, 44), (n.toNat, 16), (a.toNat, 10), (pd.toNat, 5)]
  | .swaittTimeout _ => 0
  | .spostx sem n a => put (eop 0x003) [(sem.toNat, 44), (n.toNat, 16), (a.toNat, 10)]
  | .spostxArrival => 0
  | .bararr bar => put (eop 0x004) [(bar.toNat, 48)]
  | .barexp bar a => put (eop 0x005) [(bar.toNat, 48), (a.toNat, 26)]
  | .barwait bar => put (eop 0x006) [(bar.toNat, 48)]
  | .barwaitt bar a pd => put (eop 0x007) [(bar.toNat, 48), (a.toNat, 26), (pd.toNat, 21)]
  | .barrierWaitSuccess _ => 0
  | .barwaittTimeout _ => 0
  | .launch a => put (eop 0x008) [(a.toNat, 26)]
  | .launchNb y a => put (eop 0x008 + 2 ^ 51) [(y.toNat, 49), (a.toNat, 26)]
  | .ldil d imm => put (eop 0x009) [(d.toNat, 46), (imm.toNat, 0)]
  | .sbind w => sBits 0x000 w
  | .sunbind w => sBits 0x001 w
  | .qEntryFetch _ _ => 0
  | .sld w => sBits 0x002 w
  | .sst w => sBits 0x003 w
  | .sgather w => sBits 0x004 w
  | .sscatter w => sBits 0x005 w
  | .smeta w => sBits 0x006 w
  | .mqEntryFetch _ _ => 0
  | .cpy w => sBits 0x040 w
  | .cpymc w => sBits 0x041 w
  | .cpyr w => sBits 0x042 w
  | .cpyf w => sBits 0x043 w
  | .ckrdRead w => sBits 0x044 w
  | .ckrdLoad w => sBits 0x044 w
  | .stage w => sBits 0x045 w
  | .spf w => sBits 0x046 w
  | .gpush w => sBits 0x0C0 w
  | .sloop l ch body sync => put (op9S 0x1E0) [(loopFlow l ch body, 60), (sync.toNat, 5)]
  | .sdbr q sense disp sync => put (op9S 0x1E1) [(branchFlow q sense disp, 60), (sync.toNat, 5)]
  | .snop w => sBits 0x1E3 w
  | .snopMark w => sBits 0x1E3 w
  | .vadd w => vBits 0x000 w
  | .vsub w => vBits 0x001 w
  | .vmul w => vBits 0x002 w
  | .vfma w => vBits 0x003 w
  | .vfms w => vBits 0x004 w
  | .vfnma w => vBits 0x005 w
  | .vmin w => vBits 0x006 w
  | .vmax w => vBits 0x007 w
  | .vabs w => vBits 0x008 w
  | .vneg w => vBits 0x009 w
  | .vdiv w => vBits 0x00A w
  | .vsqrt w => vBits 0x00B w
  | .vexp2 w => vBits 0x00C w
  | .vlog2 w => vBits 0x00D w
  | .vrsq w => vBits 0x00E w
  | .vscale w => vBits 0x00F w
  | .vclass w => vBits 0x010 w
  | .vcmpOrdered w => vBits 0x011 w
  | .vcmpUnordered w => vBits 0x012 w
  | .vsel w => vBits 0x013 w
  | .vred w => vBits 0x014 w
  | .vscan w => vBits 0x015 w
  | .vcvt w => vBits 0x080 w
  | .vpack w => vBits 0x081 w
  | .vunpk w => vBits 0x082 w
  | .vcvti w => vBits 0x083 w
  | .viadd w => vBits 0x100 w
  | .visub w => vBits 0x101 w
  | .vimul w => vBits 0x102 w
  | .vimad w => vBits 0x103 w
  | .vand w => vBits 0x104 w
  | .vor w => vBits 0x105 w
  | .vxor w => vBits 0x106 w
  | .vshl w => vBits 0x107 w
  | .vshr w => vBits 0x108 w
  | .vsar w => vBits 0x109 w
  | .vimin w => vBits 0x10A w
  | .vimax w => vBits 0x10B w
  | .vicmp w => vBits 0x10C w
  | .vhash w => vBits 0x10D w
  | .vperm w => vBits 0x180 w
  | .vbcast w => vBits 0x181 w
  | .viota w => vBits 0x182 w
  | .vmov w => vBits 0x183 w
  | .vlen w => vBits 0x184 w
  | .vextr w => vBits 0x185 w
  | .vaccrd w => vBits 0x1C0 w
  | .vaccwr w => vBits 0x1C1 w
  | .vloop l ch body sync => put (op9V 0x1E0) [(loopFlow l ch body, 60), (sync.toNat, 5)]
  | .vdbr q sense disp sync => put (op9V 0x1E1) [(branchFlow q sense disp, 60), (sync.toNat, 5)]
  | .vnop sync => put (op9V 0x1E3) [(sync.toNat, 5)]
  | .vdot4 w => vBits 0x1F0 w
  | .mma w => mBits 0x00 w
  | .mmas w => mBits 0x01 w
  | .mzero w => mBits 0x02 w
  | .mload w => mBits 0x03 w
  | .mstore w => mBits 0x04 w
  | .mscale w => mBits 0x05 w
  | .mflag w => mBits 0x06 w
  | .mloop l ch body sync => put (op8M 0x10) [(loopFlow l ch body, 157), (sync.toNat, 5)]
  | .mdbr q sense disp sync => put (op8M 0x11) [(branchFlow q sense disp, 157), (sync.toNat, 5)]
  | .mnop sync => put (op8M 0x12) [(sync.toNat, 5)]
  | .mma16 w => mBits 0x1F w
  | .frontierPost _ => 0
  | .perform _ _ => 0
  | .depart _ _ => 0
  | .writeback _ _ _ => 0
  | .dirtyWritebackTimeout _ _ => 0
  | .fill _ _ => 0
  | .drop _ _ => 0
  | .rvfill _ _ => 0
  | .rvdrop _ _ => 0
  | .atomic _ => 0
  | .loadCodeObject _ _ => 0
  | .granuleArrival _ _ _ => 0
  | .launchQueueSubmit _ _ _ => 0
  | .launchAccept _ _ => 0
  | .taskBind _ => 0
  | .taskDispatch _ => 0
  | .taskStart _ => 0
  | .launchComplete _ => 0
  | .class0Preemption _ => 0
  | .cycleLimitExpiry _ => 0
  | .rebuild _ _ => 0
  | .taskResume _ _ _ => 0
  | .hostFaultResume _ _ _ => 0
  | .debugHalt _ => 0
  | .debugSingleStep _ _ => 0
  | .debugImageEdit _ _ _ => 0
  | .debugRelease _ _ => 0
  | .partitionEviction _ => 0
  | .hostRelease _ => 0
  | .unitFailure _ => 0
  | .mapPublish _ _ _ => 0
  | .ackWindowExpiry _ => 0
  | .hostMapAck _ _ => 0
  | .gddr7ChannelRetraining _ _ _ _ => 0
  | .dieFirmwareUpdate _ _ _ => 0
  | .rurelPortRetraining _ _ => 0
  | .moduleReplacement _ _ => 0
  | .thermalClockStep => 0
  | .thermalShutdown => 0
  | .undervoltClockStep _ => 0
  | .undervoltRecoveryStep => 0
  | .voltageDip _ => 0
  | .overvoltageNotify _ => 0
  | .powerFailure => 0
  | .powerRemoval => 0
  | .modResetRelease _ _ _ _ => 0
  | .firmwareSlotWrite _ => 0
  | .attestationRequest _ _ => 0
  | .errinjWrite _ => 0
  | .errorCounterRead _ _ => 0
  | .mgmtRegisterWrite _ _ _ _ => 0
  | .partitionCreate _ => 0
  | .partitionEnd _ => 0
  | .resourceMove _ _ _ => 0
  | .translationInvalidate _ _ _ => 0
  | .flitReceive _ _ => 0
  | .portFailure _ => 0
  | .readRequest _ => 0
  | .readResponse _ => 0
  | .writePacket _ => 0
  | .atomicPacket _ => 0
  | .copySector _ => 0
  | .reducingCopySector _ => 0
  | .handlePacket _ => 0
  | .launchSubmission _ => 0
  | .hostCommand _ => 0
  | .event _ => 0
  | .mapNotice _ => 0
  | .acknowledgement _ => 0
  | .sealOrAbandon _ => 0
  | .sectorResend _ => 0
  | .commandGiveUp _ => 0
  | .xidMarkExpiry _ => 0
  | .gradientBlock _ => 0
  | .weightPublication _ => 0
  | .stepComplete _ _ => 0
  | .stepDeadlineExpiry _ _ => 0
  | .paramHomeCreate _ => 0
  | .hostKill _ => 0
  | .heldLaunchResume _ => 0
  | .gradientBlockResend _ => 0
  | .patrolScrub _ => 0
  | .hostErrorCounterRead _ => 0

/-- The opcode OP7 and the fields of a C32 word, its reserved bits ignored (05 R88). -/
def rawC (w : Nat) : Option Instr :=
  match w / 2 ^ 24 with
  | 0x0 => some (.add (fieldAt 6 18 w) (fieldAt 6 12 w) (fieldAt 6 6 w) (fieldAt 6 0 w))
  | 0x1 => some (.sub (fieldAt 6 18 w) (fieldAt 6 12 w) (fieldAt 6 6 w) (fieldAt 6 0 w))
  | 0x2 => some (.and (fieldAt 6 18 w) (fieldAt 6 12 w) (fieldAt 6 6 w) (fieldAt 6 0 w))
  | 0x3 => some (.or (fieldAt 6 18 w) (fieldAt 6 12 w) (fieldAt 6 6 w) (fieldAt 6 0 w))
  | 0x4 => some (.xor (fieldAt 6 18 w) (fieldAt 6 12 w) (fieldAt 6 6 w) (fieldAt 6 0 w))
  | 0x5 => some (.shl (fieldAt 6 18 w) (fieldAt 6 12 w) (fieldAt 6 6 w) (fieldAt 6 0 w))
  | 0x6 => some (.shr (fieldAt 6 18 w) (fieldAt 6 12 w) (fieldAt 6 6 w) (fieldAt 6 0 w))
  | 0x7 => some (.sar (fieldAt 6 18 w) (fieldAt 6 12 w) (fieldAt 6 6 w) (fieldAt 6 0 w))
  | 0x8 => some (.mul (fieldAt 6 18 w) (fieldAt 6 12 w) (fieldAt 6 6 w) (fieldAt 6 0 w))
  | 0x9 => some (.mulh (fieldAt 6 18 w) (fieldAt 6 12 w) (fieldAt 6 6 w) (fieldAt 6 0 w))
  | 0xA => some (.mulhu (fieldAt 6 18 w) (fieldAt 6 12 w) (fieldAt 6 6 w) (fieldAt 6 0 w))
  | 0xB => some (.div (fieldAt 6 18 w) (fieldAt 6 12 w) (fieldAt 6 6 w) (fieldAt 6 0 w))
  | 0xC => some (.divu (fieldAt 6 18 w) (fieldAt 6 12 w) (fieldAt 6 6 w) (fieldAt 6 0 w))
  | 0xD => some (.rem (fieldAt 6 18 w) (fieldAt 6 12 w) (fieldAt 6 6 w) (fieldAt 6 0 w))
  | 0xE => some (.remu (fieldAt 6 18 w) (fieldAt 6 12 w) (fieldAt 6 6 w) (fieldAt 6 0 w))
  | 0xF => some (.min (fieldAt 6 18 w) (fieldAt 6 12 w) (fieldAt 6 6 w) (fieldAt 6 0 w))
  | 0x10 => some (.max (fieldAt 6 18 w) (fieldAt 6 12 w) (fieldAt 6 6 w) (fieldAt 6 0 w))
  | 0x11 => some (.minu (fieldAt 6 18 w) (fieldAt 6 12 w) (fieldAt 6 6 w) (fieldAt 6 0 w))
  | 0x12 => some (.maxu (fieldAt 6 18 w) (fieldAt 6 12 w) (fieldAt 6 6 w) (fieldAt 6 0 w))
  | 0x13 => some (.clz (fieldAt 6 18 w) (fieldAt 6 12 w))
  | 0x14 => some (.ctz (fieldAt 6 18 w) (fieldAt 6 12 w))
  | 0x15 => some (.popc (fieldAt 6 18 w) (fieldAt 6 12 w))
  | 0x16 => some (.bfx (fieldAt 6 18 w) (fieldAt 6 12 w) (fieldAt 6 6 w) (fieldAt 6 0 w))
  | 0x17 => some (.bfi (fieldAt 6 18 w) (fieldAt 6 12 w) (fieldAt 6 6 w) (fieldAt 6 0 w))
  | 0x18 => some (.sel (fieldAt 6 18 w) (fieldAt 6 12 w) (fieldAt 6 6 w) (fieldAt 6 0 w))
  | 0x19 => some (.cmpSigned (fieldAt 6 18 w) (fieldAt 6 12 w) (fieldAt 6 6 w) (fieldAt 6 0 w))
  | 0x1A => some (.cmpUnsigned (fieldAt 6 18 w) (fieldAt 6 12 w) (fieldAt 6 6 w) (fieldAt 6 0 w))
  | 0x1B => some (.plog (fieldAt 6 18 w) (fieldAt 6 12 w) (fieldAt 6 6 w) (fieldAt 6 0 w))
  | 0x1C => some (.psetn (fieldAt 6 18 w) (fieldAt 6 12 w))
  | 0x1D => some (.ptest (fieldAt 6 18 w) (fieldAt 6 12 w))
  | 0x20 => some (.addi (fieldAt 6 18 w) (fieldAt 6 12 w) (fieldAt 12 0 w))
  | 0x21 => some (.andi (fieldAt 6 18 w) (fieldAt 6 12 w) (fieldAt 12 0 w))
  | 0x22 => some (.ori (fieldAt 6 18 w) (fieldAt 6 12 w) (fieldAt 12 0 w))
  | 0x23 => some (.xori (fieldAt 6 18 w) (fieldAt 6 12 w) (fieldAt 12 0 w))
  | 0x24 => some (.shli (fieldAt 6 18 w) (fieldAt 6 12 w) (fieldAt 12 0 w))
  | 0x25 => some (.shri (fieldAt 6 18 w) (fieldAt 6 12 w) (fieldAt 12 0 w))
  | 0x26 => some (.sari (fieldAt 6 18 w) (fieldAt 6 12 w) (fieldAt 12 0 w))
  | 0x27 => some (.muli (fieldAt 6 18 w) (fieldAt 6 12 w) (fieldAt 12 0 w))
  | 0x28 => some (.cmpiEq (fieldAt 6 18 w) (fieldAt 6 12 w) (fieldAt 12 0 w))
  | 0x29 => some (.cmpiNe (fieldAt 6 18 w) (fieldAt 6 12 w) (fieldAt 12 0 w))
  | 0x2A => some (.cmpiLt (fieldAt 6 18 w) (fieldAt 6 12 w) (fieldAt 12 0 w))
  | 0x2B => some (.cmpiLe (fieldAt 6 18 w) (fieldAt 6 12 w) (fieldAt 12 0 w))
  | 0x2C => some (.cmpiLtu (fieldAt 6 18 w) (fieldAt 6 12 w) (fieldAt 12 0 w))
  | 0x2D => some (.cmpiLeu (fieldAt 6 18 w) (fieldAt 6 12 w) (fieldAt 12 0 w))
  | 0x2E => some (.lih (fieldAt 6 18 w) (fieldAt 18 0 w))
  | 0x2F => some (.csrrd (fieldAt 6 18 w) (fieldAt 12 0 w))
  | 0x30 => some (.csrwr (fieldAt 6 12 w) (fieldAt 12 0 w))
  | 0x31 => some (.ldg (fieldAt 6 18 w) (fieldAt 12 0 w))
  | 0x32 => some (.ldc (fieldAt 6 18 w) (fieldAt 6 12 w) (fieldAt 12 0 w))
  | 0x40 => some (.ldb (fieldAt 6 18 w) (fieldAt 6 12 w) (fieldAt 1 11 w) (fieldAt 11 0 w))
  | 0x41 => some (.ldbu (fieldAt 6 18 w) (fieldAt 6 12 w) (fieldAt 1 11 w) (fieldAt 11 0 w))
  | 0x42 => some (.ldh (fieldAt 6 18 w) (fieldAt 6 12 w) (fieldAt 1 11 w) (fieldAt 11 0 w))
  | 0x43 => some (.ldhu (fieldAt 6 18 w) (fieldAt 6 12 w) (fieldAt 1 11 w) (fieldAt 11 0 w))
  | 0x44 => some (.ldw (fieldAt 6 18 w) (fieldAt 6 12 w) (fieldAt 1 11 w) (fieldAt 11 0 w))
  | 0x45 => some (.ldwu (fieldAt 6 18 w) (fieldAt 6 12 w) (fieldAt 1 11 w) (fieldAt 11 0 w))
  | 0x46 => some (.ldd (fieldAt 6 18 w) (fieldAt 6 12 w) (fieldAt 1 11 w) (fieldAt 11 0 w))
  | 0x47 => some (.stb (fieldAt 6 18 w) (fieldAt 6 12 w) (fieldAt 1 11 w) (fieldAt 11 0 w))
  | 0x48 => some (.sth (fieldAt 6 18 w) (fieldAt 6 12 w) (fieldAt 1 11 w) (fieldAt 11 0 w))
  | 0x49 => some (.stw (fieldAt 6 18 w) (fieldAt 6 12 w) (fieldAt 1 11 w) (fieldAt 11 0 w))
  | 0x4A => some (.std (fieldAt 6 18 w) (fieldAt 6 12 w) (fieldAt 1 11 w) (fieldAt 11 0 w))
  | 0x4B => some (.cvta (fieldAt 6 18 w) (fieldAt 6 12 w) (fieldAt 6 0 w))
  | 0x4C => some (.isspace (fieldAt 6 18 w) (fieldAt 6 12 w) (fieldAt 6 0 w))
  | 0x4D => some (.qmark)
  | 0x4E => some (.fence (fieldAt 6 0 w))
  | 0x4F => some (.pfence (fieldAt 6 12 w) (fieldAt 6 6 w) (fieldAt 6 0 w))
  | 0x50 => some (.pbr (fieldAt 3 21 w) (fieldAt 21 0 w))
  | 0x51 => some (.pbrx (fieldAt 6 18 w) (fieldAt 6 12 w))
  | 0x52 => some (.br (fieldAt 5 19 w) (fieldAt 3 16 w) (fieldAt 3 13 w))
  | 0x53 => some (.call (fieldAt 5 19 w) (fieldAt 3 16 w) (fieldAt 3 13 w))
  | 0x54 => some (.loopReg (fieldAt 2 22 w) (fieldAt 6 14 w) (fieldAt 14 0 w))
  | 0x55 => some (.loopImm (fieldAt 2 22 w) (fieldAt 8 14 w) (fieldAt 14 0 w))
  | 0x56 => some (.dpush (fieldAt 5 19 w) (fieldAt 3 16 w) (fieldAt 2 14 w))
  | 0x57 => some (.dtake (fieldAt 5 19 w) (fieldAt 2 14 w))
  | 0x58 => some (.texit)
  | 0x59 => some (.trap (fieldAt 8 0 w))
  | 0x5A => some (.bkpt (fieldAt 8 0 w))
  | 0x5B => some (.nop)
  | 0x5C => some (.erls)
  | 0x60 => some (.swait (fieldAt 8 16 w) (fieldAt 16 0 w))
  | 0x61 => some (.swaitge (fieldAt 8 16 w) (fieldAt 16 0 w))
  | 0x62 => some (.saddImm (fieldAt 8 16 w) (fieldAt 16 0 w))
  | 0x63 => some (.saddReg (fieldAt 6 18 w) (fieldAt 6 12 w) (fieldAt 2 6 w))
  | 0x64 => some (.push (fieldAt 2 18 w) (fieldAt 6 12 w) (fieldAt 6 6 w))
  | 0x65 => some (if w % 2 = 1 then .popyNb (fieldAt 6 18 w) (fieldAt 2 12 w) else .popy (fieldAt 6 18 w) (fieldAt 2 12 w))
  | 0x66 => some (.maprd (fieldAt 6 18 w) (fieldAt 6 12 w))
  | 0x67 => some (.mapack (fieldAt 6 12 w))
  | 0x68 => some (.cropen (fieldAt 21 0 w))
  | 0x69 => some (.crclose)
  | 0x70 => some (.hnew (fieldAt 5 18 w) (fieldAt 6 12 w) (fieldAt 6 0 w))
  | 0x71 => some (.hsee (fieldAt 5 18 w) (fieldAt 6 12 w))
  | 0x72 => some (.hseeof (fieldAt 5 18 w) (fieldAt 5 12 w))
  | 0x73 => some (.hdup (fieldAt 5 18 w) (fieldAt 5 12 w))
  | 0x74 => some (.hdrop (fieldAt 5 12 w))
  | 0x75 => some (.hsend (fieldAt 5 12 w) (fieldAt 6 6 w))
  | 0x76 => some (.hrecv (fieldAt 5 18 w) (fieldAt 6 12 w))
  | 0x77 => some (.hstat (fieldAt 6 18 w) (fieldAt 5 12 w))
  | _ => none

/-- EOP9 and the fields of an E64 word (05 R89). -/
def rawE (w : Nat) : Option Instr :=
  match w / 2 ^ 52 % 2 ^ 9 with
  | 0x0 => some (.amo (fieldAt 4 48 w) (fieldAt 1 47 w) (fieldAt 2 45 w) (fieldAt 3 42 w) (fieldAt 6 26 w) (fieldAt 6 20 w) (fieldAt 6 14 w) (fieldAt 1 13 w) (fieldAt 13 0 w))
  | 0x1 => some (.cas (fieldAt 1 47 w) (fieldAt 2 45 w) (fieldAt 3 42 w) (fieldAt 6 36 w) (fieldAt 6 26 w) (fieldAt 6 20 w) (fieldAt 6 14 w) (fieldAt 1 13 w) (fieldAt 13 0 w))
  | 0x2 => some (.swaitt (fieldAt 8 44 w) (fieldAt 16 16 w) (fieldAt 6 10 w) (fieldAt 5 5 w))
  | 0x3 => some (.spostx (fieldAt 8 44 w) (fieldAt 16 16 w) (fieldAt 6 10 w))
  | 0x4 => some (.bararr (fieldAt 4 48 w))
  | 0x5 => some (.barexp (fieldAt 4 48 w) (fieldAt 6 26 w))
  | 0x6 => some (.barwait (fieldAt 4 48 w))
  | 0x7 => some (.barwaitt (fieldAt 4 48 w) (fieldAt 6 26 w) (fieldAt 5 21 w))
  | 0x8 => some (if w / 2 ^ 51 % 2 = 1 then .launchNb (fieldAt 2 49 w) (fieldAt 6 26 w) else .launch (fieldAt 6 26 w))
  | 0x9 => some (.ldil (fieldAt 6 46 w) (fieldAt 46 0 w))
  | _ => none

/-- OP9 and the fields of an S96 word (05 R97). -/
def rawS (w : Nat) : Option Instr :=
  match w / 2 ^ 84 % 2 ^ 9 with
  | 0x0 => some (.sbind (sFields w))
  | 0x1 => some (.sunbind (sFields w))
  | 0x2 => some (.sld (sFields w))
  | 0x3 => some (.sst (sFields w))
  | 0x4 => some (.sgather (sFields w))
  | 0x5 => some (.sscatter (sFields w))
  | 0x6 => some (.smeta (sFields w))
  | 0x40 => some (.cpy (sFields w))
  | 0x41 => some (.cpymc (sFields w))
  | 0x42 => some (.cpyr (sFields w))
  | 0x43 => some (.cpyf (sFields w))
  | 0x44 => some (if w / 2 ^ 43 % 16 = 0 then .ckrdRead (sFields w) else .ckrdLoad (sFields w))
  | 0x45 => some (.stage (sFields w))
  | 0x46 => some (.spf (sFields w))
  | 0xC0 => some (.gpush (sFields w))
  | 0x1E0 => some (.sloop (fieldAt 2 82 w) (fieldAt 4 78 w) (fieldAt 14 60 w) (fieldAt 19 5 w))
  | 0x1E1 => some (.sdbr (fieldAt 2 82 w) (fieldAt 1 81 w) (fieldAt 21 60 w) (fieldAt 19 5 w))
  | 0x1E3 => some (if w % 32 = 0 then .snop (sFields w) else .snopMark (sFields w))
  | _ => none

/-- OP9 and the fields of a V96 word (05 R92). -/
def rawV (w : Nat) : Option Instr :=
  match w / 2 ^ 84 % 2 ^ 9 with
  | 0x0 => some (.vadd (vFields w))
  | 0x1 => some (.vsub (vFields w))
  | 0x2 => some (.vmul (vFields w))
  | 0x3 => some (.vfma (vFields w))
  | 0x4 => some (.vfms (vFields w))
  | 0x5 => some (.vfnma (vFields w))
  | 0x6 => some (.vmin (vFields w))
  | 0x7 => some (.vmax (vFields w))
  | 0x8 => some (.vabs (vFields w))
  | 0x9 => some (.vneg (vFields w))
  | 0xA => some (.vdiv (vFields w))
  | 0xB => some (.vsqrt (vFields w))
  | 0xC => some (.vexp2 (vFields w))
  | 0xD => some (.vlog2 (vFields w))
  | 0xE => some (.vrsq (vFields w))
  | 0xF => some (.vscale (vFields w))
  | 0x10 => some (.vclass (vFields w))
  | 0x11 => some (.vcmpOrdered (vFields w))
  | 0x12 => some (.vcmpUnordered (vFields w))
  | 0x13 => some (.vsel (vFields w))
  | 0x14 => some (.vred (vFields w))
  | 0x15 => some (.vscan (vFields w))
  | 0x80 => some (.vcvt (vFields w))
  | 0x81 => some (.vpack (vFields w))
  | 0x82 => some (.vunpk (vFields w))
  | 0x83 => some (.vcvti (vFields w))
  | 0x100 => some (.viadd (vFields w))
  | 0x101 => some (.visub (vFields w))
  | 0x102 => some (.vimul (vFields w))
  | 0x103 => some (.vimad (vFields w))
  | 0x104 => some (.vand (vFields w))
  | 0x105 => some (.vor (vFields w))
  | 0x106 => some (.vxor (vFields w))
  | 0x107 => some (.vshl (vFields w))
  | 0x108 => some (.vshr (vFields w))
  | 0x109 => some (.vsar (vFields w))
  | 0x10A => some (.vimin (vFields w))
  | 0x10B => some (.vimax (vFields w))
  | 0x10C => some (.vicmp (vFields w))
  | 0x10D => some (.vhash (vFields w))
  | 0x180 => some (.vperm (vFields w))
  | 0x181 => some (.vbcast (vFields w))
  | 0x182 => some (.viota (vFields w))
  | 0x183 => some (.vmov (vFields w))
  | 0x184 => some (.vlen (vFields w))
  | 0x185 => some (.vextr (vFields w))
  | 0x1C0 => some (.vaccrd (vFields w))
  | 0x1C1 => some (.vaccwr (vFields w))
  | 0x1E0 => some (.vloop (fieldAt 2 82 w) (fieldAt 4 78 w) (fieldAt 14 60 w) (fieldAt 19 5 w))
  | 0x1E1 => some (.vdbr (fieldAt 2 82 w) (fieldAt 1 81 w) (fieldAt 21 60 w) (fieldAt 19 5 w))
  | 0x1E3 => some (.vnop (fieldAt 19 5 w))
  | 0x1F0 => some (.vdot4 (vFields w))
  | _ => none

/-- OP8 and the fields of an M192 word (05 R99). -/
def rawM (w : Nat) : Option Instr :=
  match w / 2 ^ 181 % 2 ^ 8 with
  | 0x0 => some (.mma (mFields w))
  | 0x1 => some (.mmas (mFields w))
  | 0x2 => some (.mzero (mFields w))
  | 0x3 => some (.mload (mFields w))
  | 0x4 => some (.mstore (mFields w))
  | 0x5 => some (.mscale (mFields w))
  | 0x6 => some (.mflag (mFields w))
  | 0x10 => some (.mloop (fieldAt 2 179 w) (fieldAt 4 175 w) (fieldAt 14 157 w) (fieldAt 19 5 w))
  | 0x11 => some (.mdbr (fieldAt 2 179 w) (fieldAt 1 178 w) (fieldAt 21 157 w) (fieldAt 19 5 w))
  | 0x12 => some (.mnop (fieldAt 19 5 w))
  | 0x1F => some (.mma16 (mFields w))
  | _ => none

/-- Units of the word whose first stored unit is `u` (05 R81). -/
def unitsOfFirst (u : Nat) : Nat :=
  match u / 2 ^ 29 % 8 with | 4 => 3 | 5 => 3 | 6 => 6 | 7 => 2 | _ => 1

/-- The instruction of a word of `n` units by its class, reserved bits ignored. -/
def rawWord (cls w : Nat) : Option Instr :=
  match cls with | 4 => rawS w | 5 => rawV w | 6 => rawM w | 7 => rawE w | _ => rawC w

/-- Decode a word of class `cls` (05 R102): an undefined opcode first; then every reserved bit, which the encoder writes
as zero, and every field value. -/
def decodeWord (cls w : Nat) : Except Reject Instr :=
  match rawWord cls w with
  | none => .error .undefined
  | some i => if encode i = w ∧ i.wf = true then .ok i else .error .reserved

/-- A little-endian unit at the head of a byte list (05 R80). -/
def takeUnit (bs : List Byte) : Option (Nat × List Byte) :=
  match bs with
  | a :: b :: c :: d :: rest => some (a.toNat + b.toNat * 2 ^ 8 + c.toNat * 2 ^ 16 + d.toNat * 2 ^ 24, rest)
  | _ => none

/-- `n` further units after the bits `acc`, each below those before it (05 R80). -/
def takeUnits (n acc : Nat) (bs : List Byte) : Option (Nat × List Byte) :=
  match n with
  | 0 => some (acc, bs)
  | m + 1 =>
    match takeUnit bs with
    | none => none
    | some (u, rest) => takeUnits m (acc * 2 ^ 32 + u) rest

/-- Decode the instruction at the head of a byte list, and the bytes after it. -/
def decode (bs : List Byte) : Except Reject (Instr × List Byte) :=
  match takeUnit bs with
  | none => .error .truncated
  | some (u, rest) =>
    match takeUnits (unitsOfFirst u - 1) u rest with
    | none => .error .truncated
    | some (w, rest') =>
      match decodeWord (u / 2 ^ 29 % 8) w with
      | .ok i => .ok (i, rest')
      | .error e => .error e

/-- The bytes of a word of `n` units as memory holds them: unit n-1 first, each unit little-endian (05 R80). -/
def wordBytes (n w : Nat) : List Byte :=
  match n with
  | 0 => []
  | m + 1 =>
    let u := w / 2 ^ (32 * m) % 2 ^ 32
    [BitVec.ofNat 8 u, BitVec.ofNat 8 (u / 2 ^ 8), BitVec.ofNat 8 (u / 2 ^ 16), BitVec.ofNat 8 (u / 2 ^ 24)]
      ++ wordBytes m w

/-- The bytes of an instruction. -/
def encodeBytes (i : Instr) : List Byte := wordBytes i.units (encode i)

/-- The stored units that the opcode table's numbering gives: bits [31:0] of `w` are the FIRST stored unit, and the bits
count on from it; units past the given bits are zero. -/
def tableBytes (n w : Nat) : List Byte :=
  match n with
  | 0 => []
  | m + 1 =>
    [BitVec.ofNat 8 w, BitVec.ofNat 8 (w / 2 ^ 8), BitVec.ofNat 8 (w / 2 ^ 16), BitVec.ofNat 8 (w / 2 ^ 24)]
      ++ tableBytes m (w / 2 ^ 32)

/-- The bits of `w` below `nbits`, then zeros, as the six units the longest word takes. -/
def tableWordBytes (nbits w : Nat) : List Byte :=
  let v := w % 2 ^ nbits
  tableBytes (unitsOfFirst (v % 2 ^ 32)) v

/-- The instruction the decoder reads from a word numbered as spec/opcode_table.json numbers it. -/
def decodeTableWord (nbits w : Nat) : Option Instr :=
  match decode (tableWordBytes nbits w) with
  | .ok (i, _) => some i
  | .error _ => none

end Sys2Proof
end

