-- ==== Sys2Proof/Config.lean ====
section
/-! DEFINITION. What is fixed for the module, and the free values: constants with no body, whose value no proof can see. -/

namespace Sys2Proof.Config

/-- Bytes of scratch per core (01 R10). -/
def scratchBytes : Nat := 0x100000

/-- Usable bytes of one GDDR-7 channel, the unit of a partition's ranges (01 R23, 17 R327). -/
def rangeBytes : Nat := 896 * 1024 * 1024

/-- Bytes of one stack bank (01 R10). -/
def bankBytes : Nat := 64 * 1024 * 1024

/-- Bytes of one L2 way (11 R204). -/
def wayBytes : Nat := 256 * 1024

/-- Places in LQ(C) and SQ(C), and in LQ(S) and SQ(S) (14 R293). -/
def cQueue : Nat := 32
/-- Commands of the S-path queues (14 R293). -/
def sQueue : Nat := 16

/-- Entries of the rewind logs (02 R42). -/
def rewindC : Nat := 128
/-- Stream rewind log (02 R42). -/
def rewindS : Nat := 64
/-- Vector rewind log (02 R42). -/
def rewindV : Nat := 32

/-- Entries of a die's tile table (13 R259). -/
def tileEntries : Nat := 131072

/-- The watchdog's one grant (15 R310). -/
def grant : Nat := 2 ^ 20

/-- The acknowledgement window (20 R380). -/
def ackWindow : Nat := 2 ^ 22

/-- FREE VALUE (DESIGN CHOICE, log 2): the module's serial number (17 R340). -/
opaque serial : BitVec 128

/-- FREE VALUE (DESIGN CHOICE, log 2): the SHAKE256 digest of a partition's configuration, whose byte layout the manual does not give, by
the numbers of the configuration in the order of `PartConfig` (17 R340). -/
opaque digest : List Nat → BitVec 256

/-- FREE VALUE (DESIGN CHOICE, log 2): the public key of a key pair of the module, by the pair's name: 0 the identity key pair, n the
attestation key pair of the n-th power-on (17 R339). -/
opaque publicKey : Nat → BitVec (8 * 1952)

/-- FREE VALUE (DESIGN CHOICE, log 2): the ML-DSA-65 signature under a key pair, by name, of bytes (17 R339, R340). -/
opaque signature : Nat → List Byte → BitVec (8 * 3309)

/-- FREE VALUE (DESIGN CHOICE, log 2): the XTS key that a partition's creation generates (17 R332), by the context's number. -/
opaque xtsKey : Nat → BitVec 512

/-- FREE VALUE (DESIGN CHOICE, log 2): the tag key that a partition's creation generates (17 R332), by the context's number. -/
opaque tagKey : Nat → BitVec 256

/-- FREE VALUE (DESIGN CHOICE, log 2): STATE and CUR of a version homed on another module, as HSTAT reads them (13 R267), by the count of
such reads. -/
opaque remoteStat : Nat → BitVec 3

/-- FREE VALUE (DESIGN CHOICE, log 2): the 64-bit value of a handle register, which is the module's own (13 R260), by the handle's fields. -/
opaque handleValue : List Nat → BitVec 64

/-- FREE VALUE (DEDUCED, log 11): the number of the channel, bank or slice that holds a 64-byte sector of a tile version's storage, which its
module alone knows (13 R258), by module, version and sector. -/
opaque versionUnit : Nat → Nat → Nat → Nat

/-- FREE VALUE (DESIGN CHOICE, log 2): what a load past its fault point brings whose sector meets a condition after that (08 R151), by the
count of such values. -/
opaque lostLoad : Nat → BitVec 64

/-- FREE VALUE (DESIGN CHOICE, log 2): whether a firmware write under the recovery image, which booted from no slot, goes to slot B (22 R405). -/
opaque recoverySlot : Bool

end Sys2Proof.Config
end

