-- ==== Sys2Proof/Machine/State.lean ====
section
/-! DEFINITION. The state of one KRY-9640 module as plain data: the core that moves next with its task, the other cores,
memory, tile table, launches, resource map, fabric and parameter homes; the state after reset; faults and refusals. -/

namespace Sys2Proof.Machine

/-- Whether a core runs its kernel's logical text or the four slice texts (02 R36, 14 R283). -/
inductive Form where
  | logical
  | slices
  deriving DecidableEq, Repr

/-- A hardware loop counter with its hidden state (08 R156): `stop` is the END unit; `rank` orders the starts, the
greater the later. -/
structure LoopCtr where
  count  : BitVec 32
  active : Bool
  start  : Nat
  stop   : Nat
  rank   : Nat
  deriving DecidableEq, Repr

/-- Where a slice stands: its PC, the LSN (or slice position, 05 R101), its loop counters (08 R157), whether its text
has ended; and the words issued in the open segment with their signature, where the slice entered it at its start (19 R372). -/
structure Flow where
  pc    : Word
  lsn   : Nat
  loops : Vector LoopCtr 4
  ended : Bool
  seg   : Option (Nat × BitVec 32)
  deriving DecidableEq, Repr

/-- What a q register is bound to (12 R233, R237). -/
inductive QKind where
  | unbound
  | sbind
  | sgather
  | sscatter
  deriving DecidableEq, Repr

/-- A run of bytes of one 64-byte sector of a source: its module byte key, whether it is global (11 R206), and once its sector has been
read its bytes, with whether they are delivered as those of a bad sector (12 R231); `far`: the home module and the version that it is read
from there (13 R274). -/
structure SPiece where
  key    : Nat
  len    : Nat
  global : Bool
  got    : Option (List Byte × Bool) := none
  far    : Option (Nat × Nat) := none
  deriving DecidableEq, Repr

/-- One fetched 512-byte entry of a q register: poisoned, with the address of the first such sector and the unit that holds it (12 R231), or
failed on refetch with a code and address (12 R235). -/
structure QEntry where
  data   : VecWord
  poison : Option (Nat × UnitId)
  failed : Option (Nat × Nat)
  deriving DecidableEq, Repr

/-- A q register: its binding (18 R350), the entries popped or pushed, the gather indices, the fetched entries, and those that a
vector word under way has already taken from the eight places (09 R165). -/
structure QReg where
  kind    : QKind
  base    : Word
  strides : Word
  counts  : Word
  dims    : Nat
  out     : Bool
  width   : Nat
  done    : Nat
  pair    : Word
  idx     : List Nat
  fifo    : List QEntry
  held    : List QEntry
  part    : List SPiece
  hands   : List Handle
  deriving DecidableEq, Repr

/-- One SMETA run (12 R238). -/
structure MqRun where
  addr   : Word
  count  : Nat
  popped : Nat
  hands  : List Handle
  deriving DecidableEq, Repr

/-- One fetched metadata entry of 2,048 bytes. -/
structure MqEntry where
  data   : List Byte
  failed : Option (Nat × Nat)
  deriving DecidableEq, Repr

/-- A metadata queue: runs with entries left, and the entries fetched (12 R238). -/
structure MqReg where
  runs : List MqRun
  fifo : List MqEntry
  part : List SPiece
  deriving DecidableEq, Repr

/-- A metadata queue without runs. -/
def MqReg.empty : MqReg := { runs := [], fifo := [], part := [] }

/-- What the ECC of an accumulator finds (10 R203, 17 R336): nothing, an error it corrects, or one it does not. -/
inductive SoftError where
  | clean
  | corrected
  | uncorrectable
  deriving DecidableEq, Repr

/-- An accumulator (03 R46, R49, R50): `elems` holds 4,096 FP32 patterns row by row, none where the valid bit is clear; `err` is the
soft error its store holds. -/
structure Acc where
  valid   : Bool
  suspect : Bool
  err     : SoftError
  elems   : List (BitVec 32)
  deriving DecidableEq, Repr

/-- A handle register (13 R260). -/
inductive HReg where
  | empty
  | stale
  | held (h : Handle) (depth : Nat)
  deriving DecidableEq, Repr

/-- The payload of a channel entry (03 R46); `skipped` stands for the x register that a vector word left as it was because VL was 0
(03 R56, log 57). -/
inductive ChPayload where
  | scalar (v : Word)
  | vector (v : VecWord)
  | skipped
  deriving DecidableEq, Repr

/-- A channel entry: the LSN of the word that pushed it (08 R135) and, once popped, the LSN of the word that popped it; it
is freed when the frontier passes that word (09 R165). -/
structure ChEntry where
  tag    : Nat
  val    : ChPayload
  popped : Option Nat
  deriving DecidableEq, Repr

/-- A decision: the LSN of its branch and, per engine, the LSN of the word that popped it (14 R423). -/
structure DqEntry where
  tag    : Nat
  bit    : Bool
  popped : List (Engine × Nat)
  deriving DecidableEq, Repr

/-- An entry of a mode queue (14 R287, 18 R352). -/
structure ModeEntry where
  tag   : Nat
  rmode : Bool
  val   : Nat
  deriving DecidableEq, Repr

/-- The register files of a task (03 R46, R49). -/
structure Regs where
  x   : Vector Word 64
  xv  : BitVec 64
  p   : Vector PredWord 24
  pv  : BitVec 24
  t   : Vector Word 8
  v   : Vector VecWord 64
  vv  : BitVec 64
  acc : Vector Acc 16
  sem : Vector (BitVec 32) 256
  h   : Vector HReg 32
  y   : Vector (List Word) 4
  ck  : Vector (BitVec 32) 4
  deriving DecidableEq, Repr

/-- The stream registers and the joining queues (03 R46, 14 R287). -/
structure Streams where
  q     : Vector QReg 16
  mq    : Vector MqReg 2
  ch    : Vector (List ChEntry) 16
  dq    : Vector (List DqEntry) 4
  modeS : List ModeEntry
  modeV : List ModeEntry
  modeM : List ModeEntry
  deriving DecidableEq, Repr

/-- The CSRs a task writes or that count with it (03 R54). -/
structure Csrs where
  gotbase  : Word
  seed     : Word
  rmode    : BitVec 4
  vl       : BitVec 10
  trapvec  : Word
  emuvec   : Word
  faultrec : Word
  cycle    : Nat
  cycleft  : Nat
  deriving DecidableEq, Repr

/-- An entry of the region stack (19 R363). -/
structure Region where
  handler : Word
  opened  : Nat
  deriving DecidableEq, Repr

/-- An entry of LQ(C): an issued load that has not performed (11 R212), or a marker (11 R216, R218). A load: the word's LSN
and PC, its destination, its bytes by key and by the address that a fault reports. A marker: the scope whose Invalidate it takes and whether it waits for the older entries
of SQ(C). `clear`: the load has passed its fault point, since its sector met no condition as it issued (08 R151). -/
structure LqEntry where
  lsn    : Nat
  pc     : Word
  xd     : BitVec 6
  signed : Bool
  bytes  : Nat
  key    : Nat
  addr   : Nat
  global : Bool
  mark   : Option (BitVec 3 × Bool)
  clear  : Bool := false
  deriving DecidableEq, Repr

/-- An atomic waiting in SQ(C) (11 R219). -/
structure AtomicOp where
  op    : BitVec 4
  cas   : Bool
  wide  : Bool
  ord   : BitVec 2
  scope : BitVec 3
  xd    : BitVec 6
  b     : Word
  c     : Word
  deriving DecidableEq, Repr

/-- An entry of SQ(C): a plain store of `bytes` at module byte `key`, an atomic there, or a marker with the scope of its
release (11 R216, R218). `addr` is the address that a fault of an atomic reports, `ver` names the tile version stored through a fill handle (13 R265), `remote` the home module and
the offset of a version homed elsewhere (13 R274). -/
structure SqEntry where
  lsn    : Nat
  pc     : Word
  key    : Nat
  addr   : Nat
  bytes  : List Byte
  global : Bool
  ver    : Option Nat
  remote : Option (Nat × Nat)
  atomic : Option AtomicOp
  mark   : Option (Option (BitVec 3))
  deriving DecidableEq, Repr

/-- Where a sector write of the S path goes: a module byte key (with whether it is global); a crew member's scratch, whose
bytes are credited (16 R321); another module's address. -/
inductive SDest where
  | here (key : Nat) (global : Bool)
  | crew (key : Nat)
  | away (module addr : Nat) (via : Option Nat)
  | own (addr : Nat)
  deriving DecidableEq, Repr

/-- One sector write of the S path (11 R220): destination, the source still to be read (none once its bytes are fixed), its
bytes, and whether the sector is delivered poisoned (12 R231). -/
structure SWrite where
  dest   : SDest
  src    : List SPiece
  bytes  : List Byte
  poison : Bool
  deriving DecidableEq, Repr

/-- Which stream word a command of SQ(S) came from; `qout` is an entry pushed onto an out-of-core q register. -/
inductive SKind where
  | sld
  | sst
  | cpy
  | cpymc
  | cpyr
  | stage
  | cpyf
  | gpush
  | qout (q : Nat) (last : Bool)
  deriving DecidableEq, Repr

/-- A command of SQ(S): its LSN, its sector writes of which the first `sent` have departed, its transfer ID, checksum and
reduction fields (12 R239-R245), the tile version it writes, a GPUSH's tag or a CPYF's destination module. -/
structure SCmd where
  lsn    : Nat
  kind   : SKind
  writes : List SWrite
  sent   : Nat
  xid    : Option Nat
  ckm    : BitVec 2
  ckr    : BitVec 2
  op     : Nat
  fmt    : Nat
  ver    : Option Nat
  tag    : Nat
  bad    : Bool
  deriving DecidableEq, Repr

/-- A byte of an L1 (11 R208): its value, whether it is dirty, the count of cycles when it became so (11 R214), and what its ECC finds
(17 R336). -/
structure L1Byte where
  val   : Byte
  dirty : Bool
  since : Nat
  err   : SoftError := .clean
  deriving DecidableEq, Repr

/-- A register write made ahead of the frontier, with the value it replaced (02 R42); `same` is a write that left its register as it
was; `word` stands for a word issued ahead of the frontier (18 R348). -/
inductive Undo where
  | same
  | word
  | x (i : Nat) (v : Word) (valid : Bool)
  | p (i : Nat) (v : PredWord) (valid : Bool)
  | t (i : Nat) (v : Word)
  | flow (eng : Engine) (loops : Vector LoopCtr 4)
  | csr (c : Csrs)
  | v (i : Nat) (v : VecWord) (valid : Bool)
  | acc (i : Nat) (a : Acc)
  | ck (i : Nat) (v : BitVec 32)
  | qdone (i : Nat) (q : QReg)
  | mqrun (i : Nat)
  | sem (i : Nat) (add sub : Nat)
  deriving DecidableEq, Repr

/-- A rewind log entry (02 R42) or an entry of the join window (18 R348); `kept`: a rebuild at the word's own LSN leaves the write
(05 R104). -/
structure Rewind where
  eng  : Engine
  lsn  : Nat
  pc   : Word
  undo : Undo
  kept : Bool
  deriving DecidableEq, Repr

/-- A post of SYNC19 still to be made: it waits for the results of its word, and where it is `late` for the frontier (05 R94). -/
structure PendPost where
  eng  : Engine
  lsn  : Nat
  sem  : BitVec 8
  late : Bool
  deriving DecidableEq, Repr

/-- What a home answers to a remote read or atomic: its bytes, or the code that refuses it. -/
inductive Reply where
  | bytes (b : List Byte)
  | refused (code : Nat)
  deriving DecidableEq, Repr

/-- A word that waits (16 R312, 13 R266, R268): what it waits for, the cycle it took effect. `fabric`: the replies its
remote reads have had, the transfer ID of the open one, and its reply once it has come; `index`: the pieces of an index array, of which some
have been read (11 R221). -/
inductive Wait where
  | none
  | sem (n : BitVec 8) (cnt : Nat) (take : Bool) (limit : Option (Nat × BitVec 5)) (since : Nat)
  | bar (bar : Nat) (limit : Option (Nat × BitVec 5)) (since : Nat)
  | push (y pos : Nat) (v : Word)
  | pop (y : Nat) (d : BitVec 6)
  | hrecv (mailbox : Nat) (hd : BitVec 5)
  | room (y : Nat)
  | parked (ver home : Nat)
  | hdrop (ver : Nat)
  | fabric (got : List Reply) (xid : Nat) (reply : Option Reply)
  | ckrd (k : Nat)
  | index (got : List SPiece)
  | queue
  deriving DecidableEq, Repr

/-- Why a task is saved (18 R351). -/
inductive SaveCause where
  | systemFault
  | class0
  | suspended
  | evicted
  | debugger
  | policy2
  deriving DecidableEq, Repr

/-- What a core is doing: nothing, holding a dispatched task that has not started, running, past its TEXIT, rebuilt for a forced stop that saves
its crew as a whole (16 R322), or reserved to its task
under a debugger halt (18 R360), with a BKPT's tag and whether the image's header is as R351 has it. -/
inductive Run where
  | idle
  | starting
  | running
  | exiting
  | stopping (cause : SaveCause)
  | halted (tag : Nat) (sound : Bool)
  deriving DecidableEq, Repr

/-- A task's place in its launch (02 R30-R32, 15 R296, R297); `launch` is the model's name of it, `start` the TIME of its start,
`place` where its image stands in the save areas (18 R350). -/
structure Task where
  part    : Nat
  launch  : Nat
  serial  : Nat
  idx     : List Word
  pblock  : Word
  limit   : Nat
  policy  : Nat
  taskid  : Word
  crew    : Nat
  evvec   : Nat
  bindErr : Bool
  start   : Nat
  place   : Option Nat := none
  deriving DecidableEq, Repr

/-- A code raised at a word (18 R341, R344): the slice that stands at it, the slice of origin, the first failing byte address, the failing unit, TRAP's nn or
BKPT's tag, the repetition reached, whether f is the LSN after the word (18 R346), the word's LSN, PC and stored bytes. -/
structure Raise where
  code      : Nat
  eng       : Engine
  origin    : Engine
  addr      : Option Nat
  unit      : Option UnitId
  info      : Nat
  rho       : Nat
  after     : Bool
  unchecked : Bool
  lsn       : Nat
  pc        : Word
  insn      : List Byte
  deriving DecidableEq, Repr

/-- One core with the state of its task (03 R46, R54). `text` holds the units of the kernel's logical text, `code` and `anns`
the slice texts in code memory with their annotations, `map` the slice map; `fault` a fault of a slice whose f the frontier has not reached and `stops` the forced stops asked for, in the order
in which they apply (18 R346, R361); `stepTo` the LSN at which a
single step ends (18 R360), `gate` the LSN after the newest word whose act was gated at the frontier (02 R41, R43); `waits` what the other slices' words wait for; `mode0` the VL and RMODE that hold
before any entry of the mode queues. `defer` and `costs` are the model's own plain data: which accesses only issue, and how many cycles
each step takes, one where the list is empty (DESIGN CHOICE, log 1). -/
structure Core where
  id      : Nat
  run     : Run
  form    : Form
  eng     : Engine
  flow    : Flow
  parked  : List (Engine × Flow)
  regs    : Regs
  str     : Streams
  csr     : Csrs
  regions : List Region
  hdl     : Bool
  emu     : Bool
  erls    : Bool
  granted : Bool
  rho     : Nat
  wait    : Wait
  waits   : List (Engine × Wait)
  mode0   : BitVec 10 × BitVec 4
  lqC     : List LqEntry
  sqC     : List SqEntry
  sqS     : List SCmd
  l1      : List (Nat × L1Byte)
  rewind  : List Rewind
  posts   : List PendPost
  text    : List (BitVec 32)
  code    : Vector (List (BitVec 32)) 4
  anns    : Vector (List (BitVec 16)) 4
  map     : SliceMap
  absent  : List (Engine × Nat)
  weak    : List ((Engine × Nat) × Bool)
  slots   : List SlotDecl
  emulate : Bool
  task    : Task
  lastCtx : Option Nat
  fault   : Option Raise
  stops   : List SaveCause
  stepTo  : Option Nat
  gate    : Nat
  defer   : List Bool
  costs   : List Nat
  deriving DecidableEq, Repr

/-- A barrier of a crew (16 R319); `tgt` and `arr` go by the members' task serials. -/
structure Barrier where
  phase : BitVec 32
  arr   : List Nat
  out   : Nat
  tgt   : List (Nat × Nat)
  deriving DecidableEq, Repr

/-- A crew (02 R28, 16 R319): its launch, member serials still in it, barriers, credit pool, cluster. -/
structure Crew where
  id      : Nat
  launch  : Nat
  cluster : Nat
  members : List Nat
  bars    : Vector Barrier 16
  cp      : Nat
  deriving DecidableEq, Repr

/-- The state of a tile version (13 R257). -/
inductive VState where
  | filling
  | sealed
  | abandoned
  deriving DecidableEq, Repr

/-- Who holds a version's fill handle (13 R260, R266, R399). -/
inductive Holder where
  | none
  | task (launch serial : Nat)
  | mailbox (part : Nat)
  | away (module : Nat)
  | home (part die : Nat)
  deriving DecidableEq, Repr

/-- An entry of the tile table (13 R256-R259): `id` is the model's own name of the version's storage; `seen` holds, per other
module, how many of the see handles are held there (13 R275). -/
structure Version where
  id     : Nat
  part   : Nat
  pool   : Nat
  die    : Nat
  name   : Nat
  k      : Nat
  num    : Nat
  state  : VState
  see    : Nat
  seen   : List (Nat × Nat)
  holder : Holder
  cur    : Bool
  deriving DecidableEq, Repr

/-- A handle that HSEND carried to a mailbox full at its arrival (13 R266); `tried` is the TIME at which it was last sent (21 R392), `die` its
sender's. -/
structure OutHandle where
  part    : Nat
  dst     : Nat
  mailbox : Nat
  handle  : Handle
  sent    : Option Nat
  tried   : Nat := 0
  die     : Nat := 0
  deriving DecidableEq, Repr

/-- The condition of a 64-byte sector (17 R334, R422); `cache` is an uncorrectable error that a read meets in L1 (17 R336). -/
inductive Mark where
  | poison
  | uncorrectable
  | badTag
  | cache
  deriving DecidableEq, Repr

/-- A TLB entry (17 R331): partition, virtual page base and size, physical base, permissions. -/
structure TlbEntry where
  part : Nat
  va   : Nat
  size : Nat
  pa   : Nat
  rd   : Bool
  wr   : Bool
  deriving DecidableEq, Repr

/-- A template of a launch record (15 R294). -/
structure Template where
  base : Word
  coef : List Int
  k    : Nat
  deriving DecidableEq, Repr

/-- A launch record (15 R294) with its fields read. -/
structure LaunchRec where
  kernel  : Word
  gotbase : Word
  seed    : Word
  pblock  : Word
  extents : List Nat
  cls     : Nat
  serp    : Bool
  pre     : Bool
  order   : List Nat
  place   : BitVec 48
  limit   : Nat
  policy  : Nat
  levels  : List (Nat × Nat)
  after   : Nat
  evvec   : Nat
  rtiles  : List Template
  wtiles  : List Template
  deriving DecidableEq, Repr

/-- A bound task (13 R271): its serial, the handles binding made, whether a write template failed for its k. -/
structure Bound where
  serial  : Nat
  handles : List (Nat × Handle)
  bindErr : Bool
  deriving DecidableEq, Repr

/-- A launch record on its way to acceptance (15 R297, R299): its place in the order of arrivals, the uncore cycle of its arrival, its
source, the record. -/
structure Pending where
  arrival : Nat
  cycle   : Nat
  source  : Nat
  record  : LaunchRec
  deriving DecidableEq, Repr

/-- A launch of a code object that the loader has still to submit: its index, queue, record and predecessor (04 R68, R70). -/
structure LoadItem where
  index  : Nat
  queue  : Nat
  record : List Byte
  after  : Option Nat
  deriving DecidableEq, Repr

/-- The loader's work on one code object: what it has still to submit, and per index done the arrival it got, none where it was
refused or not submitted (04 R70). -/
structure LoadJob where
  todo : List LoadItem
  done : List (Nat × Option Nat)
  deriving DecidableEq, Repr

/-- A fault record (18 R344). -/
structure FaultRec where
  code   : Nat
  slice  : Nat
  depth  : Nat
  part   : Nat
  flags  : Nat
  pc     : Word
  lsn    : Nat
  addr   : Nat
  unit   : UnitId
  taskid : Word
  launch : Nat
  rho    : Nat
  info   : Nat
  oldT7  : Word
  time   : Nat
  cycle  : Nat
  insn   : List Byte
  deriving DecidableEq, Repr

/-- An accepted launch (15 R297-R301). `id` is the model's name: the partition's number above its 64-bit launch ID; `spots` the
sector or die chosen for an instance of a level, by domain and the indices that name the instance (02 R27), `lost` those of them
whose loss has been reported (02 R28), `accepted` the uncore cycle of its acceptance, `record1` the record of its first fault (18 R344). -/
structure Launch where
  id        : Nat
  arrival   : Nat
  accepted  : Nat
  spots     : List (Nat × List Nat × Nat)
  lost      : List (Nat × List Nat × Nat)
  part      : Nat
  record    : LaunchRec
  handler   : Bool
  next      : Nat
  bound     : List Bound
  exited    : Nat
  killed    : Nat
  cancelled : Nat
  released  : List Nat
  first     : Option (Nat × Nat)
  record1   : Option FaultRec
  held      : Bool
  noRoom    : Bool
  waited    : Nat
  done      : Bool
  deriving DecidableEq, Repr

/-- A saved task (18 R350): the core's state as the image holds it, its scratch and poison, the code held with it, a
BKPT's tag, whether the host has released it and ordered the delivery of its code (18 R354), and the core reserved to it (18 R360);
`sound`: MAGIC, IVER and the reserved bytes are as R351 has them. -/
structure Saved where
  core    : Core
  cause   : SaveCause
  raised  : Option Raise
  tag     : Nat
  scratch : List Host.Cell
  poison  : List Nat
  release : Bool
  deliver : Bool
  onCore  : Option Nat
  sound   : Bool
  deriving DecidableEq, Repr

/-- An answer to a host command or a host read (22 R407). -/
inductive HostReply where
  | refused (code : Nat)
  | counter (part index value : Nat)
  | hostCounter (index value : Nat)
  | attestation (report signature key keySignature : List Byte)
  | notPlaced (part object : Nat)
  | notSubmitted (part launch : Nat)
  | boardNotice (n : Nat)
  | errinj (v : Word)
  | status (state secver : Nat) (slot : Option Bool) (recovery : Bool)
  | block (block off : Nat) (v : Word)
  | config (cfg : PartConfig) (key0 key1 : Bool)
  | saveAreas (part : Nat) (base : Word) (halted : List (Nat × Nat))
  | bytes (addr : Nat) (b : List Byte)
  | fault (r : FaultRec)
  | invalidated (part lo hi : Nat)
  deriving DecidableEq, Repr

/-- A partition with its context (17 R327, 20 R378-R381, 15 R305): `ctx` is the model's own number of the context, `ringNext` the
number of records that have gone through the overflow ring (15 R299), `readyAt` the uncore cycle in which it became ready, `newest` the key
slot last installed (17 R338), `saveBase` and `saveSlots` the context save areas that the host has assigned, one image each (18 R350). -/
structure Partition where
  cfg       : PartConfig
  ctx       : Nat
  ringNext  : Nat
  vnum      : Nat
  vden      : Nat
  acked     : Nat
  window    : Option Nat
  suspended : Bool
  evicted   : Bool
  handler   : Option LaunchRec
  notice    : Nat
  handlerOn : Option Nat
  counters  : Vector Nat 8
  xtsKey    : BitVec 512
  tagKey    : BitVec 256
  key0      : Option (BitVec 256)
  key1      : Option (BitVec 256)
  newest    : Bool
  queues    : List Pending
  pool      : List Pending
  ring      : List Pending
  arrivals  : Nat
  seqs      : List (Nat × Nat)
  jobs      : List LoadJob
  ready     : Bool
  readyAt   : Nat
  saveBase  : Word
  saveSlots : Nat
  stageTop  : Nat
  globTop   : Nat
  stackTop0 : Nat
  stackTop1 : Nat
  deriving DecidableEq, Repr

/-- The resource map record (20 R374). -/
structure RMap where
  version  : Nat
  time     : Nat
  cause    : Nat
  unit     : Option UnitId
  cores    : BitVec 384
  l2       : BitVec 96
  rdc      : BitVec 16
  banks    : BitVec 96
  channels : BitVec 192
  ports    : BitVec 24
  bridge   : BitVec 16
  damask   : BitVec 2
  mgmt     : BitVec 8
  aclk     : Nat
  caps     : List Byte
  homes    : List Byte
  lat      : List Byte
  gone     : List Nat
  deriving DecidableEq, Repr

/-- STATUS of management block 0 (22 R408). -/
inductive Stage where
  | reset
  | boot
  | selftest
  | ready
  | recovery
  | failed
  deriving DecidableEq, Repr

/-- Supply and clocks (01 R15-R21): whether power is on, failed, stopped by heat; the excursion under way and the speed
before it. -/
structure Power where
  on        : Bool
  failed    : Bool
  stopped   : Bool
  under     : Option Nat
  noticed   : Bool
  overNote  : Bool
  deriving DecidableEq, Repr

/-- Firmware flash, boot ROM and identity store (22 R404, R405; 17 R339): `recovery` is the write-protected recovery image, `die` the die
firmware, `romKey` the digest that the ROM holds, `floor` the anti-rollback counter, `identity` names the identity key pair, `boots` counts
the power-ons and so names the attestation key pair of the present one (DESIGN CHOICE, log 2). -/
structure Flash where
  slotA    : Option FwImage
  slotB    : Option FwImage
  recovery : FwImage
  die      : FwImage
  romKey   : BitVec 256
  booted   : Option Bool
  floor    : Nat
  secver   : Nat
  caps     : List Byte
  identity : Nat
  boots    : Nat
  deriving DecidableEq, Repr

/-- What the module remembers of a release of MOD_RESET_N until READY (22 R403): BOOTSEL, what self-test finds, the latencies measured, the
management cores that pass their ROM check, the map to be published once the boot firmware has made it. -/
structure BringUp where
  bootsel : Bool
  tests   : List SelfTest
  lat     : List Byte
  romOk   : BitVec 8
  map     : Option RMap
  deriving DecidableEq, Repr

/-- A Rurel port in training's wake (21 R385-R387): the SEQ it sends next, the last it accepted, whether it owes a NAK or an ACK, its
replay buffer oldest first with how often each flit was replayed, the credit it holds and the places it has yet to grant, and the
rest of the packet it is sending; `moved` is the TIME of its last progress (21 R386). -/
structure Port where
  next    : BitVec 12
  got     : BitVec 12
  nak     : Bool
  owes    : Bool
  replay  : List (Flit × Nat)
  credit  : Nat
  grant   : Nat
  sending : List Flit
  moved   : Nat := 0
  deriving DecidableEq, Repr

/-- A fabric command that awaits acknowledgements of one module, or of this one for the sectors it has here beside others elsewhere (21
R392): its task, the path it left by, the versions it writes, its checksum register and semaphores, the sectors
acknowledged (index, bytes, value returned), the number of its sectors there, the TIME of its last acknowledgement and the copies it
keeps. `own` holds the bytes of a command of this module whose checksum waits for its turn (12 R245). -/
structure Outstanding where
  xid    : Nat
  dst    : Nat
  launch : Nat
  serial : Nat
  part   : Nat
  path   : Path
  vers   : List Nat
  ck     : Option (BitVec 2)
  ckm    : BitVec 2
  posts  : List Nat
  own    : List Byte
  acks   : List (Nat × Nat × BitVec 32)
  total  : Nat
  since  : Nat
  sends  : List Packet
  deriving DecidableEq, Repr

/-- The mark of a transfer at its destination (21 R392): its sender and number, the TIME of its last sector, per sector
applied the checksum value returned with its acknowledgement, and whether it was refused. -/
structure XMark where
  src  : Nat
  xid  : Nat
  time : Nat
  vals : List (BitVec 32)
  bad  : Bool := false
  deriving DecidableEq, Repr

/-- A gradient block the module keeps (12 R248), with the acknowledgements it has had: the home's, which says whether there is
a mirror, and the mirror's; `dest` is the module and die it is resent to (21 R401, R402), `tried` the TIME at which it was last sent (21 R395),
`die` its sender's. -/
structure Retained where
  tag    : Nat
  launch : Nat
  serial : Nat
  part   : Nat
  dest   : Nat × Nat
  home   : Option Bool
  mirror : Bool
  bytes  : List Byte
  tried  : Nat := 0
  die    : Nat := 0
  deriving DecidableEq, Repr

/-- A gradient block held in a home's lookahead: its index and bytes, its tag and its sender (21 R395). -/
structure Ahead where
  block  : Nat
  tag    : Nat
  sender : Nat × Nat
  bytes  : List Byte
  deriving DecidableEq, Repr

/-- A parameter home (21 R393-R402): its counter, when that step became current, the blocks applied in it in commit order, the
lookahead, the scalars k8-k15, the publication versions still FILLING, its role: 0 home, 1 mirror, 2 promoted mirror, and the commit order
of each past step (21 R401). -/
structure ParamHome where
  desc     : HomeDesc
  program  : List Word
  step     : Nat
  since    : Nat
  applied  : List Nat
  ahead    : List Ahead
  scalars  : List (BitVec 32)
  versions : List Nat
  role     : Nat
  past     : List (Nat × List Nat)
  deriving DecidableEq, Repr

/-- A loaded kernel: the partition that owns it, the address of its slice map (15 R294), its logical form and its slices. -/
structure Loaded where
  part   : Nat
  addr   : Nat
  kernel : Kernel
  sliced : Sliced
  deriving DecidableEq, Repr

/-- What moves next: an event, the slice of an engine on a core, a system agent's posts to a semaphore of a core (03 R46, R48), a
read of a word into the constant cache of a cluster (08 R147), or the board controller's read of a management register block (22 R407). Plain data that stands for the outside world and for
every choice of timing (DESIGN CHOICE, log 1). -/
inductive Move where
  | event (i : Instr)
  | turn (core : Nat) (eng : Engine)
  | sysPost (core sem n : Nat)
  | constRead (cluster key : Nat)
  | sideband (block off : Nat)
  deriving DecidableEq, Repr

/-- The module. `cycles` counts thousandths of core-cycles (01 R15, R17), `failing` holds the GDDR-7 channels that have failed and whose pages
are still to be moved (01 R23), `retrain` the channel that is out for retraining (20 R382), `invals` the invalidation commands not yet
complete (17 R331), `claims` the cores that a pre-empting launch has taken (15 R307), `spostq` the posts under way with the count of cycles
at which they took effect (16 R317), `bring` the bring-up under way (22 R403), `eras` how often another module has left the map (13 R275), `known` what is known for good of the state of
versions homed elsewhere (13 R267), `lostAt` the TIME at which another module last left the map (13 R275), `dieFw` the digest of the die firmware last started (17 R340), `hostKey0` and `hostKey1` the host key of each epoch (21 R391), `soft` holds the sectors with an error that their ECC corrects (17 R334, R422), `rv` the remote views by die and sector (11 R209), `ccache` the constant caches by cluster and aligned
address, with the number of launch arrivals of the partition when the word was read (08 R147). -/
structure State where
  me        : Core
  others    : List Core
  sched     : List Move
  ticks     : List Nat
  time      : Nat
  cycles    : Nat
  mem       : List Host.Cell
  marks     : List (Nat × Mark)
  soft      : List Nat
  rv        : List ((Nat × Nat) × BitVec 512)
  ccache    : List ((Nat × Nat) × Nat × Word)
  tlb       : List TlbEntry
  versions  : List Version
  verNext   : Nat
  mailboxes : List ((Nat × Nat) × List Handle)
  outHands  : List OutHandle
  crews     : List Crew
  crewNext  : Nat
  spostq    : List (Nat × Nat × Nat × Nat)
  parts     : List Partition
  ctxNext   : Nat
  kernels   : List Loaded
  launches  : List Launch
  saved     : List Saved
  reserved  : List (Nat × Nat)
  claims    : List (Nat × Nat)
  quiet     : List (Nat × BitVec 384)
  absentNew : List (Engine × Nat)
  rmap      : RMap
  failing   : BitVec 192
  retrain   : Option Nat
  invals    : List (Nat × Nat × Nat)
  eras      : List (Nat × Nat)
  known     : List ((Nat × Nat) × (Nat × Nat))
  lostAt    : List (Nat × Nat)
  dieFw     : BitVec 256
  hostKey0  : Option (BitVec 256)
  hostKey1  : Option (BitVec 256)
  stage     : Stage
  bring     : Option BringUp
  report    : List SelfTest
  hostCnt   : List (Nat × Nat)
  power     : Power
  flash     : Flash
  errinj    : Word
  errCount  : Nat
  ports     : List (Nat × Port)
  fabric    : Nat
  cmdCount  : Nat
  askCount  : Nat
  xmarks    : List XMark
  outs      : List Outstanding
  retained  : List Retained
  homes     : List ParamHome
  mirrorsAt : List ((Nat × Nat × Nat) × (Nat × Nat))
  inbox     : List Packet
  parkedReq : List Packet
  outbox    : List Packet
  wire      : List (Nat × Flit)
  events    : List EventMsg
  hostOut   : List HostReply
  freeCount : Nat
  deriving DecidableEq, Repr

/-- Reasons the machine stops. -/
inductive Fault where
  /-- Raised by `step` alone: the 48 V input is removed and no part of the module runs (01 R21). Safe: a true claim about
  a module without power may be unprovable. -/
  | unpowered
  deriving DecidableEq, Repr

/-- Reasons an instruction has no meaning. -/
inductive Refusal where
  /-- An arm of `exec` that has no meaning yet, by its mnemonic. Safe. -/
  | notModelled (mnemonic : String)
  deriving DecidableEq, Repr

/-- A loop counter with nothing started. -/
def LoopCtr.none : LoopCtr := { count := 0, active := false, start := 0, stop := 0, rank := 0 }

/-- A slice at its entry. -/
def Flow.entry : Flow :=
  { pc := 0, lsn := 0, loops := Vector.replicate 4 .none, ended := false, seg := some (0, 0) }

/-- An unbound q register (03 R46). -/
def QReg.unbound : QReg :=
  { kind := .unbound, base := 0, strides := 0, counts := 0, dims := 0, out := false, width := 0, done := 0, pair := 0,
    idx := [], fifo := [], held := [], part := [], hands := [] }

/-- An accumulator after MZERO or context allocation (03 R50). -/
def Acc.clear : Acc := { valid := false, suspect := false, err := .clean, elems := [] }

/-- Registers after reset and after context allocation (03 R46). -/
def Regs.clear : Regs :=
  { x := Vector.replicate 64 0, xv := 0, p := Vector.replicate 24 0, pv := 0, t := Vector.replicate 8 0,
    v := Vector.replicate 64 0, vv := 0, acc := Vector.replicate 16 .clear, sem := Vector.replicate 256 0,
    h := Vector.replicate 32 .empty, y := Vector.replicate 4 [], ck := Vector.replicate 4 0 }

/-- Streams and joining queues after reset (03 R46). -/
def Streams.clear : Streams :=
  { q := Vector.replicate 16 .unbound, mq := Vector.replicate 2 { runs := [], fifo := [], part := [] },
    ch := Vector.replicate 16 [], dq := Vector.replicate 4 [], modeS := [], modeV := [], modeM := [] }

/-- CSRs after reset (03 R54). -/
def Csrs.clear : Csrs :=
  { gotbase := 0, seed := 0, rmode := 0, vl := 0, trapvec := 0, emuvec := 0, faultrec := 0, cycle := 0, cycleft := 0 }

/-- No task. -/
def Task.none : Task :=
  { part := 0, launch := 0, serial := 0, idx := [], pblock := 0, limit := 0, policy := 0, taskid := 0, crew := 0,
    evvec := 0, bindErr := false, start := 0 }

/-- Core `g` with no task. -/
def Core.idle (g : Nat) : Core :=
  { id := g, run := .idle, form := .logical, eng := .c, flow := .entry, parked := [], regs := .clear, str := .clear,
    csr := .clear, regions := [], hdl := false, emu := false, erls := false, granted := false, rho := 0, wait := .none, waits := [], mode0 := (0, 0),
    lqC := [], sqC := [], sqS := [], l1 := [], rewind := [], posts := [], text := [],
    code := Vector.replicate 4 [], anns := Vector.replicate 4 [], map := { resume := [], segs := [], loops := [] }, absent := [], weak := [], slots := [], emulate := false, task := .none, lastCtx := none, fault := none,
    stops := [], stepTo := none, gate := 0, defer := [],
    costs := [] }

/-- A barrier at crew start (16 R319). -/
def Barrier.start : Barrier := { phase := 0, arr := [], out := 0, tgt := [] }

/-- The map before VERSION 1: no unit live, clocks at R15. -/
def RMap.none : RMap :=
  { version := 0, time := 0, cause := 0, unit := Option.none, cores := 0, l2 := 0, rdc := 0, banks := 0, channels := 0,
    ports := 0, bridge := 0, damask := 0, mgmt := 0, aclk := 4000, caps := [], homes := [], lat := [], gone := [] }

/-- The firmware image that the flash holds at manufacture (DESIGN CHOICE, log 3). -/
def firstImage : FwImage := { magic := 0x46574B59, secver := 0, len := 0, keyDigest := 0, sigOk := true, digest := 0 }

/-- The module right after reset: power applied, MOD_RESET_N not yet released, no map, no partition (22 R403, R408). The
flash holds one valid image in slot A, a recovery image and die firmware, the first slot of the host key a key of zeros (DESIGN CHOICE, log 3). -/
def State.reset : State :=
  { me := .idle 0, others := [], sched := [], ticks := [], time := 0, cycles := 0, mem := [], marks := [], soft := [], rv := [], ccache := [], tlb := [],
    versions := [], verNext := 0, mailboxes := [], outHands := [], crews := [], crewNext := 0,
    spostq := [], parts := [], ctxNext := 1, kernels := [], launches := [], saved := [], reserved := [], claims := [], quiet := [], absentNew := [],
    rmap := .none, failing := 0, retrain := none, invals := [], eras := [], known := [], lostAt := [], dieFw := 0, hostKey0 := some 0, hostKey1 := none, stage := .reset, bring := none, report := [], hostCnt := [],
    power := { on := true, failed := false, stopped := false, under := none, noticed := false, overNote := false },
    flash := { slotA := some firstImage, slotB := none, recovery := firstImage, die := firstImage, romKey := 0, booted := none, floor := 0, secver := 0, caps := [], identity := 0, boots := 0 },
    errinj := 0, errCount := 0, ports := [], fabric := 0, cmdCount := 0, askCount := 0, xmarks := [], outs := [], retained := [],
    homes := [], mirrorsAt := [], inbox := [], parkedReq := [], outbox := [], wire := [], events := [], hostOut := [], freeCount := 0 }

end Sys2Proof.Machine
end

