-- ==== Sys2Proof/Machine/Mem.lean ====
section
/-! DEFINITION. Bytes of the module by key, the marks of sectors, error counters, and the accessors of cores, partitions,
versions and registers. -/

namespace Sys2Proof.Machine

/-! Keys: one natural number per byte of storage of the module (01 R10, R11; 11 R206). -/

/-- A byte of the GDDR-7 range `r` = 96 * die + channel (17 R327). -/
def gddrKey (r off : Nat) : Nat := r * Config.rangeBytes + off
/-- A byte of the stack bank `b` = 48 * die + bank. -/
def stackKey (b off : Nat) : Nat := 2 ^ 40 + b * Config.bankBytes + off
/-- A byte of a way of the L2 slice `sl` = 48 * die + slice. -/
def stagingKey (sl way off : Nat) : Nat := 2 ^ 41 + (sl * 16 + way) * Config.wayBytes + off
/-- A byte of the scratch of core `g`. -/
def scratchKey (g off : Nat) : Nat := 2 ^ 42 + g * Config.scratchBytes + off
/-- A byte of the storage of the tile version `id`. -/
def versionKey (id off : Nat) : Nat := 2 ^ 44 + id * 2 ^ 22 + off

/-- Whether a key lies in GDDR-7 outside tile versions. -/
def isGddr (k : Nat) : Bool := k < 2 ^ 40
/-- Whether a key lies in the scratch of a core. -/
def isScratch (k : Nat) : Bool := 2 ^ 42 ≤ k && k < 2 ^ 44
/-- The die whose GDDR-7 holds a key (11 R207). -/
def keyDie (k : Nat) : Nat := k / Config.rangeBytes / 96
/-- The die of a core (01 R9). -/
def coreDie (g : Nat) : Nat := g / 192
/-- The cluster of a core (01 R9). -/
def coreCluster (g : Nat) : Nat := g / 8
/-- The position of a core in its cluster (01 R9). -/
def corePos (g : Nat) : Nat := g % 8

/-! The byte memory: addresses strictly rising, no entry zero; an unlisted byte reads 0 (03 R51, 13 R258, 17 R328). -/

/-- What an unlisted byte reads as (DESIGN CHOICE, log 6). -/
def emptyByte : Byte := 0

/-- The canonical form of a memory. -/
def Memory.wf (m : List Host.Cell) : Bool :=
  match m with
  | [] => true
  | (a, b) :: rest =>
    b != emptyByte && (match rest with | [] => true | (c, _) :: _ => decide (a < c)) && Memory.wf rest

/-- Read a byte. -/
def cellGet (m : List Host.Cell) (a : Nat) : Byte :=
  match m with
  | [] => emptyByte
  | (k, b) :: rest => if k = a then b else if a < k then emptyByte else cellGet rest a

/-- Write a byte, keeping the canonical form. -/
def cellSet (m : List Host.Cell) (a : Nat) (v : Byte) : List Host.Cell :=
  match m with
  | [] => if v = emptyByte then [] else [(a, v)]
  | (k, b) :: rest =>
    if a < k then if v = emptyByte then (k, b) :: rest else (a, v) :: (k, b) :: rest
    else if k = a then if v = emptyByte then rest else (a, v) :: rest
    else (k, b) :: cellSet rest a v

/-- Write consecutive bytes. -/
def cellsSet (m : List Host.Cell) (a : Nat) (bs : List Byte) : List Host.Cell :=
  match bs with
  | [] => m
  | b :: rest => cellsSet (cellSet m a b) (a + 1) rest

/-- Read `n` consecutive bytes. -/
def cellsGet (m : List Host.Cell) (a n : Nat) : List Byte :=
  match n with
  | 0 => []
  | k + 1 => cellGet m a :: cellsGet m (a + 1) k

/-- Every byte of [lo, lo + len) reads 0 afterwards. -/
def cellsClear (m : List Host.Cell) (lo len : Nat) : List Host.Cell :=
  m.filter fun c => c.1 < lo || lo + len ≤ c.1

/-- The listed cells of [lo, lo + len), keyed from 0. -/
def cellsSlice (m : List Host.Cell) (lo len : Nat) : List Host.Cell :=
  (m.filter fun c => lo ≤ c.1 && c.1 < lo + len).map fun c => (c.1 - lo, c.2)

/-- Put a slice back at `lo`. -/
def cellsPut (m : List Host.Cell) (lo : Nat) (sl : List Host.Cell) : List Host.Cell :=
  sl.foldl (fun a c => cellSet a (lo + c.1) c.2) m

/-! Association lists of the state. -/

/-- The value of a key. -/
def assoc {β : Type} (l : List (Nat × β)) (k : Nat) : Option β := (l.find? fun p => p.1 == k).map Prod.snd

/-- Without a key. -/
def unassoc {β : Type} (l : List (Nat × β)) (k : Nat) : List (Nat × β) := l.filter fun p => p.1 != k

/-- A key set. -/
def reassoc {β : Type} (l : List (Nat × β)) (k : Nat) (v : β) : List (Nat × β) := (k, v) :: unassoc l k

/-! Cores. -/

/-- A core among the others. -/
def findCore (l : List Core) (g : Nat) : Core := (l.find? fun c => c.id == g).getD (.idle g)

/-- Core `g` as the state holds it; a core that no entry lists is idle. -/
def coreOf (s : State) (g : Nat) : Core := if s.me.id = g then s.me else findCore s.others g

/-- A core put among the others. -/
def putCore (l : List Core) (c : Core) : List Core := c :: l.filter fun d => d.id != c.id

/-- A core written back. -/
def setCore (s : State) (c : Core) : State :=
  if s.me.id = c.id then { s with me := c } else { s with others := putCore s.others c }

/-- The state with core `g` as the one that moves. -/
def focus (g : Nat) (s : State) : State :=
  if s.me.id = g then s
  else { s with me := findCore s.others g, others := putCore (s.others.filter fun d => d.id != g) s.me }

/-- Do `f` with core `g` as the one that moves, then give the place back. -/
def onCore (g : Nat) (f : State → State) (s : State) : State := focus s.me.id (f (focus g s))

/-- All cores that hold something, the moving one first. -/
def allCores (s : State) : List Core := s.me :: s.others.filter fun c => c.id != s.me.id

/-- The core that runs a task, if any. -/
def coreOfTask (s : State) (launch serial : Nat) : Option Core :=
  (allCores s).find? fun c => c.run != .idle && c.task.launch == launch && c.task.serial == serial

/-- The uncore cycle: two core-cycles (01 R15, R16). -/
def uncore (s : State) : Nat := s.cycles / 2000

/-! Partitions, error counters, marks. -/

/-- The partition of a number. -/
def partOf (s : State) (p : Nat) : Option Partition := s.parts.find? fun q => q.cfg.part == p

/-- Update a partition. -/
def updPart (s : State) (p : Nat) (f : Partition → Partition) : State :=
  { s with parts := s.parts.map fun q => if q.cfg.part = p then f q else q }

/-- Add 1 to a counter of a partition's virtual function; it saturates (17 R336). -/
def bump (s : State) (p idx : Nat) : State :=
  updPart s p fun q => { q with counters := q.counters.setIfInBounds idx (min (2 ^ 32 - 1) (q.counters.getD idx 0 + 1)) }

/-- Add 1 to a host-level counter (17 R337). Index 0 discards of packets, 1 voltage dips, 2 errors in shared structures and those that
self-test and handovers find, 3 errors that patrol scrubbing finds, 4 errors of the Rurel links (DESIGN CHOICE, log 21). -/
def hostBump (s : State) (idx : Nat) : State :=
  { s with hostCnt := reassoc s.hostCnt idx ((assoc s.hostCnt idx).getD 0 + 1) }

/-- The partition physical address of a GDDR-7 byte: its place in its owner's ranges in ascending order (17 R330). -/
def physOf (s : State) (k : Nat) : Nat :=
  let r := k / Config.rangeBytes
  match s.parts.find? fun p => p.cfg.ranges.contains r with
  | some p => (p.cfg.ranges.filter (· < r)).length * Config.rangeBytes + k % Config.rangeBytes
  | none => k % Config.rangeBytes

/-- The L2 slice, as 48 * die + slice, that the line hash of the map gives a global line as home (11 R207, 20 R375). -/
def homeSlice (m : RMap) (die pa : Nat) : Nat :=
  48 * die + (m.homes.getD (4096 * die + Nat.xor (pa / 2 ^ 9 % 2 ^ 12) (pa / 2 ^ 21 % 2 ^ 12)) 0).toNat

/-- Whether the slice that is a byte's home is not live (11 R206): of a global line no entry of HOMES names one while its die has a live
slice (20 R375), the home of a stack bank is the slice of its number, a staging way is its own slice's. -/
def sliceLost (s : State) (k : Nat) : Bool :=
  if k < 2 ^ 40 then
    s.rmap.l2.extractLsb' (48 * keyDie k) 48 != BitVec.allOnes 48 && !s.rmap.l2.getLsbD (homeSlice s.rmap (keyDie k) (physOf s k))
  else if k < 2 ^ 41 then !s.rmap.l2.getLsbD ((k - 2 ^ 40) / Config.bankBytes)
  else if k < 2 ^ 42 then !s.rmap.l2.getLsbD ((k - 2 ^ 41) / (16 * Config.wayBytes))
  else false

/-- Whether a byte's home is a GDDR-7 channel, a stack bank or an L2 slice that is not live in the map, or a channel that has failed: what
was bound for it is lost (20 R383). (DEDUCED, log 50.) -/
def homeLost (s : State) (k : Nat) : Bool :=
  s.rmap.version != 0
    && (sliceLost s k
        || (if k < 2 ^ 40 then !s.rmap.channels.getLsbD (k / Config.rangeBytes) || s.failing.getLsbD (k / Config.rangeBytes)
            else decide (k < 2 ^ 41) && !s.rmap.banks.getLsbD ((k - 2 ^ 40) / Config.bankBytes)))

/-- The condition of the sector that holds a byte. -/
def markOf (s : State) (k : Nat) : Option Mark := if homeLost s k then some .uncorrectable else assoc s.marks (k / 64)

/-- Mark a sector. -/
def setMark (s : State) (k : Nat) (m : Mark) : State := { s with marks := reassoc s.marks (k / 64) m }

/-- Clear a sector's condition. -/
def clearMark (s : State) (k : Nat) : State := { s with marks := unassoc s.marks (k / 64) }

/-- The code a consumer takes from a condition (17 R334, R422). -/
def Mark.code (m : Mark) : Nat := match m with | .uncorrectable => 0x0601 | .cache => 0x0601 | .badTag => 0x0602 | .poison => 0x0603

/-- Whether a byte's sector carries an integrity tag: GDDR-7, tile versions of the GDDR-7 pool included (17 R333-R335). -/
def isTagged (s : State) (k : Nat) : Bool :=
  isGddr k || (2 ^ 44 ≤ k && s.versions.any fun v => v.id == (k - 2 ^ 44) / 2 ^ 22 && v.pool == 0)

/-- Count the detection of a condition in the partition that met it (17 R336), at host level where a home slice is what was lost (17
R337). -/
def countMark (s : State) (p k : Nat) (m : Mark) : State :=
  match m with
  | .badTag => bump s p 2
  | .poison => bump s p 3
  | .cache => bump s p 6
  | .uncorrectable =>
    if s.rmap.version ≠ 0 ∧ sliceLost s k = true then hostBump s 2 else if isTagged s k then bump s p 1 else if isScratch k then bump s p 6 else bump s p 7

/-- The counter of an error that the ECC of a byte's sector corrects (17 R336). -/
def softIdx (s : State) (k : Nat) : Nat := if isTagged s k then 0 else if isScratch k then 5 else 7

/-- A read at its home of the sector that holds a byte, by partition `p`, which delivers it: an error that the ECC corrects is counted
(17 R334, R336, R422). (DESIGN CHOICE, log 53.) -/
def noteSoft (s : State) (p k : Nat) : State :=
  if s.soft.contains (k / 64) then bump s p (softIdx s k) else s

/-- Sectors read at their homes. -/
def noteSofts (s : State) (p : Nat) (ks : List Nat) : State := if s.soft.isEmpty then s else ks.foldl (fun t k => noteSoft t p k) s

/-- A write at home of bytes of one sector by partition `p` (17 R335, R422): a whole sector clears its condition; a partial
write into an uncorrectable or mistagged sector leaves it poisoned, counted once in counter 4. What it writes has fresh ECC. What is
bound for a home that is lost leaves its sector poisoned (20 R383). -/
def homeWrite (s : State) (p k : Nat) (bs : List Byte) : State :=
  let t := { s with mem := cellsSet s.mem k bs, soft := s.soft.filter fun n => n != k / 64 }
  if bs.length = 64 ∧ k % 64 = 0 then if homeLost s k then setMark t k .poison else clearMark t k
  else
    match (if assoc s.marks (k / 64) = some .poison then some Mark.poison else markOf s k) with
    | some .uncorrectable => bump (setMark t k .poison) p 4
    | some .badTag => bump (setMark t k .poison) p 4
    | some .cache => t
    | some .poison => t
    | none => if s.soft.contains (k / 64) then bump t p (softIdx s k) else t

/-! Registers (03 R46, R47, R49). -/

/-- x[i]: x0 and an invalid register read zero. -/
def readX (r : Regs) (i : BitVec 6) : Word :=
  if i = 0 then 0 else if r.xv.getLsbD i.toNat then r.x.getD i.toNat 0 else 0

/-- Write x[i]; a write to x0 is discarded. -/
def writeX (r : Regs) (i : BitVec 6) (v : Word) : Regs :=
  if i = 0 then r else { r with x := r.x.setIfInBounds i.toNat v, xv := r.xv ||| (1#64 <<< i.toNat) }

/-- p[n]: p0 reads all ones, an invalid register reads no lanes. -/
def readP (r : Regs) (n : Nat) : PredWord :=
  if n = 0 then BitVec.allOnes 128 else if r.pv.getLsbD n then r.p.getD n 0 else 0

/-- Write p[n]; a write to p0 is discarded. It becomes valid, also where the word that writes it has no active element (DESIGN CHOICE,
log 69). -/
def writeP (r : Regs) (n : Nat) (v : PredWord) : Regs :=
  if n = 0 then r else { r with p := r.p.setIfInBounds n v, pv := r.pv ||| (1#24 <<< n) }

/-- Every lane of p[n] set to a truth value (08 R135). -/
def setLanes (r : Regs) (n : Nat) (b : Bool) : Regs := writeP r n (if b then BitVec.allOnes 128 else 0)

/-- t[n]. -/
def readT (r : Regs) (n : Nat) : Word := r.t.getD n 0

/-- Write t[n]. -/
def writeT (r : Regs) (n : Nat) (v : Word) : Regs := { r with t := r.t.setIfInBounds n v }

/-- v[n]; an invalid register reads zero. -/
def readV (r : Regs) (n : Nat) : VecWord := if r.vv.getLsbD n then r.v.getD n 0 else 0

/-- Write v[n]; it becomes valid, also where the word that writes it has no active element (DESIGN CHOICE, log 69). -/
def writeV (r : Regs) (n : Nat) (v : VecWord) : Regs :=
  { r with v := r.v.setIfInBounds n v, vv := r.vv ||| (1#64 <<< n) }

/-- a[n]. -/
def readA (r : Regs) (n : Nat) : Acc := r.acc.getD n .clear

/-- Write a[n]. -/
def writeA (r : Regs) (n : Nat) (a : Acc) : Regs := { r with acc := r.acc.setIfInBounds n a }

/-- Element (row, column) of an accumulator; an invalid one reads zeros (03 R50). -/
def accElem (a : Acc) (row col : Nat) : Nat := if a.valid then (a.elems.getD (64 * row + col) 0).toNat else 0

/-- s[n]. -/
def readS (r : Regs) (n : Nat) : Nat := (r.sem.getD n 0).toNat

/-- Write s[n]. -/
def writeS (r : Regs) (n : Nat) (v : Nat) : Regs := { r with sem := r.sem.setIfInBounds n (BitVec.ofNat 32 v) }

/-- A post other than SADD saturates at 2^32 - 1 (16 R315). -/
def postS (r : Regs) (n v : Nat) : Regs := writeS r n (min (2 ^ 32 - 1) (readS r n + v))

/-- h[n]. -/
def readH (r : Regs) (n : Nat) : HReg := r.h.getD n .empty

/-- Write h[n]. -/
def writeH (r : Regs) (n : Nat) (v : HReg) : Regs := { r with h := r.h.setIfInBounds n v }

/-- y[n], the head first. -/
def readY (r : Regs) (n : Nat) : List Word := r.y.getD n []

/-- Write y[n]. -/
def writeY (r : Regs) (n : Nat) (l : List Word) : Regs := { r with y := r.y.setIfInBounds n l }

/-- ck[n]. -/
def readCk (r : Regs) (n : Nat) : BitVec 32 := r.ck.getD n 0

/-- Write ck[n]. -/
def writeCk (r : Regs) (n : Nat) (v : BitVec 32) : Regs := { r with ck := r.ck.setIfInBounds n v }

/-- The moving core's registers updated. -/
def mapRegs (s : State) (f : Regs → Regs) : State := { s with me := { s.me with regs := f s.me.regs } }

/-- Read x of the moving core. -/
def xOf (s : State) (i : BitVec 6) : Word := readX s.me.regs i

/-- Write x of the moving core. -/
def setX (s : State) (i : BitVec 6) (v : Word) : State := mapRegs s fun r => writeX r i v

/-! Tile versions. -/

/-- The version of an id. -/
def verOf (s : State) (id : Nat) : Option Version := s.versions.find? fun v => v.id == id

/-- Update a version. -/
def updVer (s : State) (id : Nat) (f : Version → Version) : State :=
  { s with versions := s.versions.map fun v => if v.id = id then f v else v }

/-- Free the versions that are not current, no longer FILLING and seen by no one, and their storage (13 R258). -/
def freeVersions (s : State) : State :=
  let gone := s.versions.filter fun v => !v.cur && v.state != .filling && v.see == 0
  { s with
    versions := s.versions.filter fun v => v.cur || v.state == .filling || v.see != 0,
    mem := gone.foldl (fun m v => cellsClear m (versionKey v.id 0) (2 ^ v.k)) s.mem,
    marks := s.marks.filter fun p => !gone.any fun v => (versionKey v.id 0) / 64 ≤ p.1 && p.1 < (versionKey v.id (2 ^ v.k)) / 64,
    soft := s.soft.filter fun n => !gone.any fun v => (versionKey v.id 0) / 64 ≤ n && n < (versionKey v.id (2 ^ v.k)) / 64 }

/-- The launch of an id. -/
def launchOf (s : State) (id : Nat) : Option Launch := s.launches.find? fun l => l.id == id

/-- Update a launch. -/
def updLaunch (s : State) (id : Nat) (f : Launch → Launch) : State :=
  { s with launches := s.launches.map fun l => if l.id = id then f l else l }

/-- The crew of an id. -/
def crewOf (s : State) (id : Nat) : Option Crew := s.crews.find? fun c => c.id == id

/-- Update a crew. -/
def updCrew (s : State) (id : Nat) (f : Crew → Crew) : State :=
  { s with crews := s.crews.map fun c => if c.id = id then f c else c }

end Sys2Proof.Machine
end

