-- ==== Sys2Proof/Machine/Translate.lean ====
section
/-! DEFINITION. Address windows, translation, and the checks of an access in their order (08 R149, 11 R204, R205, 12 R228,
R230, 13 R268, R269, 17 R329-R331). -/

namespace Sys2Proof.Machine

/-- A list in ascending order. -/
def insertAsc (a : Nat) (l : List Nat) : List Nat :=
  match l with
  | [] => [a]
  | b :: rest => if a ≤ b then a :: b :: rest else b :: insertAsc a rest

/-- Sort ascending. -/
def sortAsc (l : List Nat) : List Nat := l.foldr insertAsc []

/-- A partition's banks on a die, ascending (11 R204). -/
def banksOn (p : Partition) (die : Nat) : List Nat := sortAsc (p.cfg.banks.filter fun b => b / 48 == die)

/-- A partition's staging ways in slice `sl` = 48 * die + slice, ascending. -/
def stagingOn (p : Partition) (sl : Nat) : List Nat := sortAsc ((p.cfg.staging.filter fun w => w.1 == sl).map Prod.snd)

/-- The module key of a partition physical address: an offset into its ranges in ascending order (17 R330). -/
def partKey (p : Partition) (pa : Nat) : Option Nat :=
  ((sortAsc p.cfg.ranges)[pa / Config.rangeBytes]?).map fun r => gddrKey r (pa % Config.rangeBytes)

/-- The partition of the moving core's task; without one, nothing is owned. -/
def noPart : Partition :=
  { cfg := { part := 16, clusters := 0, ways := [], staging := [], banks := [], ranges := [], entries0 := 0, entries1 := 0,
             bytes0 := [], bytes1 := [], ringBase := 0, ringSize := 0, preQueues := 0, class0 := 0, fpid := 0, weight := 1,
             ptroot := 0, hostVec := 0, brk := false },
    ctx := 0, ringNext := 0, vnum := 0, vden := 1, acked := 0, window := none, suspended := false, evicted := false, handler := none, notice := 0,
    handlerOn := none, counters := Vector.replicate 8 0, xtsKey := 0, tagKey := 0, key0 := none, key1 := none, newest := false, queues := [], pool := [],
    ring := [], arrivals := 0, seqs := [], jobs := [], ready := false, readyAt := 0, saveBase := 0, saveSlots := 0, stageTop := 0, globTop := 0, stackTop0 := 0, stackTop1 := 0 }

/-- The partition of the moving core's task. -/
def myPart (s : State) : Partition := (partOf s s.me.task.part).getD noPart

/-- Base of a window. -/
def window (n : Nat) : Nat := (0xF0 + n) * 2 ^ 56

/-- Where an address lies (11 R204). -/
inductive Place where
  | global (va : Nat)
  | near (key : Nat)
  | stack (key : Option Nat)
  | tile (off : Nat)
  | none
  deriving DecidableEq, Repr

/-- Whether core `g` runs a member of the moving core's crew (11 R205). -/
def isMate (s : State) (g : Nat) : Bool :=
  let c := coreOf s g
  c.run != .idle && c.task.launch == s.me.task.launch && c.task.crew == s.me.task.crew

/-- The core at a position of the moving core's cluster. -/
def mateAt (s : State) (pos : Nat) : Nat := 8 * coreCluster s.me.id + pos

/-- Decode a 64-bit address (11 R204, R205). -/
def placeOf (s : State) (a : Nat) : Place :=
  let off := a % 2 ^ 56
  if a < 2 ^ 52 then .global a
  else
    match a / 2 ^ 56 with
    | 0xF0 => if off < 2 ^ 20 then .near (scratchKey s.me.id off) else .none
    | 0xF1 =>
      if off < 2 ^ 23 ∧ isMate s (mateAt s (off / 2 ^ 20)) = true then
        .near (scratchKey (mateAt s (off / 2 ^ 20)) (off % 2 ^ 20))
      else .none
    | 0xF2 =>
      let sl := off / 2 ^ 22
      if sl < 128 ∧ sl % 64 < 48 then
        match (stagingOn (myPart s) (48 * (sl / 64) + sl % 64))[off % 2 ^ 22 / Config.wayBytes]? with
        | some w => .near (stagingKey (48 * (sl / 64) + sl % 64) w (off % Config.wayBytes))
        | none => .none
      else .none
    | 0xF3 =>
      if off / 2 ^ 32 < 2 then
        .stack (((banksOn (myPart s) (off / 2 ^ 32))[off % 2 ^ 32 / Config.bankBytes]?).map fun b =>
          stackKey b (off % Config.bankBytes))
      else .none
    | 0xF4 => if off < 2 ^ 52 then .tile off else .none
    | _ => .none

/-! Translation of global addresses (17 R329-R331). -/

/-- A table entry's field PA. -/
def entryPA (e : Nat) : Nat := e / 2 ^ 16 % 2 ^ 36 * 2 ^ 16

/-- One level of a walk: the entry at `pa`, 0x0202 where `pa` lies beyond the partition, 0x0201 where V is clear or a reserved
field is not zero. -/
def walkEntry (s : State) (p : Partition) (pa : Nat) : Except Nat Nat :=
  match partKey p pa with
  | none => .error 0x0202
  | some k =>
    let e := natOf (cellsGet s.mem k 8)
    if e % 2 = 0 ∨ e / 2 ^ 52 ≠ 0 ∨ e / 2 ^ 4 % 2 ^ 12 ≠ 0 then .error 0x0201 else .ok e

/-- The page that maps a global address: three levels, or two where a level-1 entry maps 512 MiB (17 R329, R330). -/
def walk (s : State) (p : Partition) (va : Nat) : Except Nat TlbEntry :=
  match walkEntry s p (p.cfg.ptroot + 8 * (va / 2 ^ 42)) with
  | .error c => .error c
  | .ok e0 =>
    if e0 / 8 % 2 = 1 then .error 0x0201
    else
      match walkEntry s p (entryPA e0 + 8 * (va / 2 ^ 29 % 2 ^ 13)) with
      | .error c => .error c
      | .ok e1 =>
        if e1 / 8 % 2 = 1 then
          if e1 / 2 ^ 16 % 2 ^ 13 ≠ 0 then .error 0x0201
          else .ok { part := p.cfg.part, va := va / 2 ^ 29 * 2 ^ 29, size := 2 ^ 29, pa := entryPA e1,
                     rd := e1 / 2 % 2 == 1, wr := e1 / 4 % 2 == 1 }
        else
          match walkEntry s p (entryPA e1 + 8 * (va / 2 ^ 16 % 2 ^ 13)) with
          | .error c => .error c
          | .ok e2 =>
            if e2 / 8 % 2 = 1 then .error 0x0201
            else .ok { part := p.cfg.part, va := va / 2 ^ 16 * 2 ^ 16, size := 2 ^ 16, pa := entryPA e2,
                       rd := e2 / 2 % 2 == 1, wr := e2 / 4 % 2 == 1 }

/-- The TLB entry of a partition that maps an address. -/
def tlbHit (s : State) (part va : Nat) : Option TlbEntry :=
  s.tlb.find? fun e => e.part == part && e.va ≤ va && va < e.va + e.size

/-- Translate a global address for partition `p`: a held entry serves, else a walk whose entry is kept (17 R331). The checks
are validity, ownership of the physical address, permission, in this order (17 R330). -/
def translate (s : State) (p : Partition) (va : Nat) (wr : Bool) : State × Except Nat Nat :=
  let r : State × Except Nat TlbEntry :=
    match tlbHit s p.cfg.part va with
    | some e => (s, .ok e)
    | none =>
      match walk s p va with
      | .error c => (s, .error c)
      | .ok e => ({ s with tlb := e :: s.tlb }, .ok e)
  match r with
  | (t, .error c) => (t, .error c)
  | (t, .ok e) =>
    match partKey p (e.pa + (va - e.va)) with
    | none => (t, .error 0x0202)
    | some k => if (if wr then e.wr else e.rd) then (t, .ok k) else (t, .error 0x0202)

/-! Checks of an access. -/

/-- Where an access that passed its checks finds its bytes: the module key, whether they are global (cached in L1), the tile
version reached through a handle, the home module of a version homed elsewhere, and whether the handle is a fill handle. -/
structure Acc1 where
  key    : Nat
  global : Bool
  ver    : Option Nat
  remote : Option Nat
  fill   : Bool := false
  deriving DecidableEq, Repr

/-- The outcome of the checks. -/
inductive Chk where
  | ok (a : Acc1)
  | bad (code addr : Nat)
  | park (ver home : Nat)
  deriving DecidableEq, Repr

/-- The window address of a byte of a handle's tile. -/
def tileAddr (h : Handle) (off : Nat) : Nat := window 4 + h.name + off

/-- Whether the moving core's task holds the fill of a version. -/
def holdsFill (s : State) (v : Version) : Bool := v.holder == .task s.me.task.launch s.me.task.serial

/-- The handles of a register file in ascending register number. -/
def heldHandles (r : Regs) : List Handle := r.h.toList.filterMap fun x => match x with | .held h _ => some h | _ => none

/-- How often a module has left the map (13 R275). -/
def eraOf (s : State) (m : Nat) : Nat := (assoc s.eras m).getD 0

/-- Whether a handle's version is lost with its home: the home has left the map since the handle came (13 R275). -/
def lostHandle (s : State) (h : Handle) : Bool := h.home != s.fabric && h.era != eraOf s h.home

/-- Whether the moving core's task holds, in a register, the fill handle of the version of a handle on another module. -/
def holdsFillOf (s : State) (h : Handle) : Bool :=
  (heldHandles s.me.regs).any fun k => k.fill && k.home == h.home && k.ver == h.ver && k.era == h.era

/-- A load through a handle by the state of its version (13 R268, R269, R275); of a version homed elsewhere the home knows the state. -/
def seeCheck (s : State) (h : Handle) (off : Nat) : Chk :=
  if h.home ≠ s.fabric then
    if lostHandle s h then .bad 0x0401 (tileAddr h off)
    else if h.fill = false ∧ holdsFillOf s h = true then .bad 0x0403 (tileAddr h off)
    else .ok { key := off, global := false, ver := some h.ver, remote := some h.home, fill := h.fill }
  else
    match verOf s h.ver with
    | none => .bad 0x0401 (tileAddr h off)
    | some v =>
      if h.fill then .ok { key := versionKey h.ver off, global := false, ver := some h.ver, remote := none, fill := true }
      else
        match v.state with
        | .abandoned => .bad 0x0401 (tileAddr h off)
        | .sealed => .ok { key := versionKey h.ver off, global := false, ver := some h.ver, remote := none }
        | .filling => if holdsFill s v then .bad 0x0403 (tileAddr h off) else .park h.ver h.home

/-- A store through a handle (13 R269). -/
def fillCheck (s : State) (h : Handle) (off : Nat) : Chk :=
  if h.fill = false then .bad 0x0402 (tileAddr h off)
  else if h.home ≠ s.fabric then
    if lostHandle s h then .bad 0x0401 (tileAddr h off)
    else .ok { key := off, global := false, ver := some h.ver, remote := some h.home, fill := true }
  else .ok { key := versionKey h.ver off, global := false, ver := some h.ver, remote := none, fill := true }

/-- The checks of a C-path access through a handle base, in the order of 08 R149. -/
def checkHandle (s : State) (n : Nat) (disp : Int) (size : Nat) (wr : Bool) : State × Chk :=
  match readH s.me.regs n with
  | .held h _ =>
    if disp < 0 ∨ (2 ^ h.k : Nat) ≤ disp then (s, .bad 0x0204 ((window 4 + h.name + disp) % 2 ^ 64).toNat)
    else if disp.toNat % size ≠ 0 then (s, .bad 0x0203 (tileAddr h disp.toNat))
    else (s, if wr then fillCheck s h disp.toNat else seeCheck s h disp.toNat)
  | _ => (s, .bad 0x0404 0)

/-- The checks of a C-path access at a generic address, in the order of 08 R149. `amo` adds 12 R251: scratch and crew
addresses raise 0x0202. -/
def checkAddr (s : State) (a size : Nat) (wr amo : Bool) : State × Chk :=
  match placeOf s a with
  | .none => (s, .bad 0x0204 a)
  | .tile _ => (s, .bad 0x0204 a)
  | .near k =>
    if a % size ≠ 0 then (s, .bad 0x0203 a)
    else if amo && isScratch k then (s, .bad 0x0202 a)
    else (s, .ok { key := k, global := false, ver := none, remote := none })
  | .stack k =>
    if a % size ≠ 0 then (s, .bad 0x0203 a)
    else
      match k with
      | none => (s, .bad 0x0204 a)
      | some k => (s, .ok { key := k, global := false, ver := none, remote := none })
  | .global va =>
    if a % size ≠ 0 then (s, .bad 0x0203 a)
    else
      match translate s (myPart s) va wr with
      | (t, .error c) => (t, .bad c a)
      | (t, .ok k) => (t, .ok { key := k, global := true, ver := none, remote := none })

/-- base + displacement modulo 2^64. -/
def addDisp (base : Word) (disp : Int) : Nat := (((base.toNat : Int) + disp) % 2 ^ 64).toNat

/-- The checks of a C-path access with HB and a base field (08 R148, R149). -/
def checkC (s : State) (hb : BitVec 1) (a : BitVec 6) (disp : Int) (size : Nat) (wr amo : Bool) : State × Chk :=
  if hb = 1 then checkHandle s a.toNat disp size wr
  else checkAddr s (addDisp (xOf s a) disp) size wr amo

/-! Stream accesses. -/

/-- The handles that cover an offset of the tile window, in their order (12 R230). -/
def coveringHandles (hands : List Handle) (off : Nat) : List Handle := hands.filter fun h => h.name ≤ off && off < h.name + 2 ^ h.k

/-- The checks of a stream access to one run of bytes within a 64-byte sector, through the handles given (12 R228, R230). -/
def checkVia (s : State) (hands : List Handle) (a : Nat) (wr : Bool) : State × Chk :=
  match placeOf s a with
  | .tile off =>
    let hs := coveringHandles hands off
    if wr then
      match hs.find? fun h => h.fill with
      | some h => (s, fillCheck s h (off - h.name))
      | none => (s, .bad (if hs.isEmpty then 0x0204 else 0x0402) a)
    else
      match (hs.find? fun h => !h.fill) with
      | some h => (s, seeCheck s h (off - h.name))
      | none =>
        match hs.find? fun h => h.fill with
        | some h => (s, seeCheck s h (off - h.name))
        | none => (s, .bad 0x0204 a)
  | .none => (s, .bad 0x0204 a)
  | .near k => (s, .ok { key := k, global := false, ver := none, remote := none })
  | .stack none => (s, .bad 0x0204 a)
  | .stack (some k) => (s, .ok { key := k, global := false, ver := none, remote := none })
  | .global va =>
    match translate s (myPart s) va wr with
    | (t, .error c) => (t, .bad c a)
    | (t, .ok k) => (t, .ok { key := k, global := true, ver := none, remote := none })

/-- The checks through the handles that the task's registers hold. -/
def checkS (s : State) (a : Nat) (wr : Bool) : State × Chk := checkVia s (heldHandles s.me.regs) a wr

/-- The runs of [a, a + n) within 64-byte sectors, as address and length; addresses are taken modulo 2^64. -/
def runsOf (fuel a n : Nat) : List (Nat × Nat) :=
  match fuel with
  | 0 => []
  | f + 1 =>
    if n = 0 then []
    else
      let len := min n (64 - a % 64)
      (a % 2 ^ 64, len) :: runsOf f (a + len) (n - len)

/-- The runs of a byte range. -/
def runs (a n : Nat) : List (Nat × Nat) := runsOf (n / 64 + 2) a n

/-- The outcome of checking a list of runs. -/
inductive Chks where
  | ok (l : List (Nat × Nat × Acc1))
  | bad (code addr : Nat)
  | park (ver home : Nat)
  deriving DecidableEq, Repr

/-- Runs checked in order through the handles given up to the first that does not pass (12 R228): those before it, and what stops it. -/
def checkPrefix (s : State) (hands : List Handle) (rs : List (Nat × Nat)) (wr : Bool) : State × List (Nat × Nat × Acc1) × Option Chk :=
  match rs with
  | [] => (s, [], none)
  | (a, n) :: rest =>
    match checkVia s hands a wr with
    | (t, .ok acc) => let r := checkPrefix t hands rest wr; (r.1, (a, n, acc) :: r.2.1, r.2.2)
    | (t, c) => (t, [], some c)

/-- Check runs in order through the handles given; the first failing address decides (12 R228). -/
def checkRunsVia (s : State) (hands : List Handle) (rs : List (Nat × Nat)) (wr : Bool) : State × Chks :=
  match checkPrefix s hands rs wr with
  | (t, _, some (.bad c d)) => (t, .bad c d)
  | (t, _, some (.park v h)) => (t, .park v h)
  | (t, l, _) => (t, .ok l)

/-- Check runs through the handles that the task's registers hold. -/
def checkRuns (s : State) (rs : List (Nat × Nat)) (wr : Bool) : State × Chks := checkRunsVia s (heldHandles s.me.regs) rs wr

end Sys2Proof.Machine
end

