-- ==== Sys2Proof/Machine/Paths.lean ====
section
/-! DEFINITION. The abstract memory machine (11 R210-R226): the L1 and remote views, the load and store queues of both paths,
and the steps Perform, Depart, WriteBack, Fill, Drop, RVFill, RVDrop and Atomic, of the moving core; releases and acquires;
barrier credit; packets and events sent. -/

namespace Sys2Proof.Machine

/-! Packets and events (21 R388-R391). -/

/-- Type numbers of 21 R389. -/
def typeOf (b : PacketBody) : Nat :=
  match b with
  | .readRequest _ _ _ _ => 0x01
  | .readResponse _ _ => 0x02
  | .write _ _ _ => 0x03
  | .atomic _ _ _ _ _ _ _ => 0x04
  | .copySector _ _ _ _ _ _ => 0x05
  | .reduceSector _ _ _ _ _ _ _ _ => 0x06
  | .handle _ _ => 0x07
  | .launch _ _ => 0x08
  | .hostCommand _ _ => 0x09
  | .event _ => 0x0A
  | .gradient _ _ _ _ => 0x0B
  | .publication _ _ _ _ _ _ _ => 0x0C
  | .mapNotice _ => 0x0D
  | .ack _ _ _ _ => 0x0E
  | .gradAck _ _ _ _ _ _ => 0x0E
  | .seal _ _ => 0x0F
  | .seeDelta _ _ => 0x0F
  | .fillAt _ => 0x0F

/-- An event to the vector of the launch that caused it, or to the partition's host vector once that launch has completed or
where none caused it (21 R391). -/
def postEvent (s : State) (code part launch first lsn : Nat) : State :=
  let vec := match launchOf s launch with
    | some l => if l.done then ((partOf s part).map fun p => p.cfg.hostVec).getD 0 else l.record.evvec
    | none => ((partOf s part).map fun p => p.cfg.hostVec).getD 0
  { s with events := s.events ++ [{ code := code, vec := vec, part := part, launch := launch % 2 ^ 64, killed := 0, cancelled := 0,
                                    first := first, lsn := lsn, unit := none, time := s.time }] }

/-- The fabric key that a partition's epoch bit selects (17 R338). -/
def slotKey (p : Partition) (epoch : Bool) : Option (BitVec 256) := if epoch then p.key1 else p.key0

/-- The epoch under which a partition sends: the slot last installed while it holds a key, else the other (17 R338). (DESIGN CHOICE, log 71.) -/
def sendEpoch (p : Partition) : Bool := if (slotKey p p.newest).isSome then p.newest else !p.newest

/-- A packet of a partition as it leaves a die of this module now, with its key tag (17 R338). -/
def packetFrom (s : State) (die part dst dstDie xid : Nat) (b : PacketBody) : Packet :=
  let p := (partOf s part).getD noPart
  let k := slotKey p (sendEpoch p)
  { ptype := typeOf b, reserved := false, epoch := sendEpoch p, fpid := p.cfg.fpid, key := k.getD 0, tagOk := k.isSome, src := s.fabric,
    srcDie := die, dst := dst, dstDie := dstDie, xid := xid, stamp := s.time, body := b }

/-- A packet that the moving core's task sends. -/
def mkPacket (s : State) (part dst dstDie xid : Nat) (b : PacketBody) : Packet := packetFrom s (coreDie s.me.id) part dst dstDie xid b

/-- A packet of a partition goes out; to a module absent from the map nothing is sent and event 0x0802 is raised (21 R390). -/
def putPacket (s : State) (part launch : Nat) (p : Packet) : State :=
  if s.rmap.gone.contains p.dst then postEvent s 0x0802 part launch 0 p.xid
  else if p.dst = s.fabric then { s with inbox := s.inbox ++ [p] }
  else { s with outbox := s.outbox ++ [p] }

/-- Send a packet of a partition from a die of this module to a module. -/
def sendFrom (s : State) (die part launch dst dstDie xid : Nat) (b : PacketBody) : State :=
  putPacket s part launch (packetFrom s die part dst dstDie xid b)

/-- Send a packet of the moving core's task to a module. -/
def sendPacket (s : State) (part launch dst dstDie xid : Nat) (b : PacketBody) : State :=
  putPacket s part launch (mkPacket s part dst dstDie xid b)

/-- Draw a transfer ID: the module's number and its command counter (12 R244). -/
def drawXid (s : State) : State × Nat :=
  ({ s with cmdCount := s.cmdCount + 1 }, s.fabric * 2 ^ 52 + (s.cmdCount + 1) % 2 ^ 52)

/-- Draw the number by which an answer or an acknowledgement that is not a transfer's is told from others (DESIGN CHOICE, log 7). -/
def drawAsk (s : State) : State × Nat := ({ s with askCount := s.askCount + 1 }, 2 ^ 64 + s.askCount + 1)

/-- The record of a command or store whose acknowledgements are awaited. -/
def awaitAck (s : State) (path : Path) (xid dst : Nat) (vers : List Nat) (ck : Option (BitVec 2)) (ckm : BitVec 2) (posts : List Nat)
    (total : Nat) : State :=
  { s with outs := s.outs ++ [{ xid := xid, dst := dst, launch := s.me.task.launch, serial := s.me.task.serial,
                                part := s.me.task.part, path := path, vers := vers, ck := ck, ckm := ckm, posts := posts, own := [], acks := [],
                                total := total, since := s.time, sends := [] }] }

/-- Keep the copy of a packet just sent for its resends (21 R392). -/
def keepCopy (s : State) (xid : Nat) (p : Packet) : State :=
  { s with outs := s.outs.map fun o => if o.xid = xid ∧ o.dst = p.dst then { o with sends := o.sends ++ [p] } else o }

/-- The transfer of the moving core's task that left last by a path for a module and awaits it, with the number of its sectors: what follows
by that path is applied after it (13 R274). -/
def sentBefore (s : State) (path : Path) (xid dst : Nat) : Option (Nat × Nat) :=
  ((s.outs.filter fun o => o.launch == s.me.task.launch && o.serial == s.me.task.serial && o.path == path && o.dst == dst
    && o.xid != xid && !o.sends.isEmpty).getLast?).map fun o => (o.xid, o.total)

/-- A message to another module that is sent until it is acknowledged. -/
def sendSure (s : State) (part launch dst : Nat) (vers : List Nat) (b : PacketBody) : State :=
  let d := drawAsk s
  let t := sendPacket d.1 part launch dst 0 d.2 b
  if s.rmap.gone.contains dst then t
  else
    { t with outs := t.outs ++ [{ xid := d.2, dst := dst, launch := launch, serial := s.me.task.serial, part := part, path := .c,
                                  vers := vers, ck := none, ckm := 0, posts := [], own := [], acks := [], total := 1, since := s.time,
                                  sends := [mkPacket s part dst 0 d.2 b] }] }

/-- Whether a module has still to acknowledge what the moving core's task wrote to a version there (13 R274). -/
def unackedTo (s : State) (home ver : Nat) : Bool :=
  s.outs.any fun o => o.launch == s.me.task.launch && o.serial == s.me.task.serial && o.dst == home && o.vers.contains ver

/-! Barriers (16 R319-R322). -/

/-- The phase completes once every member has arrived and no expected byte is missing (16 R320). -/
def settle (members : Nat) (b : Barrier) : Barrier :=
  if b.arr.length = members ∧ members ≠ 0 ∧ b.out = 0 then { b with phase := b.phase + 1, arr := [], out := 0 } else b

/-- A crew with every barrier settled. -/
def settleCrew (c : Crew) : Crew := { c with bars := c.bars.map (settle c.members.length) }

/-- Give `n` arrived bytes to the barriers in ascending number, each up to its OUT (16 R321). -/
def creditBars (l : List Barrier) (n : Nat) : List Barrier × Nat :=
  match l with
  | [] => ([], n)
  | b :: rest =>
    let d := min b.out n
    let r := creditBars rest (n - d)
    ({ b with out := b.out - d } :: r.1, r.2)

/-- A vector of sixteen barriers from a list. -/
def barsOf (l : List Barrier) : Vector Barrier 16 := Vector.ofFn fun i => l.getD i.val .start

/-- Credit bytes that a CPYMC wrote; what no barrier expects goes to CP (16 R321). -/
def creditCrew (c : Crew) (n : Nat) : Crew :=
  let r := creditBars c.bars.toList n
  settleCrew { c with bars := barsOf r.1, cp := min (2 ^ 48 - 1) (c.cp + r.2) }

/-! The remote view (11 R209). -/

/-- A sector of a die's remote view. -/
def rvGet (s : State) (die sec : Nat) : Option (BitVec 512) :=
  (s.rv.find? fun e => e.1.1 == die && e.1.2 == sec).map Prod.snd

/-- Without a sector. -/
def rvDrop (s : State) (die sec : Nat) : State :=
  { s with rv := s.rv.filter fun e => !(e.1.1 == die && e.1.2 == sec) }

/-- The first `n` entries of a kind, with every entry of another kind. -/
def keepFirst {α : Type} (n : Nat) (mine : α → Bool) (l : List α) : List α :=
  match l with
  | [] => []
  | e :: rest =>
    if mine e then (match n with | 0 => keepFirst 0 mine rest | m + 1 => e :: keepFirst m mine rest) else e :: keepFirst n mine rest

/-- Sectors that a die's remote view holds: 4 MiB for each of its remote-data cache slices that the map holds live, all eight before there is a
map (01 R10, 02 R23). -/
def rvCap (s : State) (die : Nat) : Nat :=
  65536 * (if s.rmap.version = 0 then 8 else ((List.range 8).filter fun n => s.rmap.rdc.getLsbD (8 * die + n)).length)

/-- Both dies' views hold no more sectors than their live slices have places for; those copied longest ago leave (01 R22; DESIGN CHOICE,
log 59). -/
def rvTrim (s : State) : State :=
  { s with rv := keepFirst (rvCap s 1) (fun e => e.1.1 == 1) (keepFirst (rvCap s 0) (fun e => e.1.1 == 0) s.rv) }

/-- A sector copied from its home; where the view is full the sector copied longest ago leaves (DESIGN CHOICE, log 59). -/
def rvFill (s : State) (die sec : Nat) : State :=
  { rvDrop s die sec with
    rv := keepFirst (rvCap s die) (fun e => e.1.1 == die)
      (((die, sec), BitVec.ofNat 512 (natOf (cellsGet s.mem (64 * sec) 64))) :: (rvDrop s die sec).rv) }

/-- The die's remote view updates its copy of written bytes, if present (11 R212, WriteThrough). -/
def rvUpdate (s : State) (die k : Nat) (bs : List Byte) : State :=
  { s with rv := s.rv.map fun e =>
      if e.1.1 = die ∧ e.1.2 = k / 64 then
        (e.1, BitVec.ofNat 512 (natOf (cellsGet (cellsSet ((bytesOf 64 e.2.toNat).mapIdx fun i b => (i, b)) (k % 64) bs) 0 64)))
      else e }

/-- Write where the bytes are performed (11 R212, WriteThrough). -/
def writeThrough (s : State) (p die k : Nat) (bs : List Byte) (global : Bool) : State :=
  let t := if global && keyDie k != die then rvUpdate s die k bs else s
  homeWrite t p k bs

/-- A global byte as die `die` sees it: at its home, or in the remote view once the sector is there. -/
def byteSeen (s : State) (die k : Nat) : Byte :=
  if keyDie k = die then cellGet s.mem k
  else match rvGet s die (k / 64) with
    | some v => BitVec.ofNat 8 (v.toNat / 2 ^ (8 * (k % 64)))
    | none => cellGet s.mem k

/-- Take an RVFill of a sector homed on another die if the remote view lacks it. -/
def rvEnsure (s : State) (die k : Nat) : State :=
  if keyDie k = die then s else match rvGet s die (k / 64) with | some _ => s | none => rvFill s die (k / 64)

/-- Whether reading a byte of a sector goes to its home, where its condition is met (17 R334). -/
def readsHome (s : State) (die k : Nat) (global : Bool) : Bool :=
  !global || keyDie k == die || (rvGet s die (k / 64)).isNone

/-! The frontier (02 R40). -/

/-- The next-LSN of a slice; one with nothing left has 2^64 - 1 (02 R40). -/
def nextLsn (f : Flow) : Nat := if f.ended then 2 ^ 64 - 1 else f.lsn

/-- The oldest load or atomic of the C path that has issued, not acted and not passed its fault point, as LSN and PC (02 R40, 08 R151). -/
def pendingC (c : Core) : Option (Nat × Word) :=
  ((c.lqC.filter fun e => e.mark.isNone && !e.clear).map (fun e => (e.lsn, e.pc)) ++ (c.sqC.filter fun e => e.atomic.isSome).map fun e => (e.lsn, e.pc)).foldl
    (fun best e => match best with | none => some e | some b => if e.1 < b.1 then some e else some b) none

/-- The frontier: the smallest next-LSN of the core's slices, each the oldest of its instructions that may still raise (02 R40). -/
def frontier (c : Core) : Nat :=
  (c.parked.map fun p => nextLsn p.2).foldl min (min (nextLsn c.flow) ((pendingC c).elim (2 ^ 64 - 1) Prod.fst))

/-! L1 of the moving core (11 R208). -/

/-- A byte of L1. -/
def l1Get (s : State) (k : Nat) : Option L1Byte := assoc s.me.l1 k

/-- The moving core's L1 replaced. -/
def setL1 (s : State) (l : List (Nat × L1Byte)) : State := { s with me := { s.me with l1 := l } }

/-- Whether L1 holds one of some bytes with a finding of its ECC. -/
def l1Weak (s : State) (ks : List Nat) (e : SoftError) : Bool := ks.any fun k => (l1Get s k).any fun b => b.err == e

/-- Bytes read from L1 by the partition: an error that the ECC corrects is counted (17 R336). -/
def noteL1 (s : State) (ks : List Nat) : State := if l1Weak s ks .corrected then bump s s.me.task.part 5 else s

/-- Bytes of a sector written back from L1 that it could not read leave the sector poisoned (17 R336; DESIGN CHOICE, log 53). -/
def loseL1 (s : State) (sec : Nat) (ks : List Nat) : State :=
  if l1Weak s ks .uncorrectable then setMark (bump s s.me.task.part 6) (64 * sec) .poison else noteL1 s ks

/-- Write back the dirty bytes of the chosen words of a sector, which become clean (11 R212, WriteBack). -/
def writeBackWords (s : State) (sec : Nat) (words : BitVec 16) : State :=
  let p := s.me.task.part
  let die := coreDie s.me.id
  let dirty := (List.range 64).filterMap fun i =>
    match l1Get s (64 * sec + i) with
    | some b => if b.dirty ∧ words.getLsbD (i / 4) = true then some (64 * sec + i, b.val) else none
    | none => none
  let t :=
    if dirty.length = 64 then writeThrough s p die (64 * sec) (dirty.map Prod.snd) true
    else dirty.foldl (fun u e => writeThrough u p die e.1 [e.2] true) s
  let t := if dirty.isEmpty then t else loseL1 t sec (dirty.map Prod.fst)
  setL1 t (t.me.l1.map fun e =>
    if e.1 / 64 = sec ∧ words.getLsbD (e.1 % 64 / 4) = true then (e.1, { e.2 with dirty := false }) else e)

/-- Sectors that an L1 holds (01 R10). -/
def l1Cap : Nat := 1024

/-- The sectors of L1 with a valid byte. -/
def l1Sectors (s : State) : List Nat := (s.me.l1.map fun e => e.1 / 64).eraseDups

/-- Room in L1 for a sector: where it is full the sector whose bytes came longest ago is written back and leaves (DESIGN CHOICE, log 59). -/
def l1Room (s : State) (sec : Nat) : State :=
  if s.me.l1.length < l1Cap ∨ (s.me.l1.any fun e => e.1 / 64 == sec) = true ∨ (l1Sectors s).length < l1Cap then s
  else
    match s.me.l1.getLast? with
    | some e =>
      let t := writeBackWords s (e.1 / 64) (BitVec.allOnes 16)
      setL1 t (t.me.l1.filter fun b => b.1 / 64 != e.1 / 64)
    | none => s

/-- Fill: the invalid bytes of a sector become clean copies (11 R212). -/
def fillSector (s : State) (sec : Nat) : State :=
  let t := if readsHome s (coreDie s.me.id) (64 * sec) true then noteSoft s s.me.task.part (64 * sec) else s
  let t := l1Room (rvEnsure t (coreDie s.me.id) (64 * sec)) sec
  setL1 t ((List.range 64).foldl
    (fun l i => match assoc l (64 * sec + i) with
      | some _ => l
      | none => (64 * sec + i, { val := byteSeen t (coreDie s.me.id) (64 * sec + i), dirty := false, since := 0 }) :: l) t.me.l1)

/-- Store bytes into L1 as dirty (11 R212, Depart); bytes dirty already stay so since when they became it. -/
def l1Store (s : State) (k : Nat) (bs : List Byte) : State :=
  let t := l1Room s (k / 64)
  setL1 t ((bs.mapIdx fun i b => (k + i, b)).foldl (fun l e =>
    reassoc l e.1 { val := e.2, dirty := true, since := match assoc l e.1 with
      | some b => if b.dirty then b.since else s.cycles
      | none => s.cycles }) t.me.l1)

/-- The sectors with a dirty byte. -/
def dirtySectors (s : State) : List Nat := ((s.me.l1.filter fun e => e.2.dirty).map fun e => e.1 / 64).eraseDups

/-- The sectors with a byte that has been dirty for 65,536 uncore cycles (11 R214, 01 R17). -/
def overdueSectors (s : State) : List Nat :=
  ((s.me.l1.filter fun e => e.2.dirty && e.2.since + 2000 * 65536 ≤ s.cycles).map fun e => e.1 / 64).eraseDups

/-- Those sectors are written back. -/
def writeOverdue (s : State) : State := (overdueSectors s).foldl (fun t sec => writeBackWords t sec (BitVec.allOnes 16)) s

/-- Write back every dirty byte. -/
def writeBackAll (s : State) : State := (dirtySectors s).foldl (fun t sec => writeBackWords t sec (BitVec.allOnes 16)) s

/-- Drop: every byte of a sector becomes invalid (11 R212); enabled only while no byte of it is dirty. -/
def dropSector (s : State) (sec : Nat) : State :=
  if s.me.l1.any fun e => e.1 / 64 == sec && e.2.dirty then s else setL1 s (s.me.l1.filter fun e => e.1 / 64 != sec)

/-- Every clean byte becomes invalid. -/
def dropClean (s : State) : State := setL1 s (s.me.l1.filter fun e => e.2.dirty)

/-- Write back and invalidate one sector's bytes, as an atomic does (11 R219). -/
def flushSector (s : State) (k : Nat) : State :=
  let t := writeBackWords s (k / 64) (BitVec.allOnes 16)
  setL1 t (t.me.l1.filter fun e => e.1 / 64 != k / 64)

/-- The Invalidate of a scope (11 R215): 0 core, 1 crew, 2 sector, 3 die, 4 module, 5 group, 6 fabric. -/
def invalidate (s : State) (scope : Nat) : State :=
  if scope = 0 then s
  else
    let t := dropClean s
    if scope < 4 then t
    else
      { t with rv := t.rv.filter fun e => !(e.1.1 == coreDie s.me.id && (5 ≤ scope || keyDie (64 * e.1.2) ≤ 1)) }

/-- The WriteBack of a release's scope (11 R215). -/
def releaseScope (s : State) (scope : Nat) : State := if scope = 0 then s else writeBackAll s

/-! The C path. -/

/-- The youngest entry of SQ(C) older than `lsn` that covers a byte. -/
def coverC (s : State) (lsn k : Nat) : Option SqEntry :=
  (s.me.sqC.reverse.find? fun e => e.lsn < lsn && e.mark.isNone && e.remote.isNone && e.key ≤ k
    && k < e.key + (match e.atomic with | some a => if a.wide then 8 else 4 | none => e.bytes.length))

/-- A byte forwarded from SQ(C) (08 R150). -/
def forwardC (s : State) (lsn k : Nat) : Option Byte :=
  match coverC s lsn k with
  | some e => if e.atomic.isSome then none else e.bytes[k - e.key]?
  | none => none

/-- The value of a load's bytes, sign- or zero-extended (08 R148). -/
def extendLoad (signed : Bool) (bs : List Byte) : Word :=
  if signed then BitVec.ofInt 64 (signedOf (8 * bs.length) (natOf bs)) else BitVec.ofNat 64 (natOf bs)

/-- Whether a load of `n` bytes at `k` meets a condition, and which: that of its sector where it reads the home, else an uncorrectable error
of a byte it takes from L1 (08 R151, 17 R334, R336). -/
def loadMark (s : State) (lsn k n : Nat) (global : Bool) : Option Mark :=
  let need := ((List.range n).map (k + ·)).filter fun b => (forwardC s lsn b).isNone
  let home := if global then need.any (fun b => (l1Get s b).isNone) && readsHome s (coreDie s.me.id) k true else !need.isEmpty
  match if home then markOf s k else none with
  | some m => some m
  | none => if global && l1Weak s need .uncorrectable then some .cache else none

/-- The bytes a load takes: from SQ(C) where forwarded, else L1 after a Fill for global bytes, else where they are performed
(11 R212). -/
def loadBytes (s : State) (lsn k n : Nat) (global : Bool) : State × List Byte :=
  let ks := (List.range n).map (k + ·)
  let need := ks.filter fun b => (forwardC s lsn b).isNone
  if global then
    let t := noteL1 (if need.any fun b => (l1Get s b).isNone then fillSector s (k / 64) else s) need
    (t, ks.map fun b => match forwardC s lsn b with
      | some v => v
      | none => match l1Get t b with | some e => e.val | none => emptyByte)
  else (if need.isEmpty then s else noteSoft s s.me.task.part k,
    ks.map fun b => match forwardC s lsn b with | some v => v | none => cellGet s.mem b)

/-- Bytes of an entry of SQ(C). -/
def sqLen (e : SqEntry) : Nat := match e.atomic with | some a => if a.wide then 8 else 4 | none => e.bytes.length

/-- Whether an older atomic that covers bytes of [k, k + n) waits in SQ(C) (08 R150). -/
def heldByAtomic (s : State) (lsn k n : Nat) : Bool :=
  s.me.sqC.any fun q => q.lsn < lsn && q.atomic.isSome && q.key < k + n && k < q.key + sqLen q

/-- Whether nothing stands in the way of LQ(C)'s head: a marker that waits for the older entries of SQ(C), or an older atomic that covers any
of a load's bytes (08 R150, 11 R213, R216). -/
def lqReady (s : State) (e : LqEntry) : Bool :=
  match e.mark with
  | some (_, sq) => !sq || !s.me.sqC.any fun q => q.lsn ≤ e.lsn
  | none => !heldByAtomic s e.lsn e.key e.bytes

/-- The condition that an issued load meets at its sector's home (08 R151). -/
def lqMark (s : State) (e : LqEntry) : Option Mark := if e.mark.isSome then none else loadMark s e.lsn e.key e.bytes e.global

/-- The entry that an issued load's word left in the log takes the register's value; there is none once the frontier has passed it (02 R42). -/
def fillEntry (l : List Rewind) (lsn : Nat) (u : Undo) : List Rewind :=
  match l with
  | [] => []
  | e :: rest => if e.eng = .c ∧ e.lsn = lsn ∧ e.undo = .same then { e with undo := u } :: rest else e :: fillEntry rest lsn u

/-- The log entry of a load's register, at the load's own LSN (02 R42). -/
def logLoad (s : State) (e : LqEntry) : State :=
  let i := e.xd.toNat
  { s with me := { s.me with rewind := fillEntry s.me.rewind e.lsn (.x i (s.me.regs.x.getD i 0) (s.me.regs.xv.getLsbD i)) } }

/-- Whether the frontier has left a load behind that had passed its fault point: it can raise no more (02 R40). -/
def pastFault (s : State) (e : LqEntry) : Bool := e.clear && decide (e.lsn < frontier s.me)

/-- Perform the head of LQ(C): a load writes its register, a marker takes its Invalidate (11 R212, R216). A load whose sector has a
condition does not perform: it raises (08 R151); one that can raise no more takes a free value (DESIGN CHOICE, log 2). -/
def performHead (s : State) : State :=
  match s.me.lqC with
  | [] => s
  | e :: rest =>
    let t := { s with me := { s.me with lqC := rest } }
    match e.mark with
    | some (scope, _) => invalidate t scope.toNat
    | none =>
      if (lqMark s e).isSome then
        if pastFault s e then setX { logLoad t e with freeCount := s.freeCount + 1 } e.xd
            (extendLoad e.signed (bytesOf e.bytes (Config.lostLoad s.freeCount).toNat)) else s
      else
        let r := loadBytes t e.lsn e.key e.bytes e.global
        setX (logLoad r.1 e) e.xd (extendLoad e.signed r.2)

/-- The new value of an AMO (12 R250): 0 add, 1 and, 2 or, 3 xor, 4 min, 5 max, 6 minu, 7 maxu, 8 swap, on `w` bits. -/
def amoNew (op w old b : Nat) : Nat :=
  match op with
  | 0 => (old + b) % 2 ^ w
  | 1 => Nat.land old b
  | 2 => Nat.lor old b
  | 3 => Nat.xor old b
  | 4 => if signedOf w old ≤ signedOf w b then old else b
  | 5 => if signedOf w old ≤ signedOf w b then b else old
  | 6 => min old b
  | 7 => max old b
  | _ => b

/-- What an atomic writes, if anything: an unequal CAS writes nothing (12 R250). -/
def atomicNew (a : AtomicOp) (old : Nat) : Option Nat :=
  let w := if a.wide then 64 else 32
  let b := a.b.toNat % 2 ^ w
  if a.cas then if old = b then some (a.c.toNat % 2 ^ w) else none else some (amoNew a.op.toNat w old b)

/-- The condition that an atomic meets at its home, L1's bytes of its sector having been written back (08 R151, 17 R334, R336). -/
def atomicMark (s : State) (k : Nat) : Option Mark := markOf (flushSector s k) k

/-- The Atomic step (11 R219): flush the sector from L1, act at the home, drop the sector of a remote home from the remote
view. What its order adds stands beside it in the queues. -/
def atomicStep (s : State) (e : SqEntry) (a : AtomicOp) : State :=
  let n := if a.wide then 8 else 4
  let t := flushSector s e.key
  let old := natOf (cellsGet t.mem e.key n)
  let t := match atomicNew a old with
    | some v => homeWrite t s.me.task.part e.key (bytesOf n v)
    | none => noteSoft t s.me.task.part e.key
  let t := if e.global ∧ keyDie e.key ≠ coreDie s.me.id then rvDrop t (coreDie s.me.id) (e.key / 64) else t
  setX t a.xd (BitVec.ofNat 64 old)

/-- A word's or an entry's gated act at an LSN is done (02 R41): no rebuild may leave it undone. -/
def actAt (s : State) (lsn : Nat) : State := { s with me := { s.me with gate := max s.me.gate (lsn + 1) } }

/-- Whether the head of SQ(C) may act: no marker holds it and no older load of its bytes is unperformed; a marker waits for every older
entry of LQ(C) (11 R213, R216). -/
def sqReady (s : State) (e : SqEntry) : Bool :=
  match e.mark with
  | some _ => !s.me.lqC.any fun l => l.lsn < e.lsn
  | none => !s.me.lqC.any fun l => l.lsn < e.lsn && (l.mark.isSome || (l.key < e.key + sqLen e && e.key < l.key + l.bytes))

/-- The head of SQ(C) departs (11 R212): a plain store into L1 (global) or where it is performed, an atomic by its step, a
marker by its release. An atomic whose sector has a condition once L1's bytes of it are flushed does not act: it raises (08 R151). -/
def departHead (s : State) : State :=
  match s.me.sqC with
  | [] => s
  | e :: rest =>
    let t := actAt { s with me := { s.me with sqC := rest } } e.lsn
    match e.mark, e.atomic with
    | some r, _ => match r with | some scope => releaseScope t scope.toNat | none => t
    | none, some a => if (atomicMark s e.key).isSome then flushSector s e.key else atomicStep t e a
    | none, none =>
      match e.remote with
      | some (m, off) =>
        let d := drawAsk t
        let p := { mkPacket s s.me.task.part m 0 d.2 (.write off e.bytes e.ver) with after := sentBefore s .c d.2 m }
        let u := if s.rmap.gone.contains m then d.1 else keepCopy (awaitAck d.1 .c d.2 m e.ver.toList none 0 [] 1) d.2 p
        putPacket u s.me.task.part s.me.task.launch p
      | none =>
        if e.global then l1Store t e.key e.bytes
        else writeThrough t s.me.task.part (coreDie s.me.id) e.key e.bytes false

/-- One step of draining the C path in issue order: the older of the two heads, if it is ready. -/
def drainStepC (s : State) : State :=
  match s.me.lqC, s.me.sqC with
  | [], [] => s
  | _ :: _, [] => performHead s
  | [], _ :: _ => departHead s
  | l :: _, q :: _ => if (l.lsn ≤ q.lsn ∧ lqReady s l = true) ∨ sqReady s q = false then performHead s else departHead s

/-- Drain both queues of the C path. -/
def drainCN (fuel : Nat) (s : State) : State := match fuel with | 0 => s | n + 1 => drainCN n (drainStepC s)

/-- Every issued access of the C path performs or departs, in issue order. (DESIGN CHOICE, log 54.) -/
def drainC (s : State) : State := drainCN (s.me.lqC.length + s.me.sqC.length) s

/-- The head of SQ(C) departs if the frontier has reached it (02 R41). -/
def departDue (s : State) : State :=
  match s.me.sqC.head? with | some q => if q.lsn ≤ frontier s.me then departHead s else s | none => s

/-- Every issued load of the C path performs, but one that an atomic beyond the frontier holds. -/
def performAllN (fuel : Nat) (s : State) : State :=
  match fuel with
  | 0 => s
  | n + 1 =>
    match s.me.lqC with
    | [] => s
    | l :: _ => performAllN n (if lqReady s l then performHead s else departDue s)

/-- Perform all loads. -/
def performAll (s : State) : State := performAllN (s.me.lqC.length + s.me.sqC.length) s

/-- Every store of the C path departs, older loads of its bytes first. -/
def departAllN (fuel : Nat) (s : State) : State :=
  match fuel with
  | 0 => s
  | n + 1 =>
    match s.me.sqC with
    | [] => s
    | q :: _ => departAllN n (if sqReady s q then departHead s else performHead s)

/-- Depart all stores. -/
def departAll (s : State) : State := departAllN (s.me.lqC.length + s.me.sqC.length) s

/-- Entries of SQ(C) up to LSN `l` that the frontier has reached depart, older loads of their bytes first. -/
def departUpTo (fuel l : Nat) (s : State) : State :=
  match fuel with
  | 0 => s
  | n + 1 =>
    match s.me.sqC with
    | [] => s
    | q :: _ => if l < q.lsn then s else departUpTo n l (if sqReady s q then departDue s else performHead s)

/-- Atomics of SQ(C) act, with what stands before them. -/
def departAtomics (s : State) : State :=
  match (s.me.sqC.filter fun q => q.atomic.isSome).getLast? with
  | none => s
  | some q => departUpTo (s.me.lqC.length + s.me.sqC.length) q.lsn s

/-- Whether an atomic of SQ(C) covers bytes of [k, k + n). -/
def coveredByAtomic (s : State) (k n : Nat) : Bool := heldByAtomic s (2 ^ 64) k n

/-- Atomics of SQ(C) act first where one covers bytes of [k, k + n) (08 R150). -/
def settleAtomics (s : State) (k n : Nat) : State := if coveredByAtomic s k n then departAtomics s else s

/-! The S path. -/

/-- The youngest pending write of the commands `cmds` (oldest first) that covers a byte, with whether its command reduces. -/
def coverS (cmds : List SCmd) (k : Nat) : Option (SWrite × Bool) :=
  (cmds.reverse.findSome? fun c =>
    ((c.writes.drop c.sent).reverse.find? fun w =>
      match w.dest with
      | .here d _ => d ≤ k && k < d + max w.bytes.length ((w.src.map SPiece.len).sum)
      | .crew d => d ≤ k && k < d + max w.bytes.length ((w.src.map SPiece.len).sum)
      | .away _ _ _ => false
      | .own _ => false).map fun w => (w, c.kind == .cpyr))

/-- Where a write lands. -/
def destKey (d : SDest) : Nat := match d with | .here k _ => k | .crew k => k | .away _ _ _ => 0 | .own _ => 0

/-- A byte forwarded from SQ(S), with whether it is delivered poisoned. -/
def forwardS (cmds : List SCmd) (k : Nat) : Option (Byte × Bool) :=
  (coverS cmds k).bind fun r => (r.1.bytes[k - destKey r.1.dest]?).map fun b => (b, r.1.poison)

/-- Whether a run has a byte that no older write of the path forwards. -/
def runNeeds (cmds : List SCmd) (r : SPiece) : Bool := (List.range r.len).any fun i => (forwardS cmds (r.key + i)).isNone

/-- The condition that a run meets where its sector is read (12 R231, 17 R334). -/
def runMark (s : State) (cmds : List SCmd) (r : SPiece) : Option Mark :=
  if runNeeds cmds r && readsHome s (coreDie s.me.id) r.key r.global then markOf s r.key else none

/-- What the read of a run's sector brings besides its bytes: a finding counted, the sector in the remote view (11 R212, 17 R336). -/
def touchRun (s : State) (cmds : List SCmd) (r : SPiece) : State :=
  match runMark s cmds r with
  | some .poison => s
  | some m => countMark s s.me.task.part r.key m
  | none =>
    if runNeeds cmds r && readsHome s (coreDie s.me.id) r.key r.global then
      let t := noteSoft s s.me.task.part r.key
      if r.global then rvEnsure t (coreDie s.me.id) r.key else t
    else s

/-- The bytes of a run on the S path (11 R212), with whether they are delivered as those of a bad sector (12 R231). -/
def runBytes (s : State) (cmds : List SCmd) (r : SPiece) : List Byte × Bool :=
  if (runMark s cmds r).isSome then (List.replicate r.len 0, true)
  else
    let fw := (List.range r.len).map fun i => match forwardS cmds (r.key + i) with
      | some v => v
      | none => (if r.global then byteSeen s (coreDie s.me.id) (r.key + i) else cellGet s.mem (r.key + i), false)
    (fw.map Prod.fst, fw.any Prod.snd)

/-- Read one run. -/
def readRun (s : State) (cmds : List SCmd) (r : SPiece) : State × List Byte × Bool :=
  let t := touchRun s cmds r
  (t, runBytes t cmds r)

/-- Read runs in order, those of a word that takes them whole. -/
def readRuns (s : State) (cmds : List SCmd) (rs : List SPiece) : State × List Byte × Bool :=
  match rs with
  | [] => (s, [], false)
  | r :: rest =>
    let a := readRun s cmds r
    let b := readRuns a.1 cmds rest
    (b.1, a.2.1 ++ b.2.1, a.2.2 || b.2.2)

/-- Whether a piece has still to be read. -/
def unread (p : SPiece) : Bool := p.got.isNone

/-- A write whose whole source has been read holds its bytes; a bad sector among them delivers zeros, poisoned (12 R231), to a gradient block
zeros for all of it (DESIGN CHOICE, log 66). -/
def settleWrite (w : SWrite) : SWrite :=
  if w.src.isEmpty ∨ w.src.any unread = true then w
  else
    let bs := w.src.flatMap fun p => (p.got.map Prod.fst).getD []
    let bad := w.src.any fun p => (p.got.map Prod.snd).getD false
    { w with src := [], bytes := if bad then List.replicate bs.length 0 else bs, poison := bad }

/-- The pieces of a command that are still to be read, in order. -/
def unreadOf (c : SCmd) : List SPiece := c.writes.flatMap fun w => w.src.filter unread

/-- Pieces of an index array that a waiting word has still to read. -/
def indexLeft (w : Wait) : List SPiece := match w with | .index got => got.filter unread | _ => []

/-- LQ(S) of a core: the loads of the S path that have not performed, of its stream commands, of entries of q and mq registers under way and of
index arrays (11 R210). -/
def lqS (c : Core) : List SPiece :=
  c.sqS.flatMap unreadOf ++ (c.str.q.toList.flatMap fun g => g.part.filter unread) ++ (c.str.mq.toList.flatMap fun g => g.part.filter unread)
    ++ indexLeft c.wait ++ c.waits.flatMap fun w => indexLeft w.2

/-- Those that lie in the sector of the first of them: one step reads them (11 R220, R221). -/
def sectorOf (c : SCmd) (p : SPiece) : List SPiece := (unreadOf c).filter fun q => q.key / 64 == p.key / 64

/-- The run from the first to the last byte of some pieces of one sector. -/
def spanOf (p : SPiece) (ps : List SPiece) : SPiece :=
  let lo := ps.foldl (fun a q => min a q.key) p.key
  let hi := ps.foldl (fun a q => max a (q.key + q.len)) (p.key + p.len)
  { key := lo, len := hi - lo, global := p.global }

/-- The sector of a piece is read: every unread piece of the command in it takes its bytes (11 R212, R220). -/
def readSector (s : State) (older : List SCmd) (c : SCmd) (p : SPiece) : State × SCmd :=
  let t := touchRun s older (spanOf p (sectorOf c p))
  let fill (q : SPiece) : SPiece := if unread q ∧ q.key / 64 = p.key / 64 then { q with got := some (runBytes t older q) } else q
  (t, { c with writes := c.writes.map fun w => settleWrite { w with src := w.src.map fill } })

/-- The source sectors of a command read in order until write `i` holds its bytes, or until all do. -/
def readTill (fuel : Nat) (s : State) (older : List SCmd) (c : SCmd) (i : Nat) (all : Bool) : State × SCmd :=
  match fuel with
  | 0 => (s, c)
  | n + 1 =>
    match (if all then (unreadOf c).head? else (c.writes[i]?).bind fun w => w.src.find? unread) with
    | none => (s, c)
    | some p => let r := readSector s older c p; readTill n r.1 older r.2 i all

/-- The first unread sector of the commands is read; earlier commands come first (11 R212, Perform). -/
def readNext (s : State) (older later : List SCmd) : State :=
  match later with
  | [] => s
  | c :: rest =>
    match (unreadOf c).head? with
    | none => readNext s (older ++ [c]) rest
    | some p =>
      let r := readSector s older c p
      { r.1 with me := { r.1.me with sqS := older ++ r.2 :: rest } }

/-- Element width in bytes of CPYR's format: 0 f32, 1 bf16, 2 i32 (12 R239). -/
def reduceWidth (fmt : Nat) : Nat := if fmt = 1 then 2 else 4

/-- One element of CPYR (12 R242): op 0 add, 1 min, 2 max; destination d, source s. -/
def reduceElem (op fmt d s : Nat) : Nat :=
  if fmt = 2 then
    match op with
    | 0 => (d + s) % 2 ^ 32
    | 1 => if signedOf 32 s < signedOf 32 d then s else d
    | _ => if signedOf 32 d < signedOf 32 s then s else d
  else
    let f := if fmt = 1 then 2 else 0
    let a := decodeFloat f d
    let b := decodeFloat f s
    match op with
    | 0 => encodeFloat f 0 0 false (numAdd false a b)
    | 1 => encodeFloat f 0 0 false (numMin a b)
    | _ => encodeFloat f 0 0 false (numMax a b)

/-- The bytes a reduction leaves (12 R242). -/
def reduceBytes (fuel op fmt : Nat) (d s : List Byte) : List Byte :=
  match fuel with
  | 0 => []
  | n + 1 =>
    let w := reduceWidth fmt
    if d.isEmpty then [] else
      bytesOf w (reduceElem op fmt (natOf (d.take w)) (natOf (s.take w))) ++ reduceBytes n op fmt (d.drop w) (s.drop w)

/-- Apply a reducing sector at its home: a poisoned source, or a condition of the old sector, leaves it poisoned (17 R335). (DEDUCED, log 55.) -/
def applyReduce (s : State) (p die k op fmt : Nat) (bs : List Byte) (poison global : Bool) : State × List Byte :=
  let old := cellsGet s.mem k bs.length
  let res := reduceBytes bs.length op fmt old bs
  let bad := markOf s k
  let t := if bs.length = 64 then noteSoft s p k else s
  let t := writeThrough t p die k res global
  match bad with
  | some .poison => (setMark t k .poison, res)
  | some _ => (bump (setMark t k .poison) p 4, res)
  | none => if poison then (setMark t k .poison, res) else (t, res)

/-- ERRINJ (24 R412): the selected bit of the selected first send of a CPYF sector is inverted; the copy kept for a resend is
not. -/
def injectFlip (s : State) (part : Nat) (b : PacketBody) : State × PacketBody :=
  let w := s.errinj.toNat
  match b with
  | .copySector a i bs p v l =>
    if w / 2 ^ 60 = 3 ∧ w / 2 ^ 44 % 16 = part then
      if s.errCount = w % 2 ^ 32 then
        let n := w / 2 ^ 32 % 512 / 8
        let flip (b : Byte) : Byte := b ^^^ (1#8 <<< (w / 2 ^ 32 % 8))
        ({ s with errinj := 0, errCount := 0 }, .copySector a i (bs.mapIdx fun j b => if (a + j) % 64 = n then flip b else b) p v l)
      else ({ s with errCount := s.errCount + 1 }, b)
    else (s, b)
  | _ => (s, b)

/-- Bytes of a sector write. -/
def writeLen (w : SWrite) : Nat := max w.bytes.length (w.src.map SPiece.len).sum

/-- The module that a write goes to: none for one of this module. -/
def SWrite.home (w : SWrite) : Option Nat := match w.dest with | .away m _ _ => some m | _ => none

/-- The modules that a command's writes go to, in order; `none` is this one. -/
def homesOf (c : SCmd) : List (Option Nat) := (c.writes.map SWrite.home).eraseDups

/-- A command's writes to one module. -/
def writesTo (c : SCmd) (m : Option Nat) : List SWrite := c.writes.filter fun w => w.home == m

/-- The number of a command's next sector among those to its module (21 R392). -/
def sectorNo (c : SCmd) (m : Option Nat) : Nat := ((c.writes.take c.sent).filter fun w => w.home == m).length

/-- What a sector's packet says of its command: the run of bytes to be checked before any is written; a pushed entry's stores are checked
one by one, since their word's checks are past (12 R228, R237). -/
def runOf (c : SCmd) (w : SWrite) : SectorRun :=
  match w.dest with
  | .away m a via =>
    let last := sectorNo c (some m) + 1 == (writesTo c (some m)).length
    match c.kind with
    | .qout _ _ => { base := a, len := writeLen w, ckm := c.ckm, last := last }
    | _ =>
      let mine := c.writes.filter fun x => match x.dest with | .away n _ v => n == m && v == via | _ => false
      { base := (mine.findSome? fun w => match w.dest with | .away _ a _ => some a | _ => none).getD 0,
        len := (mine.map writeLen).sum, ckm := c.ckm, last := last }
  | _ => { base := 0, len := 0, ckm := c.ckm, last := false }

/-- A gradient block leaves; the module keeps its own copy (12 R248). -/
def departBlock (s : State) (c : SCmd) (w : SWrite) (m : Nat) : State :=
  let p := s.me.task.part
  let die := c.tag / 2 ^ 51 % 2
  let t := sendPacket s p s.me.task.launch m die c.tag (.gradient (c.tag % 2 ^ 32) (c.tag / 2 ^ 32 % 2 ^ 19) die w.bytes)
  { t with retained := t.retained ++ [{ tag := c.tag, launch := s.me.task.launch, serial := s.me.task.serial, part := p,
                                        dest := (m, die), home := none, mirror := false, bytes := w.bytes, tried := s.time,
                                        die := coreDie s.me.id }] }

/-- What a command still awaits of a module that has left the map is dropped, and the command posts nothing (21 R390, R392). -/
def dropAwait (s : State) (xid m : Nat) : State :=
  { s with outs := (s.outs.filter fun o => !(o.xid == xid && o.dst == m)).map fun o => if o.xid = xid then { o with posts := [] } else o }

/-- A sector that leaves for another module. To one absent from the map nothing is sent; event 0x0802 says so once, with the command's
first sector to it or the first after the module left (21 R390). -/
def departAway (s : State) (c : SCmd) (w : SWrite) (m addr : Nat) (via : Option Nat) : State :=
  let p := s.me.task.part
  let x := c.xid.getD 0
  let i := sectorNo c (some m)
  if c.kind = .gpush then departBlock s c w m
  else if s.rmap.gone.contains m then
    if i = 0 ∨ s.outs.any (fun o => o.xid == x && o.dst == m) = true then postEvent (dropAwait s x m) 0x0802 p s.me.task.launch 0 x else s
  else
    let b : PacketBody := match c.kind with
      | .cpyr => .reduceSector addr i c.op c.fmt w.bytes w.poison via (runOf c w)
      | _ => .copySector addr i w.bytes w.poison via (runOf c w)
    let f := if c.kind = .cpyf then injectFlip s p b else (s, b)
    let k : Packet := { mkPacket s p m 0 x b with after := if i = 0 then sentBefore s .s x m else none }
    keepCopy (putPacket f.1 p s.me.task.launch { k with body := f.2 }) x k

/-- One sector of a command departs (11 R220; 12 R231, R241, R242; 16 R321). -/
def departWrite (s : State) (c : SCmd) (w : SWrite) : State × SWrite :=
  let p := s.me.task.part
  let die := coreDie s.me.id
  match w.dest with
  | .here k global =>
    if c.kind = .cpyr then
      let r := applyReduce s p die k c.op c.fmt w.bytes w.poison global
      (r.1, { w with bytes := r.2 })
    else
      let t := writeThrough s p die k w.bytes global
      (if w.poison then setMark t k .poison else t, w)
  | .crew k =>
    let t := homeWrite s p k w.bytes
    let t := if w.poison then setMark t k .poison else t
    (updCrew t s.me.task.crew fun cr => creditCrew cr w.bytes.length, w)
  | .away m addr via => (departAway s c w m addr via, w)
  | .own addr =>
    if c.bad then (s, w)
    else
      match checkS s addr true with
      | (t, .ok a) => let u := homeWrite t p a.key w.bytes; (if w.poison then setMark u a.key .poison else u, w)
      | (t, _) => (t, w)

/-- Whether completion of this command posts here: a CPYF's s91 or s80+k waits for its acknowledgement (12 R232). -/
def kindSem (k : SKind) : Nat :=
  match k with
  | .sld => 84 | .sst => 85 | .cpy => 86 | .cpymc => 87 | .cpyr => 88 | .stage => 89 | .cpyf => 90 | .gpush => 92
  | .qout q _ => 64 + q

/-- Whether a command's acknowledgements are awaited: sectors sent to another module. -/
def isAway (c : SCmd) : Bool := c.writes.any fun w => match w.dest with | .away _ _ _ => true | _ => false

/-- The semaphores that a command's completion at its destination posts: its own row's, but a CPYF's, which posted when it
departed, and s80 + k where it carries a checksum (12 R232). -/
def ackPosts (c : SCmd) : List Nat :=
  let ck := if c.ckm = 0 then [] else [80 + c.ckr.toNat]
  match c.kind with
  | .cpyf => if c.ckm = 0 then [91] else ck
  | .qout _ last => if last then [kindSem c.kind] else []
  | _ => kindSem c.kind :: ck

/-- Whether an earlier command of the moving core's task has still to update a checksum register. -/
def ckAwaited (s : State) (k : BitVec 2) : Bool :=
  s.outs.any fun o => o.launch == s.me.task.launch && o.serial == s.me.task.serial && o.ck == some k

/-- Semaphores posted. -/
def postAll (r : Regs) (l : List Nat) : Regs := l.foldl (fun g n => postS g n 1) r

/-- A command whose last sector has departed (12 R232, R245): one whose sectors went to another module awaits its
acknowledgements; else its checksum over the bytes as written is taken, in queue order, and its posts are made. -/
def completeCmd (s : State) (c : SCmd) : State :=
  let bytes := (c.writes.map SWrite.bytes).flatten
  if isAway c then
    if c.kind = .cpyf ∨ c.kind = .gpush then mapRegs s fun r => postS r (kindSem c.kind) 1 else s
  else
    let first := if c.kind = .cpyf then [90] else []
    if c.bad then mapRegs s fun r => postAll r first
    else if c.ckm = 0 then mapRegs s fun r => postAll r (first ++ ackPosts c)
    else if ckAwaited s c.ckr then
      let t := awaitAck (mapRegs s fun r => postAll r first) .s 0 s.fabric [] (some c.ckr) c.ckm (ackPosts c) 0
      { t with outs := t.outs.mapIdx fun i o => if i + 1 = t.outs.length then { o with own := bytes } else o }
    else mapRegs s fun r =>
      postAll (writeCk r c.ckr.toNat (checksum c.ckm (readCk r c.ckr.toNat) bytes)) (first ++ ackPosts c)

/-- The versions that some writes go to through handles on other modules. -/
def versTo (ws : List SWrite) : List Nat :=
  (ws.filterMap fun w => match w.dest with | .away _ _ v => v | _ => none).eraseDups

/-- The records of a command that goes to other modules, one for each module in the order of its sectors, this one among them; the last
holds its posts, which none makes where a module is absent from the map. -/
def awaitAll (s : State) (c : SCmd) (xid : Nat) : State :=
  let hs := homesOf c
  let lost := hs.any fun h => h.any fun m => s.rmap.gone.contains m
  let ck := if c.ckm = 0 then none else some c.ckr
  (hs.zipIdx.filter fun h => !(h.1.any fun m => s.rmap.gone.contains m)).foldl (fun t h =>
    awaitAck t .s xid (h.1.getD s.fabric) (versTo (writesTo c h.1)) ck c.ckm
      (if h.2 + 1 = hs.length ∧ lost = false then ackPosts c else []) (writesTo c h.1).length) s

/-- A sector written here of a command that others acknowledge counts among its acknowledgements. -/
def ackHere (s : State) (c : SCmd) (bytes : List Byte) : State :=
  { s with outs := s.outs.map fun o => if some o.xid = c.xid ∧ o.dst = s.fabric then
      { o with acks := o.acks ++ [(sectorNo c none, bytes.length, checksum c.ckm 0 bytes)] } else o }

/-- The transfer ID a CPYR or CPYF takes when its first sector departs (12 R244), and the record of an awaited command;
GPUSH blocks are acknowledged by their tag (12 R248). -/
def startCmd (s : State) (c : SCmd) : State × SCmd :=
  if c.xid.isSome ∨ c.kind = .gpush then (s, c)
  else
    match isAway c with
    | false =>
      if c.kind = .cpyr then let d := drawXid s; (d.1, { c with xid := some d.2 })
      else if c.kind = .cpyf then
        let d := drawXid s
        let own := c.writes.filterMap fun w => match w.dest with | .own a => some (a, max w.bytes.length (w.src.map SPiece.len).sum) | _ => none
        match checkRuns d.1 own true with
        | (t, .ok _) => (t, { c with xid := some d.2 })
        | (t, _) => (postEvent t 0x0801 s.me.task.part s.me.task.launch 0 d.2, { c with xid := some d.2, bad := true })
      else (s, c)
    | true =>
      let d := if c.kind = .cpyr ∨ c.kind = .cpyf then drawXid s else drawAsk s
      (awaitAll d.1 c d.2, { c with xid := some d.2 })

/-- Whether the bytes of a destination are still to be read by an unread source of the same command (12 R240). -/
def overlapsUnread (c : SCmd) (k n : Nat) : Bool :=
  (unreadOf c).any fun p => p.key < k + n && k < p.key + p.len

/-- The oldest command's next sector departs; a command without sectors, or whose last sector departs, completes and leaves
SQ(S) (11 R212, R220). One without sectors draws no transfer ID, and a CPYF of that kind posts s91 as it completes (DESIGN CHOICE, log 65). -/
def departS (s : State) : State :=
  match s.me.sqS with
  | [] => s
  | c :: rest =>
    if c.sent < c.writes.length then
      let st := startCmd s c
      let w0 := st.2.writes.getD c.sent { dest := .crew 0, src := [], bytes := [], poison := false }
      let fx := readTill (unreadOf st.2).length st.1 [] st.2 c.sent (overlapsUnread st.2 (destKey w0.dest) 64)
      let c1 : SCmd := fx.2
      let w : SWrite := c1.writes.getD c.sent w0
      let d := departWrite (actAt fx.1 c.lsn) c1 w
      let d := if isAway c1 && w.home.isNone then (ackHere d.1 c1 d.2.bytes, d.2) else d
      let c2 : SCmd := { c1 with writes := c1.writes.set c.sent d.2, sent := c.sent + 1 }
      if c2.sent = c2.writes.length then
        completeCmd { d.1 with me := { d.1.me with sqS := rest } } c2
      else { d.1 with me := { d.1.me with sqS := c2 :: rest } }
    else completeCmd { s with me := { s.me with sqS := rest } } c

/-- Steps that empty the commands of SQ(S). -/
def stepsS (l : List SCmd) : Nat := (l.map fun c => c.writes.length - c.sent + 1).sum

/-- Depart `n` times. -/
def departSN (n : Nat) (s : State) : State := match n with | 0 => s | k + 1 => departSN k (departS s)

/-- Every command of the S path completes, in queue order. -/
def drainS (s : State) : State := departSN (stepsS s.me.sqS) s

/-- Commands up to the first `n` complete. -/
def drainSTo (s : State) (n : Nat) : State := departSN (stepsS (s.me.sqS.take n)) s

/-- The commands of SQ(S) that are older than an LSN: the queue is in the order of their words (12 R229). -/
def cmdsBelow (s : State) (l : Nat) : List SCmd := s.me.sqS.takeWhile fun c => c.lsn < l

/-- Those commands complete. -/
def drainSBelow (s : State) (l : Nat) : State := drainSTo s (cmdsBelow s l).length

/-- How many commands at the head of SQ(S) the frontier has reached (02 R41). -/
def dueS (s : State) : Nat := (s.me.sqS.takeWhile fun c => c.lsn ≤ frontier s.me).length

/-- A command put in its place in SQ(S), behind those of no greater LSN: an entry pushed by a vector word may find younger commands of the
stream slice there (12 R229, R233). -/
def insertCmd (c : SCmd) (l : List SCmd) : List SCmd :=
  match l with
  | [] => [c]
  | d :: rest => if c.lsn < d.lsn then c :: l else d :: insertCmd c rest

/-- Whether a command is an entry pushed onto a q register: it holds one of that register's eight places (03 R46), no place of SQ(S). -/
def isPushed (c : SCmd) : Bool := match c.kind with | .qout _ _ => true | _ => false

/-- SQ(S) with a place for a command of a stream word: where its sixteen are taken the oldest departs, if the frontier has reached it; none
until then (14 R293). -/
def freeS (s : State) : Option State :=
  if (s.me.sqS.filter fun c => !isPushed c).length < Config.sQueue then some s
  else
    match s.me.sqS.findIdx? fun c => !isPushed c with
    | some i => if i < dueS s then some (drainSTo s (i + 1)) else none
    | none => some s

/-- Whether a command of these writes bytes of a remote run that has not left yet. -/
def awayCovers (cmds : List SCmd) (home : Nat) (ver : Option Nat) (off n : Nat) : Bool :=
  cmds.any fun c => (c.writes.drop c.sent).any fun w =>
    match w.dest with | .away m a v => m == home && v == ver && a < off + n && off < a + writeLen w | _ => false

/-- Whether a pending reduction of these commands covers a byte of the pieces: such a read waits until it is applied
(11 R213). -/
def reduceCovers (cmds : List SCmd) (ps : List SPiece) : Bool :=
  ps.any fun r => (List.range r.len).any fun i => match coverS cmds (r.key + i) with | some w => w.2 | none => false

/-- Whether the next unread sector of the commands waits for an older reduction. -/
def nextBlocked (older later : List SCmd) : Bool :=
  match later with
  | [] => false
  | c :: rest =>
    match (unreadOf c).head? with
    | some p => reduceCovers older (sectorOf c p)
    | none => nextBlocked (older ++ [c]) rest

/-- Both paths drain: every older store and copy departs, every load performs. -/
def drainBoth (s : State) : State := drainS (drainC s)

/-- The acquire of 16 R313. -/
def acquire (s : State) (scope : Nat) : State := invalidate (performAll s) scope

end Sys2Proof.Machine
end

