-- ==== Sys2Proof/Machine/Image.lean ====
section
/-! DEFINITION. The bytes of a saved image and of a crew record in the context save area (18 R350-R352). A saved task stands in the
state as data; these are the bytes that the host finds for it there. -/

namespace Sys2Proof.Machine

/-! The transit section (18 R352). -/

/-- Whether an image's transit section holds no entry: what 18 R360's TSIZE of 0 is read as, since the count block is always there (18 R352, 25
R414; DEDUCED, log 23). -/
def noTransit (c : Core) : Bool :=
  let t := c.str
  (t.ch.toList.all List.isEmpty) && (t.dq.toList.all List.isEmpty) && t.modeS.isEmpty && t.modeV.isEmpty && t.modeM.isEmpty

/-- A channel entry: its tag, KIND, its payload. -/
def chBytes (e : ChEntry) : List Byte :=
  let kind (n : Nat) := bytesOf 8 e.tag ++ bytesOf 1 n ++ bytesOf 7 0
  match e.val with
  | .scalar w => kind 0 ++ bytesOf 8 w.toNat
  | .vector v => kind 1 ++ bytesOf 512 v.toNat
  | .skipped => kind 0 ++ bytesOf 8 0

/-- A mode entry. -/
def modeBytes (e : ModeEntry) : List Byte := bytesOf 8 e.tag ++ bytesOf 1 (if e.rmode then 1 else 0) ++ bytesOf 3 0 ++ bytesOf 4 e.val

/-- The decisions of a queue, the head at bit 0. -/
def decBytes (l : List DqEntry) : List Byte := bytesOf 8 (l.foldr (fun e n => 2 * n + if e.bit then 1 else 0) 0)

/-- The transit section: the count block, which is there without entries too (25 R414), channels, decisions, mode entries. -/
def transitBytes (c : Core) : List Byte :=
  let t := c.str
  (t.ch.toList.flatMap fun l => bytesOf 1 l.length) ++ (t.dq.toList.flatMap fun l => bytesOf 1 l.length)
    ++ bytesOf 1 t.modeS.length ++ bytesOf 1 t.modeV.length ++ bytesOf 1 t.modeM.length ++ bytesOf 41 0
    ++ (t.ch.toList.flatMap fun l => l.flatMap chBytes) ++ (t.dq.toList.filter fun l => !l.isEmpty).flatMap decBytes
    ++ (t.modeS ++ t.modeV ++ t.modeM).flatMap modeBytes

/-! The header (18 R351). -/

/-- CAUSE. -/
def causeCode (c : SaveCause) : Nat :=
  match c with | .systemFault => 0 | .class0 => 1 | .suspended => 2 | .evicted => 3 | .debugger => 4 | .policy2 => 5

/-- A bit for each accumulator. -/
def accBits (r : Regs) (f : Acc → Bool) : Nat := ((List.range 16).map fun i => if f (readA r i) then 2 ^ i else 0).sum

/-- The 256 bytes of the header. -/
def imageHeader (v : Saved) : List Byte :=
  let c := v.core
  let flags := (if c.hdl then 1 else 0) + (if c.emu then 2 else 0) + if c.erls then 4 else 0
  bytesOf 4 0x474D4951 ++ bytesOf 2 1 ++ bytesOf 2 (causeCode v.cause) ++ bytesOf 8 c.flow.lsn ++ bytesOf 8 c.flow.pc.toNat
    ++ bytesOf 8 c.task.taskid.toNat ++ bytesOf 8 (c.task.launch % 2 ^ 64) ++ bytesOf 2 ((v.raised.map Raise.code).getD 0)
    ++ bytesOf 2 c.rho ++ bytesOf 4 flags ++ bytesOf 8 c.regs.xv.toNat ++ bytesOf 8 c.regs.vv.toNat ++ bytesOf 4 c.regs.pv.toNat
    ++ bytesOf 2 (accBits c.regs Acc.valid) ++ bytesOf 2 (accBits c.regs Acc.suspect) ++ bytesOf 2 c.id ++ bytesOf 6 0
    ++ bytesOf 8 (transitBytes c).length ++ bytesOf 168 0

/-! The sections (18 R350). -/

/-- The rank of a counter among the active ones by the time of its last start. -/
def loopRank (l : Vector LoopCtr 4) (k : LoopCtr) : Nat := (l.toList.filter fun m => m.active && m.rank < k.rank).length

/-- A loop counter: lc, its state word, START, END. -/
def loopBytes (l : Vector LoopCtr 4) (k : LoopCtr) : List Byte :=
  bytesOf 4 k.count.toNat ++ bytesOf 4 (if k.active then 1 + 2 * loopRank l k else 0) ++ bytesOf 4 k.start ++ bytesOf 4 k.stop

/-- The value of a handle register: all ones where it is stale; what a held handle's value is is the module's own (13 R260). -/
def handleWord (h : HReg) : Word :=
  match h with
  | .empty => 0
  | .stale => BitVec.allOnes 64
  | .held x _ => Config.handleValue [if x.fill then 1 else 0, x.ver, x.home, x.k, x.pool, x.num, x.name, x.era]

/-- A result queue: its count, eight entries from the head. -/
def yBytes (l : List Word) : List Byte := bytesOf 8 l.length ++ (List.range 8).flatMap fun i => bytesOf 8 (l.getD i 0).toNat

/-- A q register's 48 bytes. -/
def qBytes (q : QReg) : List Byte :=
  let kind := match q.kind with | .unbound => 0 | .sbind => 1 | .sgather => 2 | .sscatter => 3
  let mode := (q.dims - 1) + (if q.out then 4 else 0) + 8 * kind + if 2 ≤ kind then 32 * q.width else 0
  bytesOf 8 q.base.toNat ++ bytesOf 8 q.strides.toNat ++ bytesOf 8 q.counts.toNat ++ bytesOf 8 mode ++ bytesOf 8 q.done
    ++ bytesOf 8 q.pair.toNat

/-- A metadata queue's 128 bytes: its runs. -/
def mqBytes (m : MqReg) : List Byte :=
  padTo 128 (m.runs.flatMap fun r => bytesOf 8 r.addr.toNat ++ bytesOf 4 r.count ++ bytesOf 4 r.popped)

/-- The region stack with the acquisition depths of the handles (13 R273). -/
def regionBytes (c : Core) : List Byte :=
  padTo 128 (bytesOf 8 c.regions.length
    ++ padTo 64 (c.regions.reverse.flatMap fun g => bytesOf 8 g.handler.toNat ++ bytesOf 8 g.opened)
    ++ c.regs.h.toList.flatMap fun h => bytesOf 1 (match h with | .held _ d => d | _ => 0))

/-- The CSRs of an image. -/
def csrBytes (c : Core) : List Byte :=
  let k := c.csr
  [k.rmode.toNat, k.vl.toNat, k.trapvec.toNat, k.emuvec.toNat, k.faultrec.toNat, k.cycle, k.cycleft, k.gotbase.toNat, k.seed.toNat,
   c.task.taskid.toNat].flatMap (bytesOf 8)

/-- An accumulator row by row. -/
def accBytes (a : Acc) : List Byte :=
  if a.valid then a.elems.flatMap fun e => bytesOf 4 e.toNat else List.replicate 16384 0

/-- The 0x18_0000 bytes of a saved task's image (18 R350). -/
def imageBytes (v : Saved) : List Byte :=
  let c := v.core
  let r := c.regs
  padTo 0x180000 (imageHeader v ++ (r.x.toList.flatMap fun w => bytesOf 8 w.toNat) ++ (r.p.toList.flatMap fun w => bytesOf 16 w.toNat)
    ++ (r.t.toList.flatMap fun w => bytesOf 8 w.toNat) ++ (c.flow.loops.toList.flatMap (loopBytes c.flow.loops))
    ++ (r.sem.toList.flatMap fun w => bytesOf 4 w.toNat) ++ (r.h.toList.flatMap fun h => bytesOf 8 (handleWord h).toNat)
    ++ r.y.toList.flatMap yBytes ++ (r.ck.toList.flatMap fun w => bytesOf 4 w.toNat) ++ csrBytes c ++ regionBytes c
    ++ c.str.q.toList.flatMap qBytes ++ c.str.mq.toList.flatMap mqBytes ++ (r.v.toList.flatMap fun w => bytesOf 512 w.toNat)
    ++ r.acc.toList.flatMap accBytes ++ cellsGet v.scratch 0 Config.scratchBytes
    ++ bytesOf 2048 ((v.poison.map fun n => 2 ^ n).sum) ++ transitBytes c)

/-! The crew record (18 R352). -/

/-- The serial of the member of a crew at a position of its cluster. -/
def memberAt (s : State) (c : Crew) (pos : Nat) : Option Nat :=
  let cores := (s.saved.map Saved.core) ++ (allCores s).filter fun k => k.run != .idle
  (cores.find? fun k => k.task.crew == c.id && c.members.contains k.task.serial && corePos k.id == pos).map fun k => k.task.serial

/-- A barrier of a crew record: PHASE, ARR, OUT, TGT by position. -/
def barBytes (s : State) (c : Crew) (b : Barrier) : List Byte :=
  bytesOf 4 b.phase.toNat ++ bytesOf 1 b.arr.length ++ bytesOf 3 0 ++ bytesOf 8 b.out
    ++ ((List.range 8).flatMap fun p => bytesOf 5 (((memberAt s c p).bind (assoc b.tgt)).getD (2 ^ 40 - 1))) ++ bytesOf 8 0

/-- The 1,088 bytes of a crew record: 16 barriers, the credit pool. -/
def crewBytes (s : State) (c : Crew) : List Byte := (c.bars.toList.flatMap (barBytes s c)) ++ bytesOf 8 c.cp ++ bytesOf 56 0

/-! The context save area (18 R350). (DESIGN CHOICE, log 68.) -/

/-- Bytes written at a partition's own address by the module, sector by sector; runs that no page maps are left out. -/
def writeAt (s : State) (p : Partition) (rs : List (Nat × Nat)) (bs : List Byte) : State :=
  match rs with
  | [] => s
  | (a, n) :: rest =>
    let t := match (if a < 2 ^ 52 then translate s p a true else (s, .error 0)) with
      | (u, .ok k) => homeWrite u p.cfg.part k (bs.take n)
      | (u, .error _) =>
        if a / 2 ^ 56 = 0xF3 ∧ a % 2 ^ 56 / 2 ^ 32 < 2 then
          match (banksOn p (a % 2 ^ 56 / 2 ^ 32))[a % 2 ^ 32 / Config.bankBytes]? with
          | some b => homeWrite u p.cfg.part (stackKey b (a % Config.bankBytes)) (bs.take n)
          | none => u
        else u
    writeAt t p rest (bs.drop n)

/-- Bytes of one place of a save area: an image, and the record of the task's crew beside it. -/
def savePlace : Nat := 0x180000 + 1088

/-- The places of a partition's save areas that images stand in. -/
def usedPlaces (s : State) (part : Nat) : List Nat :=
  (((s.saved.map Saved.core) ++ (allCores s).filter fun c => c.run != .idle).filter fun c => c.task.part == part).filterMap fun c => c.task.place

/-- The place for a partition's next image: the lowest free one, none where the host has assigned none or all are taken. -/
def freePlace (s : State) (part : Nat) : Option Nat :=
  (partOf s part).bind fun p => (List.range p.saveSlots).find? fun n => !(usedPlaces s part).contains n

/-- The moving core's task takes a place for its image. -/
def takePlace (s : State) : State := { s with me := { s.me with task := { s.me.task with place := freePlace s s.me.task.part } } }

/-- An image and its crew's record written to its place. -/
def writeImage (s : State) (v : Saved) : State :=
  match partOf s v.core.task.part, v.core.task.place with
  | some p, some n =>
    let bs := imageBytes v ++ ((crewOf s v.core.task.crew).map (crewBytes s)).getD []
    writeAt s p (runs (p.saveBase.toNat + savePlace * n) bs.length) bs
  | _, _ => s

end Sys2Proof.Machine
end

