-- ==== Sys2Proof/Machine/Tasks.lean ====
section
/-! DEFINITION. Where a task stands in its slices (02 R40, 14 R291), and how handles, tasks, launches and contexts end or are
saved (13 R257, R273, 15 R296, 16 R322, 18 R350). -/

namespace Sys2Proof.Machine

/-! The slices of a core (02 R36-R40, 05 R100, R101, 14 R287, R291). -/

/-- Index of an engine: 0 C, 1 S, 2 V, 3 M. -/
def engIdx (e : Engine) : Nat := match e with | .c => 0 | .s => 1 | .v => 2 | .m => 3

/-- The four engines in order. -/
def engines : List Engine := [.c, .s, .v, .m]

/-- The flow of an engine's slice. -/
def flowOf (c : Core) (e : Engine) : Flow :=
  if c.eng = e then c.flow else ((c.parked.find? fun p => p.1 == e).map Prod.snd).getD { Flow.entry with ended := true }

/-- What an engine's word waits for. -/
def waitOf (c : Core) (e : Engine) : Wait :=
  if c.eng = e then c.wait else ((c.waits.find? fun p => p.1 == e).map Prod.snd).getD .none

/-- The core with another engine's slice as the one that moves. -/
def Core.turn (c : Core) (e : Engine) : Core :=
  if c.eng = e then c
  else { c with eng := e, flow := flowOf c e, parked := (c.eng, c.flow) :: c.parked.filter fun p => p.1 != e,
                wait := waitOf c e, waits := (c.eng, c.wait) :: c.waits.filter fun p => p.1 != e }

/-- The core with the wait of each of its engines replaced. -/
def Core.mapWaits (c : Core) (f : Wait → Wait) : Core :=
  { c with wait := f c.wait, waits := c.waits.map fun p => (p.1, f p.2) }

/-- Do `f` with the slice that moves being one whose wait `ok` accepts, if there is one; the slice that moved before moves again. -/
def onWait (ok : Wait → Bool) (f : State → State) (s : State) : State :=
  match engines.find? fun e => ok (waitOf s.me e) with
  | none => s
  | some e =>
    let t := f { s with me := s.me.turn e }
    { t with me := t.me.turn s.me.eng }

/-- The field of a resume row for an engine. -/
def rowField (r : ResumeRow) (e : Engine) : BitVec 32 :=
  match e with | .c => r.c | .s => r.s | .v => r.v | .m => r.m

/-- DIST and unit offset of an engine's next word at or after a logical unit, if any (14 R291). -/
def resumeAt (c : Core) (e : Engine) (unit : Nat) : Option (Nat × Nat) :=
  (c.map.resume[unit]?).bind fun r =>
    let w := (rowField r e).toNat
    if w = 2 ^ 32 - 1 then none else some (w / 2 ^ 18, w % 2 ^ 18)

/-- The logical unit at whose position a slice's unit offset stands: the last one whose row names an offset not beyond it
with DIST 0. -/
def logicalUnit (c : Core) (e : Engine) (off : Nat) : Nat :=
  ((List.range c.map.resume.length).filter fun u =>
    match resumeAt c e u with | some (d, o) => d == 0 && o ≤ off | none => false).getLastD 0

/-- The logical PC of the word the moving slice stands at. -/
def logicalPc (c : Core) : Word :=
  match c.form with
  | .logical => c.flow.pc
  | .slices => BitVec.ofNat 64 (4 * logicalUnit c c.eng (c.flow.pc.toNat / 4))

/-- The slice that stands at the frontier, C before S, V and M; C where one of its issued accesses does. -/
def frontSlice (c : Core) : Engine :=
  (engines.find? fun e => nextLsn (flowOf c e) == frontier c).getD .c

/-- The logical PC of the frontier. -/
def frontPc (c : Core) : Word :=
  let d := c.turn (frontSlice c)
  match pendingC c with
  | some p => if nextLsn d.flow = frontier c then logicalPc d else logicalPc { d with flow := { d.flow with pc := p.2 } }
  | none => logicalPc d

/-- The annotation of the word at a flow's PC (05 R100). -/
def annOf (c : Core) (e : Engine) (f : Flow) : BitVec 16 :=
  ((c.anns.toList.getD (engIdx e) []).getD (f.pc.toNat / 4) 0)

/-- The unit at an address of the logical text. -/
def unitAt (text : List (BitVec 32)) (pc : Nat) : Option Nat := (text[pc / 4]?).map BitVec.toNat

/-- Units of the word whose first unit is `u` (05 R81). -/
def unitsOf (u : Nat) : Nat :=
  let cls := u / 2 ^ 29 % 8
  if cls < 4 then 1 else if cls = 7 then 2 else if cls = 6 then 6 else 3

/-- Whether unit `k` is the first of an instruction, walking the text from its start; `skip` units of a word remain. -/
def firstUnit (text : List (BitVec 32)) (skip k : Nat) : Bool :=
  match text, k with
  | [], _ => false
  | _ :: _, 0 => skip == 0
  | u :: rest, n + 1 => firstUnit rest (if skip = 0 then unitsOf u.toNat - 1 else skip - 1) n

/-- Whether a logical PC is the first unit of an instruction of the kernel (05 R82). -/
def isFirst (c : Core) (pc : Nat) : Bool := pc % 4 == 0 && firstUnit c.text 0 (pc / 4)

/-- Whether a logical PC is the last unit of an instruction of the kernel (08 R155). -/
def isLast (c : Core) (pc : Nat) : Bool :=
  pc % 4 == 0 && (pc / 4 < c.text.length) && (pc / 4 + 1 == c.text.length || firstUnit c.text 0 (pc / 4 + 1))

/-- The stored bytes of the logical word at a PC. -/
def bytesAt (c : Core) (pc : Word) : List Byte :=
  let t := c.text.drop (pc.toNat / 4)
  (t.take (unitsOf (t.headD 0).toNat)).flatMap fun w => bytesOf 4 w.toNat

/-- Units of the loop word of a slice (05 R95). -/
def loopUnits (e : Engine) : Nat := match e with | .c => 1 | .m => 6 | _ => 3

/-- BODY14 of the loop word at a unit offset of a slice's text: in its first stored unit's field for C, in the flow layout
elsewhere. -/
def bodyOf (c : Core) (e : Engine) (off : Nat) : Nat :=
  let t := c.code.toList.getD (engIdx e) []
  match e with
  | .c => ((t.getD off 0).toNat) % 2 ^ 14
  | .m => (t.getD off 0).toNat % 2 ^ 11 * 8 + (t.getD (off + 1) 0).toNat / 2 ^ 29
  | _ => (t.getD off 0).toNat % 2 ^ 10 * 16 + (t.getD (off + 1) 0).toNat / 2 ^ 28

/-- Whether a unit opens a loop word of an engine. -/
def isLoopWord (e : Engine) (u : Nat) : Bool :=
  match e with
  | .c => u / 2 ^ 24 == 0x54 || u / 2 ^ 24 == 0x55
  | .s => u / 2 ^ 29 == 4 && u / 2 ^ 20 % 2 ^ 9 == 0x1E0
  | .v => u / 2 ^ 29 == 5 && u / 2 ^ 20 % 2 ^ 9 == 0x1E0
  | .m => u / 2 ^ 29 == 6 && u / 2 ^ 21 % 2 ^ 8 == 0x10

/-- From a unit offset on, the first loop word of the slice (fillers of the same position stand before it). -/
def loopWordFrom (c : Core) (e : Engine) (fuel off : Nat) : Nat :=
  match fuel with
  | 0 => off
  | n + 1 =>
    let u := ((c.code.toList.getD (engIdx e) []).getD off 0).toNat
    if isLoopWord e u then off else loopWordFrom c e n (off + unitsOf u)

/-- The loop state of a slice for the LOOP at a logical unit (18 R353), of a counter that is not active too, whose START and END stay as the
loop left them (08 R156); one that no LOOP has set has none to translate. -/
def sliceLoop (c : Core) (e : Engine) (l : LoopCtr) : LoopCtr :=
  if isLoopWord .c (c.text.getD (l.start / 4 - 1) 0).toNat = false then l
  else
    match resumeAt c e (l.start / 4 - 1) with
    | none => { l with active := false, start := 0, stop := 0 }
    | some (_, o) =>
      let w := loopWordFrom c e 64 o
      { l with start := 4 * (w + loopUnits e), stop := 4 * (w + loopUnits e + bodyOf c e w) }

/-- The logical loop state for a slice's: START and END of the LOOP whose replica's body starts there. -/
def logicalLoop (c : Core) (e : Engine) (l : LoopCtr) : LoopCtr :=
  match (List.range c.text.length).find? fun u =>
      isLoopWord .c (c.text.getD u 0).toNat
        && (match resumeAt c e u with
            | some (_, o) => 4 * (loopWordFrom c e 64 o + loopUnits e) == l.start
            | none => false) with
  | some u => { l with start := 4 * u + 4, stop := 4 * u + 4 + 4 * ((c.text.getD u 0).toNat % 2 ^ 14) }
  | none => l

/-- The core as the rebuild presents it: one logical position, taken from the slice that stands at it. -/
def Core.toLogical (c : Core) (pc : Word) (lsn : Nat) (e : Engine) : Core :=
  match c.form with
  | .logical => { c with flow := { c.flow with pc := pc, lsn := lsn } }
  | .slices =>
    { c with eng := .c, parked := [], waits := [],
             flow := { pc := pc, lsn := lsn, loops := (flowOf c e).loops.map (logicalLoop c e), ended := false,
                       seg := none } }

/-- The active loop with end unit `e` that was started last. -/
def lastLoop (l : Vector LoopCtr 4) (e : Nat) : Option Nat :=
  ((List.range 4).filter fun n => (l.getD n .none).active && (l.getD n .none).stop == e).foldl
    (fun best n => match best with
      | none => some n
      | some b => if (l.getD b .none).rank < (l.getD n .none).rank then some n else some b) none

/-- The loop-back after a word whose last unit is at `e`: the loops as they stand after it, and START where one goes back. -/
def loopBack (fuel : Nat) (l : Vector LoopCtr 4) (e : Nat) : Vector LoopCtr 4 × Option Nat :=
  match fuel with
  | 0 => (l, none)
  | k + 1 =>
    match lastLoop l e with
    | none => (l, none)
    | some n =>
      let c := l.getD n .none
      let cnt := c.count - 1
      if cnt ≠ 0 then (l.setIfInBounds n { c with count := cnt }, some c.start)
      else loopBack k (l.setIfInBounds n { c with count := cnt, active := false }) e

/-- The end unit in a slice's text of a loop that a logical position stands in and whose last word the slice has already run: its next word
at or after the position lies behind the loop. -/
def passedEnd (f : Flow) (mine : Vector LoopCtr 4) (o : Nat) : Option Nat :=
  ((List.range 4).find? fun n =>
    let l := f.loops.getD n .none
    l.active && l.start ≤ f.pc.toNat && f.pc.toNat ≤ l.stop && (mine.getD n .none).stop < 4 * o).map fun n => (mine.getD n .none).stop

/-- Whether a unit offset is the first of a slice's words of its segment: a slice placed there has the whole segment ahead (19 R372). -/
def entersSegment (c : Core) (e : Engine) (o : Nat) : Bool :=
  let pc := 4 * logicalUnit c e o
  match c.map.segs.find? fun r => r.start ≤ pc && pc < r.start + 4 * r.len with
  | some r => (resumeAt c e (r.start / 4)).map Prod.snd == some o
  | none => false

/-- A slice placed at a logical position (18 R353). Where it has already run the last word of a loop that goes on, it has gone back with it: the
distance to its next word is the same on every path (14 R285; DEDUCED, log 36). -/
def sliceAt (c : Core) (f : Flow) (e : Engine) : Flow :=
  let mine := f.loops.map (sliceLoop c e)
  match resumeAt c e (f.pc.toNat / 4) with
  | none => { pc := 0, lsn := 2 ^ 64 - 1, loops := mine, ended := true, seg := none }
  | some (d, o) =>
    let r := match passedEnd f mine o with | some k => loopBack 4 mine k | none => (mine, none)
    let pc := r.2.getD (4 * o)
    { pc := BitVec.ofNat 64 pc, lsn := f.lsn + d, loops := r.1, ended := false,
      seg := if entersSegment c e (pc / 4) then some (0, 0) else none }

/-- Every slice of the core placed at its logical position (18 R353). -/
def Core.toSlices (c : Core) : Core :=
  match c.form with
  | .logical => c
  | .slices =>
    { c with eng := .c, flow := sliceAt c c.flow .c, waits := [], mode0 := (c.csr.vl, c.csr.rmode),
             parked := [(.s, sliceAt c c.flow .s), (.v, sliceAt c c.flow .v), (.m, sliceAt c c.flow .m)] }

/-! Loop starts (08 R156). -/

/-- The rank of a loop started now: above every active one. -/
def nextRank (l : Vector LoopCtr 4) : Nat := (l.toList.map fun c => if c.active then c.rank + 1 else 0).foldl max 0

/-- The position after a word of `n` units that completes in logical order (08 R156). -/
def after (n : Nat) (f : Flow) : Flow :=
  let r := loopBack 4 f.loops (f.pc.toNat + 4 * n - 4)
  { f with pc := (r.2.map (BitVec.ofNat 64)).getD (f.pc + BitVec.ofNat 64 (4 * n)), lsn := f.lsn + 1, loops := r.1 }

/-! Handles end (13 R257, R265, R273, R274). -/

/-- A see handle is dropped; at a version homed elsewhere its home is told, at a lost one no one. -/
def dropSee (s : State) (h : Handle) : State :=
  if lostHandle s h then s
  else if h.home = s.fabric then freeVersions (updVer s h.ver fun v => { v with see := v.see - 1 })
  else sendSure s s.me.task.part s.me.task.launch h.home [] (.seeDelta h.ver false)

/-- The drop of a fill handle reaches the version's home (13 R257). -/
def sealVer (s : State) (ver : Nat) : State :=
  freeVersions (updVer s ver fun v => if v.state = .filling then { v with state := .sealed, holder := .none } else v)

/-- An abandonment reaches the version's home (13 R257). -/
def abandonVer (s : State) (ver : Nat) : State :=
  freeVersions (updVer s ver fun v => if v.state = .filling then { v with state := .abandoned, holder := .none } else v)

/-- A fill handle's version is sealed, or told to be. -/
def sealHandle (s : State) (h : Handle) : State :=
  if lostHandle s h then s
  else if h.home = s.fabric then sealVer s h.ver
  else sendSure s s.me.task.part s.me.task.launch h.home [h.ver] (.seal h.ver false)

/-- A fill handle's version is abandoned, or told to be. -/
def abandonHandle (s : State) (h : Handle) : State :=
  if lostHandle s h then s
  else if h.home = s.fabric then abandonVer s h.ver
  else sendSure s s.me.task.part s.me.task.launch h.home [h.ver] (.seal h.ver true)

/-- A handle ends by a kill: a fill is abandoned, a see is dropped. -/
def killHandle (s : State) (h : Handle) : State := if h.fill then abandonHandle s h else dropSee s h

/-- The handles of a register file in ascending register number, recorded at depth `d` or deeper. -/
def handlesFrom (r : Regs) (d : Nat) : List Handle :=
  (List.range 32).filterMap fun n => match readH r n with | .held h k => if d ≤ k then some h else none | _ => none

/-- Every register recorded at depth `d` or deeper becomes `e`. -/
def clearHandles (r : Regs) (d : Nat) (e : HReg) : Regs :=
  { r with h := r.h.map fun x => match x with | .held _ k => if d ≤ k then e else x | _ => x }

/-- Handles of registers recorded at depth `d` or deeper end by a kill; the registers become `e`. -/
def killHandles (s : State) (d : Nat) (e : HReg) : State :=
  mapRegs ((handlesFrom s.me.regs d).foldl killHandle s) fun r => clearHandles r d e

/-- Handles at TEXIT: fills sealed in ascending register number, sees dropped (13 R273). -/
def exitHandles (s : State) : State :=
  mapRegs ((handlesFrom s.me.regs 0).foldl (fun t h => if h.fill then sealHandle t h else dropSee t h) s)
    fun r => clearHandles r 0 .empty

/-! Tasks leave (16 R322, 15 R296-R298). -/

/-- Tasks of a launch (02 R24). -/
def taskCount (r : LaunchRec) : Nat := r.extents.foldl (· * ·) 1

/-- A member leaves its crew: its arrival is removed and the phases are tested again (16 R322). -/
def leaveCrew (s : State) (crew serial : Nat) : State :=
  { s with crews := (s.crews.map fun c =>
      if c.id = crew then
        settleCrew { c with members := c.members.filter (· != serial),
                            bars := c.bars.map fun b => { b with arr := b.arr.filter (· != serial),
                                                                 tgt := b.tgt.filter fun t => t.1 != serial } }
      else c).filter fun c => !c.members.isEmpty }

/-- A core whose task has ended: L1, and what the core keeps between tasks (03 R58, R59). -/
def Core.vacate (c : Core) : Core :=
  { Core.idle c.id with l1 := c.l1, lastCtx := c.lastCtx, defer := c.defer, costs := c.costs }

/-- A post under way arrives at its target core; it saturates (16 R315, R317). -/
def arrivePost (s : State) (p : Nat × Nat × Nat × Nat) : State := onCore p.1 (fun t => mapRegs t fun r => postS r p.2.1 p.2.2.1) s

/-- Posts under way to a core arrive: before its task is saved they are bound to be performed (02 R43). -/
def arriveAll (s : State) (g : Nat) : State :=
  (s.spostq.filter fun p => p.1 == g).foldl arrivePost { s with spostq := s.spostq.filter fun p => p.1 != g }

/-- Posts under way to a core whose task has ended reach no one. -/
def dropPosts (s : State) (g : Nat) : State := { s with spostq := s.spostq.filter fun p => p.1 != g }

/-- The first fault of a launch is kept, with its record, for its completion event (15 R298, 18 R344). -/
def noteFault (s : State) (launch : Nat) (r : FaultRec) : State :=
  updLaunch s launch fun l =>
    { l with first := match l.first with | some f => some f | none => some (r.code, r.lsn),
             record1 := match l.record1 with | some f => some f | none => some r }

/-- A task of a launch has ended: it no longer counts as released early (15 R301). -/
def leaveLaunch (s : State) (launch serial : Nat) (f : Launch → Launch) : State :=
  updLaunch s launch fun l => f { l with released := l.released.filter fun n => n != serial }

/-- The moving core's task is killed (13 R273): its queues are discarded, its handles end, it leaves its crew. What its L1 holds dirty is
written back as its own (17 R336). -/
def killMe (s : State) : State :=
  let t := killHandles (writeBackAll s) 0 .empty
  let t := leaveCrew t s.me.task.crew s.me.task.serial
  let t := leaveLaunch t s.me.task.launch s.me.task.serial fun l => { l with killed := l.killed + 1 }
  dropPosts { t with me := t.me.vacate } s.me.id

/-- Do `f` on behalf of a task that no core runs now: what its handles send goes out under its partition and launch. -/
def asTask (t : Task) (f : State → State) (s : State) : State :=
  let u := f { s with me := { s.me with task := t } }
  { u with me := { u.me with task := s.me.task } }

/-- A saved task is killed. -/
def killSaved (s : State) (v : Saved) : State :=
  let t := asTask v.core.task (fun u => (handlesFrom v.core.regs 0).foldl killHandle u) s
  let t := leaveCrew t v.core.task.crew v.core.task.serial
  let t := leaveLaunch t v.core.task.launch v.core.task.serial fun l => { l with killed := l.killed + 1 }
  { t with saved := t.saved.filter fun u =>
      !(u.core.task.launch == v.core.task.launch && u.core.task.serial == v.core.task.serial) }

/-- The undispatched tasks of a launch are cancelled; bound ones have their handles ended (13 R272, 15 R296). -/
def cancelRest (s : State) (launch : Nat) : State :=
  match launchOf s launch with
  | none => s
  | some l =>
    let t := asTask { Task.none with part := l.part, launch := launch }
      (fun w => l.bound.foldl (fun u b => (b.handles.map Prod.snd).foldl killHandle u) w) s
    updLaunch t launch fun l =>
      { l with cancelled := l.cancelled + (taskCount l.record - l.next) + l.bound.length, next := taskCount l.record,
               bound := [] }

/-! Acceptance (15 R297). -/

/-- A record accepted from a source: it receives its launch ID. (DESIGN CHOICE, log 37.) -/
def acceptLaunch (s : State) (part source arrival : Nat) (r : LaunchRec) (handler : Bool) : State × Nat :=
  let n := (((partOf s part).map fun p => (assoc p.seqs source).getD 0).getD 0) + 1
  let id := part * 2 ^ 64 + source * 2 ^ 56 + n
  let l : Launch := { id := id, arrival := arrival, accepted := uncore s, spots := [], lost := [], record1 := none, part := part, record := r, handler := handler, next := 0,
                      bound := [], exited := 0, killed := 0, cancelled := 0, released := [], first := none, held := false,
                      noRoom := false, waited := 0, done := false }
  (updPart { s with launches := s.launches ++ [l] } part fun p => { p with seqs := reassoc p.seqs source n }, id)

/-- Whether an arrival comes before another: the earlier one, in one cycle the one of lower source (15 R297). -/
def comesBefore (a b : Pending) : Bool :=
  if a.cycle ≠ b.cycle then a.cycle < b.cycle else if a.source ≠ b.source then a.source < b.source else a.arrival < b.arrival

/-- The arrival of a partition that is accepted next, of the records in its queues and the head of its pool. -/
def nextArrival (p : Partition) : Option Pending :=
  (p.queues ++ p.pool.take 1).foldl (fun best e => match best with
    | none => some e
    | some b => if comesBefore e b then some e else some b) none

/-- A record leaves its queue or the pool; the oldest ring record follows into the pool (15 R299). -/
def takeArrival (p : Partition) (e : Pending) : Partition :=
  if e.source = 64 then { p with pool := p.pool.tail ++ p.ring.take 1, ring := p.ring.drop 1 }
  else { p with queues := p.queues.filter fun q => q.arrival != e.arrival }

/-- Every record still on its way to acceptance is accepted, so that its completion event counts its tasks as cancelled (15 R296; DESIGN
CHOICE, log 37). -/
def acceptRest (fuel : Nat) (s : State) (part : Nat) : State :=
  match fuel with
  | 0 => s
  | n + 1 =>
    match (partOf s part).bind nextArrival with
    | none => s
    | some e => acceptRest n (acceptLaunch (updPart s part fun p => takeArrival p e) part e.source e.arrival e.record false).1 part

/-- Both queues of a core drain before its task is stopped by force; L1 is written back and invalidated (11 R225). -/
def settleCore (s : State) : State := dropClean (writeBackAll (drainBoth s))

/-! Saving (18 R350, R351). -/

/-- Bytes of a core's scratch with its poison. -/
def scratchOf (s : State) (g : Nat) : List Host.Cell := cellsSlice s.mem (scratchKey g 0) Config.scratchBytes

/-- The poisoned sectors of a core's scratch. -/
def scratchPoison (s : State) (g : Nat) : List Nat :=
  (s.marks.filter fun m => scratchKey g 0 ≤ 64 * m.1 && 64 * m.1 < scratchKey (g + 1) 0).map
    fun m => m.1 - scratchKey g 0 / 64

/-- A core's task as an image holds it: queues, L1 and logs empty. -/
def Core.image (c : Core) : Core :=
  { c with wait := .none, waits := [], lqC := [], sqC := [], sqS := [], l1 := [], rewind := [], posts := [], fault := none }

/-- The image of a core's task, with the code held with it, a BKPT's tag and whether its header is sound (18 R350, R351). -/
def imageOf (s : State) (c : Core) (cause : SaveCause) (raised : Option Raise) (tag : Nat) (sound : Bool) : Saved :=
  { core := c.image, cause := cause, raised := raised, tag := tag, scratch := scratchOf s c.id, poison := scratchPoison s c.id,
    release := false, deliver := false, onCore := none, sound := sound }

/-- The image of the moving core's task is saved, with its bytes in the partition's save area; the core is free afterwards. -/
def saveMe (s : State) (cause : SaveCause) (raised : Option Raise) (tag : Nat) : State :=
  let t := arriveAll (settleCore s) s.me.id
  let t := takePlace t
  let v := imageOf t t.me cause raised tag true
  writeImage { t with me := t.me.vacate, saved := t.saved ++ [v] } v

/-- The moving core's task is halted by the debugger: its image stands on its core, which stays reserved to it, so that its crew still
reaches its semaphores, queues and scratch (18 R360, 16 R322). -/
def haltMe (s : State) (tag : Nat) : State :=
  let t := takePlace (settleCore s)
  writeImage { t with me := { t.me.image with run := .halted tag true } } (imageOf t t.me .debugger none tag true)

end Sys2Proof.Machine
end

