-- ==== Sys2Proof/Machine/Ops.lean ====
section
/-! DEFINITION. The operations every meaning goes through: time charged, a word completed, the rebuild, taking an exception and
returning from one (18 R341-R361, 19 R362-R369), and issuing a word in both forms (02 R41, R42, 05 R94, R100, R101, 14 R287,
R292, R293). -/

namespace Sys2Proof.Machine

/-! Time. -/

/-- Core-cycles charged to a partition's virtual time, 256 / W_p each, as a rational count (15 R305). -/
def chargePart (s : State) (p d : Nat) : State :=
  updPart s p fun q => { q with vnum := q.vnum + 256 * d * (q.vden / max 1 q.cfg.weight) }

/-- The cycles a word took: CYCLE up, CYCLEFT down, never past 0 (03 R57, 15 R310; DESIGN CHOICE, log 1). -/
def charge (s : State) : State :=
  let d := min (s.me.costs.headD 1) s.me.csr.cycleft
  chargePart { s with me := { s.me with costs := s.me.costs.tail,
                                        csr := { s.me.csr with cycle := s.me.csr.cycle + d,
                                                               cycleft := s.me.csr.cycleft - d } } } s.me.task.part d

/-! Raising a code. -/

/-- A code raised by the word the moving slice stands at. -/
def raiseOf (s : State) (code : Nat) (addr : Option Nat) : Raise :=
  { code := code, eng := s.me.eng, origin := s.me.eng, addr := addr, unit := none, info := 0,
    rho := if s.me.form = .logical ∨ s.me.flow.lsn ≤ frontier s.me then s.me.rho else 0, after := false, unchecked := false,
    lsn := s.me.flow.lsn, pc := logicalPc s.me, insn := [] }

/-- What a meaning answers: the word completes (`done`); a LOOP skips to a PC of the slice's own text (`skip`); a flow word is
taken to such a PC (`jump`) or a branch to a logical PC (`branch`); the word waits; it raises a code; its task is gone. -/
inductive Res where
  | done (s : State)
  | skip (s : State) (pc : Word)
  | jump (s : State) (pc : Word)
  | branch (s : State) (pc : Word)
  | wait (s : State) (w : Wait)
  | raise (s : State) (r : Raise)
  | gone (s : State)
  deriving DecidableEq, Repr

/-- The word raises a code without an address. -/
def Res.fail (s : State) (code : Nat) : Res := .raise s (raiseOf s code none)

/-- The word raises a code at a byte address. -/
def Res.failAt (s : State) (code addr : Nat) : Res := .raise s (raiseOf s code (some addr))

/-! The fault record (18 R343-R345). -/

/-- The unit ID of an engine of a core. -/
def engineUnit (s : State) (e : Engine) : UnitId :=
  { kind := 1, module := s.fabric, die := coreDie s.me.id, index := 4 * s.me.id + engIdx e }

/-- The unit that holds a byte of a tile version: by its pool a channel, a bank or a slice of its die, of a number that the spec leaves to
the module (13 R258, 17 R422; free value, DEDUCED, log 11). -/
def poolUnit (module die pool ver off : Nat) : UnitId :=
  let n := Config.versionUnit module ver (off / 64)
  match pool with
  | 0 => { kind := 5, module := module, die := die, index := n % 96 }
  | 1 => { kind := 4, module := module, die := die, index := n % 48 }
  | _ => { kind := 2, module := module, die := die, index := n % 48 }

/-- The unit that holds byte `off` of a version homed on another module, which an access at `addr` of the tile window reached: the address
gives pool and die (13 R256). -/
def farUnit (home ver addr off : Nat) : UnitId := poolUnit home (addr / 2 ^ 49 % 2) (addr / 2 ^ 50 % 4) ver off

/-- The unit that holds a byte (19 R371). -/
def storeUnit (s : State) (k : Nat) (e : Engine) : UnitId :=
  let u (kind die index : Nat) : UnitId := { kind := kind, module := s.fabric, die := die, index := index }
  if k < 2 ^ 40 then
    if sliceLost s k then u 2 (keyDie k) (homeSlice s.rmap (keyDie k) (physOf s k) % 48) else u 5 (keyDie k) (k / Config.rangeBytes % 96)
  else if k < 2 ^ 41 then
    u (if sliceLost s k then 2 else 4) ((k - 2 ^ 40) / Config.bankBytes / 48) ((k - 2 ^ 40) / Config.bankBytes % 48)
  else if k < 2 ^ 42 then u 2 ((k - 2 ^ 41) / (16 * Config.wayBytes) / 48) ((k - 2 ^ 41) / (16 * Config.wayBytes) % 48)
  else if k < 2 ^ 44 then engineUnit s e
  else
    let n := (k - 2 ^ 44) / 2 ^ 22
    match verOf s n with | some v => poolUnit s.fabric v.die v.pool n (k % 2 ^ 22) | none => u 0x0A 0 0

/-- A unit ID as a 64-bit value (18 R343). -/
def UnitBits (u : UnitId) : Nat :=
  u.kind % 2 ^ 8 * 2 ^ 56 + u.module % 2 ^ 12 * 2 ^ 40 + (if u.kind % 2 ^ 8 = 7 then 0 else u.die % 2 * 2 ^ 39) + u.index % 2 ^ 32

/-- The flags of a record: ADDRV, RESUMABLE, UNCHECKED, HDL, RECF. -/
def recFlags (s : State) (r : Raise) (recf : Bool) : Nat :=
  (if r.addr.isSome then 1 else 0) + (if r.code = 0x0201 ∨ r.code = 0x0701 then 2 else 0)
    + (if r.unchecked then 4 else 0) + (if s.me.hdl then 8 else 0) + (if recf then 16 else 0)

/-- The record of a code at the rebuilt state, with t7 as `old` (18 R344). -/
def mkRec (s : State) (r : Raise) (old : Word) (recf : Bool) : FaultRec :=
  { code := r.code, slice := engIdx r.origin, depth := s.me.regions.length, part := s.me.task.part, flags := recFlags s r recf,
    pc := r.pc, lsn := r.lsn, addr := r.addr.getD 0, unit := r.unit.getD (engineUnit s r.origin), taskid := s.me.task.taskid,
    launch := s.me.task.launch % 2 ^ 64, rho := if natOf (r.insn.take 4) / 2 ^ 29 = 6 then r.rho else 0, info := r.info, oldT7 := old, time := s.time, cycle := s.me.csr.cycle,
    insn := r.insn }

/-- The 128 bytes of a record. -/
def recBytes (r : FaultRec) : List Byte :=
  bytesOf 2 r.code ++ bytesOf 1 r.slice ++ bytesOf 1 r.depth ++ bytesOf 1 r.part ++ bytesOf 1 r.flags ++ bytesOf 2 0
    ++ bytesOf 8 r.pc.toNat ++ bytesOf 8 r.lsn ++ bytesOf 8 r.addr ++ bytesOf 8 (UnitBits r.unit) ++ bytesOf 8 r.taskid.toNat
    ++ bytesOf 8 r.launch ++ bytesOf 2 r.rho ++ bytesOf 2 r.info ++ bytesOf 4 0 ++ bytesOf 8 r.oldT7.toNat
    ++ bytesOf 8 r.time ++ bytesOf 8 r.cycle ++ bytesOf 8 0 ++ padTo 24 r.insn ++ bytesOf 8 0

/-- Where the record goes: none where FAULTREC is 0 or its 128 bytes fail the checks (18 R345). -/
def recordAt (s : State) : State × Option Acc1 :=
  if s.me.csr.faultrec = 0 then (s, none)
  else
    match checkAddr s s.me.csr.faultrec.toNat 128 true false with
    | (t, .ok a) => (t, some a)
    | (t, _) => (t, none)

/-- The write of the record: L1's bytes of its two sectors are written back and invalidated, each sector is written whole
where it is performed (18 R344). -/
def writeRecord (s : State) (a : Acc1) (r : FaultRec) : State :=
  let bs := recBytes r
  let t := if a.global then flushSector (flushSector s a.key) (a.key + 64) else s
  let d := coreDie s.me.id
  writeThrough (writeThrough t s.me.task.part d a.key (bs.take 64) a.global) s.me.task.part d (a.key + 64) (bs.drop 64) a.global

/-! The rebuild (18 R346-R349). -/

/-- One register write undone (02 R42). -/
def undoOne (c : Core) (u : Undo) : Core :=
  let r := c.regs
  match u with
  | .x i v ok => { c with regs := { r with x := r.x.setIfInBounds i v,
                                           xv := if ok then r.xv ||| (1#64 <<< i) else r.xv &&& ~~~(1#64 <<< i) } }
  | .p i v ok => { c with regs := { r with p := r.p.setIfInBounds i v,
                                           pv := if ok then r.pv ||| (1#24 <<< i) else r.pv &&& ~~~(1#24 <<< i) } }
  | .t i v => { c with regs := writeT r i v }
  | .flow e l =>
    if c.eng = e then { c with flow := { c.flow with loops := l } }
    else { c with parked := c.parked.map fun p => if p.1 = e then (p.1, { p.2 with loops := l }) else p }
  | .csr k => { c with csr := { k with cycle := c.csr.cycle, cycleft := c.csr.cycleft } }
  | .v i v ok => { c with regs := { r with v := r.v.setIfInBounds i v,
                                           vv := if ok then r.vv ||| (1#64 <<< i) else r.vv &&& ~~~(1#64 <<< i) } }
  | .acc i a => { c with regs := writeA r i a }
  | .ck i v => { c with regs := writeCk r i v }
  | .mqrun i =>
    let m := c.str.mq.getD i .empty
    { c with str := { c.str with mq := c.str.mq.setIfInBounds i { m with runs := m.runs.dropLast } } }
  | .qdone i q => { c with str := { c.str with q := c.str.q.setIfInBounds i q } }
  | .sem i add sub => { c with regs := writeS r i (readS r i + sub - add) }
  | .same => c
  | .word => c

/-- Every log entry at `f` or above undone, youngest first (18 R347, step 3; the log holds the youngest first), but what a word that
faults at `f` keeps (05 R104). -/
def rewindTo (c : Core) (f : Nat) : Core :=
  { (c.rewind.filter fun e => f ≤ e.lsn && !(e.kept && e.lsn == f)).foldl (fun d e => undoOne d e.undo) c with rewind := [] }

/-- Transit entries sorted by `f`; q and mq entries fetched and not popped are discarded (18 R347, steps 3 and 4). -/
def sortTransit (c : Core) (f : Nat) : Core :=
  let unpop (p : Option Nat) : Option Nat := p.bind fun l => if f ≤ l then none else some l
  let st := c.str
  { c with str :=
    { q := st.q.map fun q => if q.out then q else { q with fifo := [], held := [], part := [] },
      mq := st.mq.map fun m => { m with fifo := [], part := [] },
      ch := st.ch.map fun l => (((l.filter fun e => e.tag < f).map fun e => { e with popped := unpop e.popped }).filter
        fun e => e.popped.isNone),
      dq := st.dq.map fun l => ((l.filter fun e => e.tag < f).map fun e =>
        { e with popped := e.popped.filter fun p => p.2 < f }),
      modeS := st.modeS.filter fun e => e.tag < f,
      modeV := st.modeV.filter fun e => e.tag < f,
      modeM := st.modeM.filter fun e => e.tag < f } }

/-- Whether a post of SYNC19 is due: its word's results are written, which for a stream command is when it has left the queue, and one
at the frontier finds it at its LSN (05 R94). -/
def postDue (c : Core) (p : PendPost) : Bool :=
  (!p.late || p.lsn ≤ frontier c) && !(p.eng == .s && c.sqS.any fun q => q.lsn == p.lsn)

/-- The posts that are due are made (05 R94). -/
def firePosts (s : State) : State :=
  let t := (s.me.posts.filter (postDue s.me)).foldl (fun u p => mapRegs u fun r => postS r p.sem.toNat 1) s
  { t with me := { t.me with posts := s.me.posts.filter fun p => !postDue s.me p } }

/-- Every post still to be made is made: its word lies below the step of a rebuild. -/
def fireAll (s : State) : State :=
  let t := s.me.posts.foldl (fun u p => mapRegs u fun r => postS r p.sem.toNat 1) s
  { t with me := { t.me with posts := [] } }

/-- A command is discarded whose sectors have begun to depart: those that have are still acknowledged, and it updates no checksum register and
posts nothing (19 R366). -/
def cutShort (s : State) (c : SCmd) : State :=
  { s with outs := s.outs.map fun o => if some o.xid = c.xid then
      { o with total := o.acks.length + o.sends.length, posts := [], ck := none } else o }

/-- Queues at the rebuild (18 R347, step 5; 19 R366): what is at `f` or above is discarded, loads below perform, stores and
copies below depart; an unwind to a region opened at `o` discards those from `o` on that have not departed. -/
def settleQueues (s : State) (f : Nat) (o : Option Nat) : State :=
  let t := { s with me := { s.me with lqC := s.me.lqC.filter fun e => e.lsn < f, sqC := s.me.sqC.filter fun e => e.lsn < f,
                                      sqS := s.me.sqS.filter fun c => c.lsn < f,
                                      posts := s.me.posts.filter fun p => p.lsn < f } }
  let t := performAll t
  let keep := o.getD f
  let t := (t.me.sqS.filter fun c => keep ≤ c.lsn).foldl cutShort t
  let t := { t with me := { t.me with sqC := t.me.sqC.filter fun e => e.lsn < keep || e.mark.isSome,
                                      sqS := t.me.sqS.filter fun c => c.lsn < keep } }
  drainBoth t

/-- The rebuild to `f`, at logical PC `pc` as the slice `e` stands there (18 R347, steps 3 to 5). -/
def rebuildTo (s : State) (f : Nat) (pc : Word) (e : Engine) (o : Option Nat) : State :=
  let c := sortTransit (rewindTo s.me f) f
  let t := fireAll (settleQueues { s with me := c } f o)
  { t with me := { t.me.toLogical pc f e with wait := .none, waits := [], fault := none, posts := [] } }

/-- The moving core's task is killed from outside: what lies below the frontier is performed first (02 R43). One that has passed
its TEXIT completes (15 R309). -/
def killNow (s : State) : State :=
  match s.me.run with
  | .running => killMe (rebuildTo s (frontier s.me) (frontPc s.me) (frontSlice s.me) none)
  | .starting => killMe s
  | .stopping _ => killMe s
  | .halted _ _ => killMe s
  | _ => s

/-- Every task of a context is killed, its undispatched launches are cancelled, those still on their way to acceptance too
(13 R273, 15 R296). -/
def killContext (s : State) (part : Nat) : State :=
  let n := ((partOf s part).map fun p => p.queues.length + p.pool.length + p.ring.length).getD 0
  let s := acceptRest n s part
  let t := (allCores s).foldl (fun u c =>
    if c.run != .idle && c.task.part == part then onCore c.id killNow u else u) s
  let t := (t.saved.filter fun v => v.core.task.part == part).foldl killSaved t
  (t.launches.filter fun l => l.part == part && !l.done).foldl (fun u l => cancelRest u l.id) t

/-! The fault policy (15 R296). -/

/-- What follows a fault that nothing caught: the task is killed or held, and the rest as the policy says; `always` kills the
task under policy 2 as well (18 R358); `told` is the fault's record. -/
def faultPolicy (s : State) (r : Raise) (always : Bool) (told : FaultRec) : State :=
  let launch := s.me.task.launch
  let part := s.me.task.part
  let t := noteFault s launch told
  match s.me.task.policy with
  | 0 => killMe t
  | 1 => cancelRest (killMe t) launch
  | 2 => updLaunch (if always then killMe t else saveMe t .policy2 (some r) 0) launch fun l => { l with held := true }
  | _ => killContext (killMe t) part

/-! Where a code goes (18 R354). -/

/-- The routes. -/
inductive Route where
  | hold
  | trap
  | emul
  | double
  | region
  | policy
  deriving DecidableEq, Repr

/-- Items 5 and 6: a region catches all but a second 0x0701 (15 R310, 19 R369). -/
def routeOpen (c : Core) (code : Nat) : Route :=
  if c.regions.isEmpty || (code == 0x0701 && c.granted) then .policy else .region

/-- The route of a code, and the code as it is routed (18 R354, R357, R358). `delivered`: the host ordered delivery of a held
0x0201, which routes from item 4 on (DEDUCED, log 12). -/
def routeOf (s : State) (code : Nat) (delivered : Bool) : Route × Nat :=
  let c := s.me
  let can := !c.hdl && (recordAt s).2.isSome
  if code = 0x0201 ∧ delivered = false then (.hold, code)
  else if code / 256 = 9 ∧ c.csr.trapvec ≠ 0 ∧ can = true then
    if isFirst c c.csr.trapvec.toNat then (.trap, code) else (routeOpen c 0x0103, 0x0103)
  else if code = 0x0101 ∧ c.emulate = true ∧ c.csr.emuvec ≠ 0 ∧ can = true then
    if isFirst c c.csr.emuvec.toNat then (.emul, code) else (routeOpen c 0x0103, 0x0103)
  else if c.hdl = true ∧ code ≠ 0x0201 then (.double, 0x0107)
  else (routeOpen c code, code)

/-- Every slice goes to a logical PC; its first instruction takes LSN `f` (18 R353, R357). -/
def redirect (s : State) (pc : Word) (f : Nat) : State :=
  { s with me := Core.toSlices { s.me with eng := .c, rho := 0, parked := [], flow := { s.me.flow with pc := pc, lsn := f, ended := false } } }

/-- TAKING AN EXCEPTION: entry of the trap or emulation handler at `vec` (18 R357). The record is written with OLDT7, t7 takes
the PC of the instruction that follows in logical order, HDL (and EMU) are set, every slice goes to `vec`. The state is the
rebuilt one, where a TRAP has already completed. -/
def takeException (s : State) (r : Raise) (emul : Bool) (vec : Word) (a : Acc1) : State :=
  let f := s.me.flow.lsn
  let t := writeRecord s a (mkRec s r (readT s.me.regs 7) false)
  let next := if emul then after (r.insn.length / 4) t.me.flow else t.me.flow
  let t := { t with me := { t.me with flow := { t.me.flow with loops := next.loops },
                                      regs := writeT t.me.regs 7 next.pc, hdl := true, emu := t.me.emu || emul } }
  redirect t vec f

/-- RETURN FROM AN EXCEPTION: HDL and EMU are cleared and every slice goes to t7 (18 R358). -/
def returnException (s : State) (f : Nat) : State :=
  redirect { s with me := { s.me with hdl := false, emu := false } } (readT s.me.regs 7) f

/-- Whether an entry into the trap or emulation handler is not made for want of a record (18 R345, R354). -/
def entryMissed (s : State) (code : Nat) : Bool :=
  let c := s.me
  (c.hdl == false) && c.csr.faultrec != 0
    && ((code / 256 == 9 && c.csr.trapvec != 0) || (code == 0x0101 && c.emulate && c.csr.emuvec != 0)) && (recordAt s).2.isNone

/-- An image is held: its record goes to the host with it, code 0 and slice 7 where no code is held with it (18 R344). -/
def tellImage (s : State) (r : FaultRec) : State := { s with hostOut := s.hostOut ++ [.fault r] }

/-- The host is told of a code with its record; `recf`: a handler was not entered because the record could not be written (18 R344,
R345). -/
def tellHost (s : State) (r : Raise) (recf : Bool) : State := tellImage s (mkRec s r (readT s.me.regs 7) recf)

/-- A fault that nothing catches reaches the host with its record, then the policy applies. (DEDUCED, log 52.) -/
def toPolicy (s : State) (r : Raise) (always recf : Bool) : State :=
  faultPolicy (tellHost s r recf) r always (mkRec s r (readT s.me.regs 7) recf)

/-- The innermost region unwinds (19 R368): its handles end, it is popped, its record is written, every slice goes to its
handler; a handler that is no instruction passes 0x0103 on to the next region or the policy (19 R364). -/
def unwind (fuel : Nat) (s : State) (r : Raise) (recf : Bool) : State :=
  match s.me.regions with
  | [] => toPolicy s r false recf
  | g :: rest =>
    let depth := s.me.regions.length
    let t := killHandles s depth .empty
    let t := { t with me := { t.me with regions := rest } }
    if isFirst t.me g.handler.toNat then
      let w := recordAt t
      let t := match w.2 with
        | some a => writeRecord w.1 a { mkRec t r (readT t.me.regs 7) false with depth := depth }
        | none => w.1
      redirect t g.handler t.me.flow.lsn
    else match fuel with
      | 0 => toPolicy t { r with code := 0x0103 } false recf
      | n + 1 => unwind n t { r with code := 0x0103 } recf

/-- A code at its rebuilt state taken where its route leads (18 R354). -/
def takeRoute (t : State) (r : Raise) (route : Route) (recf : Bool) : State :=
  match route with
  | .hold => postEvent (saveMe (tellHost t r false) .systemFault (some r) 0) 0x0201 t.me.task.part t.me.task.launch 0 r.lsn
  | .trap => match recordAt t with
    | (u, some a) => takeException u r false u.me.csr.trapvec a
    | (u, none) => unwind 4 u r recf
  | .emul => match recordAt t with
    | (u, some a) => takeException u r true u.me.csr.emuvec a
    | (u, none) => unwind 4 u r recf
  | .double => toPolicy t r true recf
  | .region => unwind 4 t r recf
  | .policy => toPolicy t r false recf

/-- The cycle limit's own account: a first 0x0701 that a region takes is granted its cycles, and no later one of the task is contained
(15 R310, 19 R369). -/
def grantOnce (s : State) (code : Nat) (route : Route) : State :=
  if code ≠ 0x0701 then s
  else
    let c := if route = .region then { s.me with csr := { s.me.csr with cycleft := Config.grant } } else s.me
    { s with me := { c with granted := true } }

/-- The rebuild for a code and its routing (18 R347, R354). -/
def takeFault (s : State) (r : Raise) (delivered : Bool) : State :=
  let f := if r.after then r.lsn + 1 else r.lsn
  let q := routeOf { s with me := rewindTo s.me f } r.code delivered
  let o := match q.1 with | .region => (s.me.regions.head?).map Region.opened | _ => none
  let t := rebuildTo s f r.pc r.eng o
  let t := if r.after then
      { t with me := { t.me with flow := { after (r.insn.length / 4) { t.me.flow with lsn := r.lsn } with lsn := f } } }
    else t
  takeRoute (grantOnce { t with me := { t.me with rho := r.rho } } r.code q.1) { r with code := q.2 } q.1 (entryMissed t r.code)

/-- Whether every other slice has reached `f`, with every issued access of the C path before it (18 R347, step 2). -/
def othersAt (c : Core) (f : Nat) : Bool :=
  (c.parked.all fun p => f ≤ nextLsn p.2) && (match pendingC c with | some p => f ≤ p.1 | none => true)

/-- The step a raised code would be taken at; beyond every LSN without one. -/
def faultStep (c : Core) : Nat := match c.fault with | some r => if r.after then r.lsn + 1 else r.lsn | none => 2 ^ 64

/-- A word raises a code (18 R346): in logical form it is taken at once; in slices when the other slices have reached f, and the lower f wins,
of two words with one f the earlier: a TRAP completes before the word after it performs (18 R355). -/
def raiseCode (s : State) (r : Raise) : State :=
  match s.me.form with
  | .logical => takeFault s r false
  | .slices =>
    let f (x : Raise) := if x.after then x.lsn + 1 else x.lsn
    { s with me := { s.me with fault := match s.me.fault with
      | some old => if f r < f old ∨ (f r = f old ∧ r.lsn < old.lsn) then some r else some old
      | none => some r } }

/-- The unit that a sector's condition names: the one that holds it, or the core's whose L1 does. -/
def markUnit (s : State) (m : Mark) (key : Nat) (e : Engine) : UnitId := if m = .cache then engineUnit s e else storeUnit s key e

/-- The issued access of the C path that comes to act at a sector with a condition, before any fault known: its LSN, PC, address, key, and the
condition (08 R151, 11 R212). -/
def lateAccess (s : State) : Option (Nat × Word × Nat × Nat × Mark) :=
  let load := s.me.lqC.head?.bind fun e => if lqReady s e && !pastFault s e then (lqMark s e).map fun m => (e.lsn, e.pc, e.addr, e.key, m) else none
  let atomic := s.me.sqC.head?.bind fun e =>
    if e.atomic.isSome && e.lsn ≤ frontier s.me && sqReady s e then (atomicMark s e.key).map fun m => (e.lsn, e.pc, e.addr, e.key, m) else none
  match load, atomic with
  | some a, _ => if a.1 < faultStep s.me then some a else none
  | none, some a => if a.1 < faultStep s.me then some a else none
  | none, none => none

/-- That access raises the condition's code at its own LSN; an atomic's sector has been flushed from L1. -/
def raiseLate (s : State) : State :=
  match lateAccess s with
  | none => s
  | some (l, pc, addr, key, m) =>
    let d := s.me.turn .c
    let c := { d with flow := { d.flow with pc := pc, lsn := l } }
    let r := raiseOf { s with me := c } m.code (some addr)
    let u := if s.me.lqC.any fun e => e.lsn == l then s else flushSector s key
    raiseCode (countMark u s.me.task.part key m)
      { r with rho := 0, insn := bytesAt c r.pc, unit := some (markUnit s m key .c), unchecked := m == .uncorrectable && isTagged s key }

/-- A fault held until the slices reach it is taken once they have. -/
def settleFault (s : State) : State :=
  match s.me.fault with
  | none => s
  | some r =>
    if othersAt (s.me.turn r.eng) (if r.after then r.lsn + 1 else r.lsn) then takeFault s r false else s

/-- Forced stops in the order in which they apply (18 R361). -/
def stopRank (c : SaveCause) : Nat :=
  match c with | .debugger => 0 | .evicted => 1 | .suspended => 2 | .class0 => 3 | .systemFault => 4 | .policy2 => 5

/-- A forced stop put among those asked for. (DEDUCED, log 24.) -/
def insertStop (c : SaveCause) (l : List SaveCause) : List SaveCause :=
  match l with
  | [] => [c]
  | d :: rest => if c = d then l else if stopRank c < stopRank d then c :: l else d :: insertStop c rest

/-- A forced stop of a core's task is asked for; one that has passed its TEXIT completes instead (15 R309); under a debugger halt it waits
for the release (18 R361). -/
def askStop (s : State) (g : Nat) (cause : SaveCause) : State :=
  onCore g (fun t => if t.me.run = .idle ∨ t.me.run = .exiting then t
    else { t with me := { t.me with stops := insertStop cause t.me.stops } }) s

/-- The members of the moving core's crew that a forced stop still has to rebuild. -/
def unstopped (s : State) (cause : SaveCause) : List Nat :=
  ((allCores s).filter fun c => c.task.launch == s.me.task.launch && c.task.crew == s.me.task.crew
    && (c.run == .running || c.run == .starting) && c.stops.contains cause).map Core.id

/-- A core whose task is rebuilt for a stop saves its image. -/
def saveStopped (cause : SaveCause) (s : State) : State :=
  if s.me.run = .stopping cause then saveMe { s with me := { s.me with run := .running } } cause none 0 else s

/-- The moving core's task, rebuilt for a forced stop, is saved with its crew once every member has been rebuilt (16 R322). -/
def stopCrew (s : State) (cause : SaveCause) : State :=
  let t := { s with me := { s.me with run := .stopping cause } }
  if unstopped t cause ≠ [] then t
  else ((allCores t).filter fun c => c.task.launch == s.me.task.launch && c.task.crew == s.me.task.crew).foldl
    (fun u c => onCore c.id (saveStopped cause) u) t

/-- The first forced stop asked for is applied to the moving core's task (18 R346, R347, R361): the rebuild at the frontier,
at an eviction the end of its handles (13 R273), then the image. It waits for a fault that is on its way, and for the frontier to pass a word
whose gated act is done (02 R43). -/
def forceStop (s : State) : State :=
  match s.me.stops with
  | [] => s
  | cause :: rest =>
    if s.me.run ≠ .running ∨ s.me.fault.isSome = true ∨ frontier s.me < s.me.gate then s
    else
      let e := frontSlice s.me
      let t := rebuildTo s (frontier s.me) (frontPc s.me) e none
      let t := { t with me := { t.me with stops := rest, stepTo := none } }
      let r := { raiseOf t 0 none with insn := bytesAt t.me t.me.flow.pc, pc := t.me.flow.pc }
      let t := tellImage t { mkRec t r (readT t.me.regs 7) false with slice := 7 }
      if cause = .debugger then haltMe t 0 else stopCrew (if cause = .evicted then killHandles t 0 .stale else t) cause

/-! Completion. -/

/-- A C-path PC of the slice for a logical PC: itself in logical form, the resume table's in slices. -/
def ownPc (c : Core) (pc : Word) : Word :=
  match c.form with
  | .logical => pc
  | .slices => BitVec.ofNat 64 (4 * match resumeAt c c.eng (pc.toNat / 4) with | some (_, o) => o | none => 2 ^ 18)

/-- Where a word's completion leads. -/
inductive Next where
  | fall
  | skip (pc : Word)
  | taken (pc : Word)
  deriving DecidableEq, Repr

/-- The flow after a word of `n` units, LSN not yet advanced: the loop-back comes first unless the word is a taken branch
(08 R156). -/
def flowNext (n : Nat) (f : Flow) (nx : Next) : Flow :=
  match nx with
  | .fall => after n f
  | .skip pc =>
    let r := loopBack 4 f.loops (f.pc.toNat + 4 * n - 4)
    { f with pc := (r.2.map (BitVec.ofNat 64)).getD pc, lsn := f.lsn + 1, loops := r.1 }
  | .taken pc => { f with pc := pc, lsn := f.lsn + 1 }

/-- Completion in logical form: one LSN, the wait cleared, the cycles charged. -/
def complete (n : Nat) (s : State) (nx : Next) : State :=
  charge { s with me := { s.me with flow := flowNext n s.me.flow nx, wait := .none, rho := 0 } }

/-! Issue in slice form. -/

/-- SYNC19 of a stream, vector or matrix word. -/
def syncOf (i : Instr) : BitVec 19 :=
  match i with
  | .sloop _ _ _ y => y | .sdbr _ _ _ y => y | .vloop _ _ _ y => y | .vdbr _ _ _ y => y | .mloop _ _ _ y => y
  | .mdbr _ _ _ y => y | .vnop y => y | .mnop y => y
  | _ =>
    let w := encode i
    match i.units with
    | 3 => fieldAt 19 5 w
    | 6 => fieldAt 19 5 w
    | _ => 0

/-- Whether a word may be issued ahead of the frontier: of the control slice the opcodes 0x00 to 0x59 but QMARK, FENCE, PFENCE, TRAP
and TEXIT, which the model keeps at the frontier, and MAPRD, HSTAT and LDIL (02 R41, 13 R261, 20 R377); every stream and vector word,
whose departures and posts are gated by themselves (12 R229); the flow words of the matrix slice (10 R200). (DEDUCED, log 13.) -/
def runsAhead (i : Instr) : Bool :=
  match i with
  | .qmark => false | .fence _ => false | .pfence _ _ _ => false | .texit => false | .trap _ => false
  | .ldil _ _ => true | .nop => true | .maprd _ _ => true | .hstat _ _ => true
  | .mloop _ _ _ _ => true | .mdbr _ _ _ _ => true
  | _ => match i.units with | 1 => encode i / 2 ^ 24 < 0x5A | 3 => true | _ => false

/-- Whether a vector word names a q register. -/
def namesQ (w : VWord) : Bool := opFile w.dst == 1 || opFile w.sa == 1 || opFile w.sb == 1 || opFile w.sc == 1

/-- Entries of the rewind log an engine may hold (02 R42). -/
def logCap (e : Engine) : Nat := match e with | .c => Config.rewindC | .s => Config.rewindS | .v => Config.rewindV | .m => 0

/-- Whether an engine's undo stands for a register write, which takes a place in the log (02 R42): of q and mq the writes of the stream
slice do, its bindings; an entry popped is restored by the binding's count (09 R165). -/
def inLog (e : Engine) (u : Undo) : Bool :=
  match u with | .word => false | .sem _ _ _ => false | .qdone _ _ => e == .s | .mqrun _ => e == .s | _ => true

/-- Register writes of a control word by its opcode (08 R134): a channel push writes none, nor does a write to x0 or p0. -/
def writesC (u : Nat) : Nat :=
  let op := u / 2 ^ 24
  let xd := u / 2 ^ 18 % 64
  if op ≤ 0x12 then (if u % 64 / 16 = 2 ∨ xd = 0 then 0 else 1)
  else if op ≤ 0x2F ∨ op = 0x31 ∨ op = 0x32 ∨ (0x40 ≤ op ∧ op ≤ 0x46) ∨ op = 0x4B ∨ op = 0x4C ∨ op = 0x65 ∨ op = 0x66 ∨ op = 0x77 then
    (if xd = 0 then 0 else 1)
  else if op = 0x30 ∨ op = 0x50 ∨ op = 0x51 ∨ op = 0x53 ∨ op = 0x57 then 1 else 0

/-- The mode queue of the moving slice. -/
def modeQueue (c : Core) : List ModeEntry :=
  match c.eng with | .s => c.str.modeS | .v => c.str.modeV | .m => c.str.modeM | .c => []

/-- The newest entry of a kind whose LSN is below the word's own. -/
def modeNewest (c : Core) (rmode : Bool) : Option Nat :=
  ((modeQueue c).filter fun e => e.rmode == rmode && e.tag < c.flow.lsn).foldl (fun _ e => some e.val) none

/-- VL at the word's LSN. -/
def vlNow (c : Core) : Nat :=
  match c.form with | .logical => c.csr.vl.toNat | .slices => (modeNewest c false).getD c.mode0.1.toNat

/-- Register writes of a vector word: one for each repetition that writes a v register, a p register but p0, or an accumulator, none with
VL = 0 (09 R164, R165). -/
def writesV (c : Core) (w : VWord) (compare : Bool) : Nat :=
  if vlNow c = 0 ∨ opFile w.dst ≠ 0 then 0
  else ((List.range (w.rep.toNat + 1)).filter fun r => !compare || opIndex w.dst + r * stepOf w.strd 3 != 0).length

/-- Register writes of a word that take a place in its slice's log, but those of loop counters: a word of the control slice by its opcode, a
binding or a metadata run, a checksum register, a vector word's. -/
def writesOf (c : Core) (i : Instr) : Nat :=
  match i with
  | .ldil _ _ => 1
  | .ckrdLoad _ => 1
  | .sbind _ => 1 | .sunbind _ => 1 | .sgather _ => 1 | .sscatter _ => 1 | .smeta _ => 1
  | .vcmpOrdered w => writesV c w true | .vcmpUnordered w => writesV c w true | .vicmp w => writesV c w true
  | .vloop _ _ _ _ => 0 | .vdbr _ _ _ _ => 0 | .vnop _ => 0
  | _ =>
    match i.units with
    | 1 => writesC (encode i)
    | 3 => if encode i / 2 ^ 93 = 5 then writesV c (vFields (encode i)) false else 0
    | _ => 0

/-- Whether a word starts a loop counter. -/
def startsLoop (i : Instr) : Bool :=
  match i with | .loopReg _ _ _ => true | .loopImm _ _ _ => true | .sloop _ _ _ _ => true | .vloop _ _ _ _ => true | _ => false

/-- Loop counters that a word may write: its own, and those whose loop-back stands at its end (08 R156). -/
def loopPlaces (i : Instr) (f : Flow) : Nat :=
  (if startsLoop i then 1 else 0)
    + (f.loops.toList.filter fun l => l.active && l.stop == f.pc.toNat + 4 * i.units - 4).length

/-- Loop counters that a word has written. -/
def loopsWritten (a b : Flow) : Nat := ((List.range 4).filter fun j => a.loops.getD j .none ≠ b.loops.getD j .none).length

/-- Places a slice's log holds entries in. -/
def logUsed (c : Core) : Nat := (c.rewind.filter fun e => e.eng == c.eng && inLog e.eng e.undo).length

/-- Whether an engine's log has room for a word's writes, with the loop counters it may write, and its join window for the word (14 R293,
18 R348): 64 words; at the frontier nothing is ahead. -/
def logRoom (c : Core) (i : Instr) : Bool :=
  c.flow.lsn ≤ frontier c
    || ((c.rewind.filter fun e => e.eng == c.eng && e.undo == .word).length < 64
      && (c.eng == .m || logUsed c + writesOf c i + loopPlaces i c.flow ≤ logCap c.eng))

/-- The segment row a logical unit lies in. -/
def segmentAt (c : Core) (pc : Nat) : Option SegRow := c.map.segs.find? fun r => r.start ≤ pc && pc < r.start + 4 * r.len

/-- The segment check of a word that carries END, on the count and signature with the word itself (19 R372): 0x0605 for the
count, 0x0604 for the signature. -/
def segCheck (c : Core) (seg : Option (Nat × BitVec 32)) : Option Nat :=
  match seg, segmentAt c (logicalPc c).toNat with
  | some (n, g), some row =>
    if row.count.getD (engIdx c.eng) 0 ≠ n then some 0x0605
    else if row.sig.getD (engIdx c.eng) 0 ≠ g then some 0x0604 else none
  | _, _ => none

/-- A word counted into its segment. -/
def segCount (i : Instr) (f : Flow) : Option (Nat × BitVec 32) := f.seg.map fun p => (p.1 + 1, crc32c p.2 (encodeBytes i))

/-- Whether the control slice writes VL or RMODE somewhere: OP7 0x30 with CSR number 0x013 or 0x012 (08 R145). -/
def writesModes (c : Core) : Bool :=
  (c.code.toList.getD 0 []).any fun u => u.toNat / 2 ^ 24 == 0x30 && (u.toNat % 2 ^ 12 == 0x012 || u.toNat % 2 ^ 12 == 0x013)

/-- Whether a word may take its VL and RMODE now: the control slice has passed every CSRWR below it (03 R56, 08 R145; DEDUCED, log
57). -/
def modesKnown (c : Core) (fill : Bool) : Bool :=
  fill || (c.eng != .v && c.eng != .m) || writesModes c == false || decide (c.flow.lsn ≤ nextLsn (flowOf c .c))

/-- The fields of a word that can name an x register (05 R85, R89, R96, R98, 09 R162); a field of another use only makes an
access perform sooner. -/
def xFields (i : Instr) : List (BitVec 6) :=
  let w := encode i
  match i.units with
  | 1 => [fieldAt 6 18 w, fieldAt 6 14 w, fieldAt 6 12 w, fieldAt 6 6 w] ++ (if w / 2 ^ 24 = 0x53 then [62] else [])
  | 2 => [fieldAt 6 46 w, fieldAt 6 36 w, fieldAt 6 26 w, fieldAt 6 20 w, fieldAt 6 14 w, fieldAt 6 10 w]
  | 3 => [fieldAt 6 78 w, fieldAt 6 72 w, fieldAt 6 66 w, fieldAt 6 76 w, fieldAt 6 68 w, fieldAt 6 60 w, fieldAt 6 52 w]
  | 6 => [fieldAt 6 64 w]
  | _ => []

/-- The x registers an issued load or atomic has yet to write (08 R150, 12 R251). -/
def owed (c : Core) : List (BitVec 6) :=
  (c.lqC.filterMap fun e => if e.mark.isNone && e.xd != 0 then some e.xd else none)
    ++ c.sqC.filterMap fun e => e.atomic.bind fun a => if a.xd = 0 then none else some a.xd

/-- Whether the moving slice stands where it goes no further: at the end of a single step (18 R360), or, while a forced stop or an expired
cycle limit waits for the frontier, behind the last word whose gated act is done (02 R43). -/
def pastStop (c : Core) : Bool :=
  (match c.stepTo with | some n => decide (n ≤ c.flow.lsn) | none => false)
    || (((!c.stops.isEmpty && c.fault.isNone) || c.csr.cycleft == 0) && decide (c.gate ≤ c.flow.lsn))

/-- What stands before a word in slice form: a register that an older access still owes, room in the logs, the end of a single step, the frontier for a gated word, the wait of
SYNC19, and for a vector word that names a q register the stream slice beyond it (05 R94, 14 R287, R292, R293, 18 R360). None while
it must wait. -/
def admitSlice (i : Instr) (s : State) : Option State :=
  let c := s.me
  let f := c.flow
  let fill := (annOf c c.eng f)[14]
  let y := syncOf i
  let sem := y.toNat / 2 ^ 10 % 256
  let q := match i with | .vloop _ _ _ _ => false | .vdbr _ _ _ _ => false | .vnop _ => false
                        | _ => c.eng == .v && namesQ (vFields (encode i))
  if (owed c).any (fun r => (xFields i).contains r) = true then none
  else if logRoom c i = false ∨ pastStop c = true then none
  else if (runsAhead i || (fill && c.eng != .m)) = false ∧ frontier c < f.lsn then none
  else if (q = true ∧ nextLsn (flowOf c .s) ≤ f.lsn) ∨ modesKnown c fill = false then none
  else if y[18] = true then
    if readS c.regs sem = 0 then none
    else some (mapRegs s fun r => writeS r sem (readS r sem - 1))
  else some s

/-- The register writes of a word between two states of its core, as log entries (02 R42): not those that older accesses owe,
nor the posts of commands that depart meanwhile. -/
def undoDiff (a b : Core) : List Undo :=
  let r := a.regs
  let t := b.regs
  let xs := ((List.range 64).filter fun i => !(owed a).contains (BitVec.ofNat 6 i)).filterMap fun i =>
    if r.x.getD i 0 ≠ t.x.getD i 0 ∨ r.xv.getLsbD i ≠ t.xv.getLsbD i then some (Undo.x i (r.x.getD i 0) (r.xv.getLsbD i)) else none
  let ps := (List.range 24).filterMap fun i =>
    if r.p.getD i 0 ≠ t.p.getD i 0 ∨ r.pv.getLsbD i ≠ t.pv.getLsbD i then some (Undo.p i (r.p.getD i 0) (r.pv.getLsbD i)) else none
  let ts := (List.range 8).filterMap fun i => if r.t.getD i 0 ≠ t.t.getD i 0 then some (Undo.t i (r.t.getD i 0)) else none
  let vs := (List.range 64).filterMap fun i =>
    if r.v.getD i 0 ≠ t.v.getD i 0 ∨ r.vv.getLsbD i ≠ t.vv.getLsbD i then some (Undo.v i (r.v.getD i 0) (r.vv.getLsbD i)) else none
  let as_ := (List.range 16).filterMap fun i => if readA r i ≠ readA t i then some (Undo.acc i (readA r i)) else none
  let qs := (List.range 16).filterMap fun i =>
    if a.str.q.getD i .unbound ≠ b.str.q.getD i .unbound then some (Undo.qdone i (a.str.q.getD i .unbound)) else none
  let ms := (List.range 2).filterMap fun i =>
    if a.eng = .s ∧ (a.str.mq.getD i .empty).runs ≠ (b.str.mq.getD i .empty).runs then some (Undo.mqrun i) else none
  let ss := ((List.range 64).map (192 + ·)).filterMap fun i =>
    if readS r i ≠ readS t i then some (Undo.sem i (readS t i - readS r i) (readS r i - readS t i)) else none
  let cs := if { a.csr with cycle := b.csr.cycle, cycleft := b.csr.cycleft } ≠ b.csr then [Undo.csr a.csr] else []
  xs ++ ps ++ ts ++ vs ++ as_ ++ qs ++ ms ++ ss ++ cs

/-- Whether a text of the control slice takes decisions of dq[q] (08 R158). -/
def takesDec (text : List (BitVec 32)) (q : Nat) : Bool :=
  text.any fun u => u.toNat / 2 ^ 24 == 0x57 && u.toNat / 2 ^ 14 % 4 == q

/-- The engines that pop dq[q]: every other slice with text, each of which has a replica of the branch (14 R284), and the control
slice where its text holds a DTAKE of the queue. -/
def decReaders (c : Core) (q : Nat) : List Engine :=
  engines.filter fun e => if e == .c then takesDec (c.code.toList.getD 0 []) q else !(c.code.toList.getD (engIdx e) []).isEmpty

/-- Whether every reader has popped a decision (14 R423). -/
def decFreed (rs : List Engine) (e : DqEntry) : Bool := !rs.isEmpty && rs.all fun r => e.popped.any fun p => p.1 == r

/-- Log, channel, decision and mode entries that the frontier has passed are freed (02 R42, 09 R165, 14 R293): a popped entry is kept
while a rebuild may return it. A mode entry goes once a newer one of its kind is passed. -/
def pruneCore (c : Core) : Core :=
  let n := frontier c
  let modes (l : List ModeEntry) : List ModeEntry :=
    l.filter fun e => !l.any fun d => d.rmode == e.rmode && e.tag < d.tag && d.tag < n
  let past (rs : List Engine) (e : DqEntry) : Bool := decFreed rs e && e.popped.all fun p => p.2 < n
  { c with rewind := c.rewind.filter fun e => n ≤ e.lsn,
           str := { c.str with
             ch := c.str.ch.map fun l => l.filter fun e => match e.popped with | some p => n ≤ p | none => true,
             dq := c.str.dq.mapIdx fun q l => l.filter fun e => !past (decReaders c q) e,
             modeS := modes c.str.modeS, modeV := modes c.str.modeV, modeM := modes c.str.modeM } }

/-- The log and window entries of a word that writes `places` registers (02 R42, 18 R348): its register writes, those that left their register
as it was and those that an issued load has still to make included, but those it has logged itself; the word itself, its changes of joins and queues; of the matrix slice, which keeps no log, the word and its semaphores alone. -/
def logEntries (places : Nat) (a b : Core) (undos : List Undo) (posted : Option Nat) : List Rewind :=
  let mk (u : Undo) : Rewind := { eng := a.eng, lsn := a.flow.lsn, pc := a.flow.pc, undo := u, kept := false }
  let at_ (c : Core) := (c.rewind.filter fun e => e.eng == a.eng && e.lsn == a.flow.lsn && inLog e.eng e.undo).length
  let short := places - ((undos.filter (inLog a.eng)).length + (at_ b - at_ a))
  let own := if a.eng = .m then undos.filter fun u => match u with | .sem _ _ _ => true | _ => false
    else undos ++ List.replicate short .same
  ((match posted with | some n => [Undo.sem n 1 0] | none => []) ++ own ++ [Undo.word]).map mk

/-- Completion in slice form: the next position (05 R101), the log (02 R42), the posts of SYNC19, which wait for a stream command to
leave its queue (05 R94), the segment (19 R372). A filler leaves the repetition of the matrix word it stands before (10 R188). -/
def completeSlice (i : Instr) (s0 s : State) (nx : Next) : State :=
  let a := s0.me
  let c := s.me
  let ann := annOf a a.eng a.flow
  let pos := a.flow.lsn
  let delta := ann.toNat % 2 ^ 14
  let y := syncOf i
  let f := flowNext i.units c.flow nx
  let undos := (if f.loops ≠ a.flow.loops then [Undo.flow c.eng a.flow.loops] else []) ++ undoDiff a c
  let f : Flow :=
    { f with lsn := pos + delta, ended := ann[15] && delta == 0,
             seg := if ann[15] then (if entersSegment c c.eng (f.pc.toNat / 4) then some (0, 0) else none) else segCount i a.flow }
  let sem := y.toNat % 256
  let p : PendPost := { eng := c.eng, lsn := pos, sem := BitVec.ofNat 8 sem, late := y[8] }
  let now := y[9] && !y[8] && postDue c p
  let c : Core :=
    { c with flow := f, rewind := logEntries (writesOf a i + loopsWritten a.flow f) a c undos (if now then some sem else none) ++ c.rewind, wait := .none,
             posts := if y[9] && !now then p :: c.posts else c.posts, rho := if c.eng = .m ∧ ann[14] = false then 0 else c.rho }
  let t := { s with me := c }
  let t := firePosts (if now then mapRegs t fun r => postS r sem 1 else t)
  charge { t with me := pruneCore t.me }

/-- Whether a wait must outlive a try that ends otherwise: the answers it has had, or the acquire it owes, count for the word. -/
def keepWait (w : Wait) : Bool := match w with | .fabric _ _ _ => true | .parked _ _ => true | .index _ => true | _ => false

/-- A word that must wait: what it waits for is kept, its cycles are charged; posts that have become due meanwhile are made. -/
def stall (s : State) (w : Wait) : State :=
  charge (firePosts (if w = .queue ∧ keepWait s.me.wait = true then s else { s with me := { s.me with wait := w } }))

/-- The engine of a class (02 R36). -/
def classEngine (u : Nat) : Engine :=
  match u / 2 ^ 29 % 8 with | 4 => .s | 5 => .v | 6 => .m | _ => .c

/-- The engine of a word's class (02 R36). -/
def wordEngine (i : Instr) : Engine :=
  match i.units with
  | 3 => if encode i / 2 ^ 93 = 4 then .s else .v
  | 6 => .m
  | _ => .c

/-- The slice of origin of a code: the one named, else that of the word's class (18 R344). -/
def originOf (s : State) (i : Instr) (r : Raise) : Engine :=
  if s.me.form = .logical ∧ r.origin = .c then wordEngine i else r.origin

/-- INSN of a code: the logical word that stands at the word's position (18 R344). -/
def insnOf (s : State) (i : Instr) : List Byte :=
  match s.me.form with | .logical => encodeBytes i | .slices => bytesAt s.me (logicalPc s.me)

/-- What a meaning's answer makes of the state. -/
def finish (i : Instr) (s : State) (r : Res) : State :=
  let comp (t : State) (nx : Next) : State :=
    match s.me.form with
    | .logical => complete i.units t nx
    | .slices => completeSlice i s t nx
  match r with
  | .done t => comp t .fall
  | .skip t pc => comp t (.skip pc)
  | .jump t pc => comp t (.taken pc)
  | .branch t pc => comp t (.taken (ownPc t.me pc))
  | .wait t w => stall t w
  | .raise t r => raiseCode t { r with insn := insnOf s i, origin := originOf s i r }
  | .gone t => t

/-- A word that waits or raises has not taken its SYNC19 wait (09 R165, 18 R348; DEDUCED, log 32). -/
def giveBack (i : Instr) (u : State) : State :=
  let sem := (syncOf i).toNat / 2 ^ 10 % 256
  if (syncOf i)[18] then mapRegs u fun r => writeS r sem (readS r sem + 1) else u

/-- A word of the moving slice of `s` that is gated has acted at its step (02 R41, R43). -/
def noteGated (i : Instr) (s u : State) : State :=
  if runsAhead i || ((annOf s.me s.me.eng s.me.flow)[14] && s.me.eng != .m) then u else actAt u s.me.flow.lsn

/-- A word in slice form (05 R94, 19 R372). -/
def issueSlice (i : Instr) (body : State → Res) (s : State) : State :=
  match admitSlice i s with
  | none => stall s .queue
  | some t =>
    match (if (annOf s.me s.me.eng s.me.flow)[15] then segCheck s.me (segCount i s.me.flow) else none) with
    | some code => finish i s (.fail s code)
    | none =>
      match body t with
      | .wait u w => stall (giveBack i u) w
      | .raise u r => finish i s (.raise (giveBack i u) r)
      | .done u => finish i s (.done (noteGated i s u))
      | r => finish i s r

/-! Registers that a word names. -/

/-- A word that names an owed register stalls until its access performs, which it does at once where it may (08 R150). -/
def settleOwed (i : Instr) (s : State) : State :=
  if (owed s.me).any fun r => (xFields i).contains r then departAtomics (performAll s) else s

/-- Issue a word on the moving core: its fields are checked (05 R102), then its meaning acts. -/
def issue (i : Instr) (body : State → Res) (s : State) : Host.Outcome State Fault Refusal :=
  .next (if s.me.run ≠ .running then s
    else if i.wfIn (s.me.form == .slices) = false then finish i s (.fail s 0x0102)
    else match s.me.form with
      | .logical => finish i s (body (settleOwed i s))
      | .slices => issueSlice i body (settleOwed i s))

/-- An event changes the state and advances no program. -/
def event (s : State) : Host.Outcome State Fault Refusal := .next s

end Sys2Proof.Machine
end

