-- ==== Sys2Proof/Machine/Operands.lean ====
section
/-! DEFINITION. Operand forms: channels, mode values, stream register values, q registers and their entries, vector sources and
destinations with their guard, matrix operands in scratch (03 R53, 08 R135, 09 R161-R167, 12 R227-R238, 14 R287). -/

namespace Sys2Proof.Machine

/-! Channels (08 R135, 14 R286). -/

/-- Capacity of a channel (14 R293). -/
def chanCap : Nat := 16

/-- The entries of a channel that no word has popped. -/
def chanLive (s : State) (c : Nat) : List ChEntry := (s.me.str.ch.getD c []).filter fun e => e.popped.isNone

/-- The head of a channel. -/
def chanHead (s : State) (c : Nat) : Option ChPayload := (chanLive s c).head?.map ChEntry.val

/-- Mark the head of a list of entries as popped by the word at `lsn`. -/
def popEntry (l : List ChEntry) (lsn : Nat) : List ChEntry :=
  match l with
  | [] => []
  | e :: rest => if e.popped.isNone then { e with popped := some lsn } :: rest else e :: popEntry rest lsn

/-- Pop a channel: the entry stays until the frontier passes the word (09 R165). -/
def chanPop (s : State) (c : Nat) : State :=
  { s with me := { s.me with str := { s.me.str with
      ch := s.me.str.ch.setIfInBounds c (popEntry (s.me.str.ch.getD c []) s.me.flow.lsn) } } }

/-- Whether a channel has room for `n` entries. -/
def chanRoom (s : State) (c n : Nat) : Bool := (s.me.str.ch.getD c []).length + n ≤ chanCap

/-- Append to a channel, tagged with the word's LSN. -/
def chanPush (s : State) (c : Nat) (v : ChPayload) : State :=
  { s with me := { s.me with str := { s.me.str with
      ch := s.me.str.ch.setIfInBounds c ((s.me.str.ch.getD c []) ++ [{ tag := s.me.flow.lsn, val := v, popped := none }]) } } }

/-- A payload read as a scalar. -/
def ChPayload.word (p : ChPayload) : Word := match p with | .scalar v => v | .vector v => v.setWidth 64 | .skipped => 0

/-! Mode values (07 R122, 14 R287). -/

/-- VL at the word's LSN. -/
def vlOf (s : State) : Nat := vlNow s.me

/-- RMODE at the word's LSN. -/
def rmodeOf (s : State) : Nat :=
  match s.me.form with | .logical => s.me.csr.rmode.toNat | .slices => (modeNewest s.me true).getD s.me.mode0.2.toNat

/-- The rounding mode a RND4 or ARND names; rdyn with RMODE from 5 on is none (05 R84). -/
def roundMode (s : State) (rnd : Nat) : Option Nat :=
  if rnd ≤ 4 then some rnd else if rmodeOf s ≤ 4 then some (rmodeOf s) else none

/-- What a word's random bits depend on (07 R124). -/
def drawOf (s : State) : Draw := { seed := s.me.csr.seed.toNat, lsn := s.me.flow.lsn, serial := s.me.task.serial }

/-- The random bits of a site, drawn only under rs. -/
def drawBits (d : Draw) (mode r j : Nat) : Nat := if mode = 4 then randomBits d r j else 0

/-! Register values of stream words (05 R96, 12 R227). -/

/-- An XA, XB or XC value: an x register, or in slice form zero or the head of a channel; none where the channel is empty. -/
def sValue (s : State) (f : BitVec 6) : Option Word :=
  match s.me.form with
  | .logical => some (xOf s f)
  | .slices => if f.toNat < 32 then some 0 else (chanHead s (f.toNat % 16)).map ChPayload.word

/-- The channels a stream word pops: those some field names and not every naming keeps (03 R53). -/
def sPops (fs : List (BitVec 6)) : List Nat :=
  (List.range 16).filter fun c => (fs.any fun f => 32 ≤ f.toNat && f.toNat % 16 == c)
    && !(fs.all fun f => !(32 ≤ f.toNat && f.toNat % 16 == c) || 48 ≤ f.toNat)

/-- The state with a stream word's channels popped. -/
def sPopAll (s : State) (fs : List (BitVec 6)) : State :=
  match s.me.form with
  | .logical => s
  | .slices => (sPops fs).foldl chanPop s

/-! Reads from other modules (13 R274). -/

/-- Remote reads answered so far. -/
def fabricGot (w : Wait) : List Reply :=
  match w with | .fabric g _ (some b) => g ++ [b] | .fabric g _ none => g | _ => []

/-- What is known for good of a version homed elsewhere: SEALED or ABANDONED, as codes of HSTAT, and that it is no longer current
(13 R257, R258, R267). -/
def knownOf (s : State) (home ver : Nat) : Option (Nat × Nat) :=
  (s.known.find? fun e => e.1.1 == home && e.1.2 == ver).map Prod.snd

/-- A version's state comes to be known. -/
def knowState (s : State) (home ver st : Nat) : State :=
  let c := ((knownOf s home ver).map Prod.snd).getD 1
  { s with known := ((home, ver), (st, c)) :: s.known.filter fun e => !(e.1.1 == home && e.1.2 == ver) }

/-- The `i`-th remote read of a word: the home's answer once it has come; else it is asked for, by a READ_REQUEST, and the word waits
(DESIGN CHOICE, log 7). -/
def fabricFetch (s : State) (i : Nat) (home ver off n : Nat) (fill : Bool) : State × Option Reply :=
  let got := fabricGot s.me.wait
  if i < got.length then (s, some (got.getD i (.refused 0x0401)))
  else
    match s.me.wait with
    | .fabric _ _ none => (s, none)
    | _ =>
      let d := drawAsk s
      let t := sendPacket d.1 s.me.task.part s.me.task.launch home 0 d.2 (.readRequest off n (some ver) fill)
      ({ t with me := { t.me with wait := .fabric got d.2 none } }, none)

/-- Bytes of checked runs, read remotely where they are remote. `idx` counts the remote ones. -/
def fabricRuns (s : State) (idx : Nat) (rs : List (Nat × Nat × Acc1)) : State × Option (List Reply) :=
  match rs with
  | [] => (s, some [])
  | (_, n, a) :: rest =>
    match a.remote with
    | none => match fabricRuns s idx rest with | (t, some l) => (t, some (.bytes [] :: l)) | (t, none) => (t, none)
    | some home =>
      match fabricFetch s idx home (a.ver.getD 0) a.key n a.fill with
      | (t, none) => (t, none)
      | (t, some b) => match fabricRuns t (idx + 1) rest with | (u, some l) => (u, some (b :: l)) | (u, none) => (u, none)

/-! Reads of the S path. -/

/-- The LSN of the word that takes what is fetched for an engine: commands of that LSN or above are younger than the fetch (11 R213). -/
def takerLsn (s : State) (e : Engine) : Nat := match s.me.form with | .logical => s.me.flow.lsn | .slices => nextLsn (flowOf s.me e)

/-- Sectors of the queued commands still to be read. -/
def unreadS (l : List SCmd) : Nat := (l.map fun c => (unreadOf c).length).sum

/-- The S path's next step towards its older reads: the next unread sector, or the departure a reduction owes it. -/
def readStep (s : State) : State :=
  if nextBlocked [] s.me.sqS then
    match s.me.sqS.head? with | some c => if c.lsn ≤ frontier s.me then departS s else s | none => s
  else readNext s [] s.me.sqS

/-- `n` such steps. -/
def readStepN (n : Nat) (s : State) : State := match n with | 0 => s | k + 1 => readStepN k (readStep s)

/-- Every read of the commands older than an LSN performs: LQ(S) is in order (11 R212). -/
def readBelow (s : State) (l : Nat) : State :=
  let cs := cmdsBelow s l
  if unreadS cs = 0 then s else readStepN (unreadS cs + stepsS cs) s

/-! Entries under way: each source sector of an entry is read in a step of its own (11 R220, R221). -/

/-- q[n] of the moving core. -/
def qOf (s : State) (n : Nat) : QReg := s.me.str.q.getD n .unbound

/-- Write q[n]. -/
def setQ (s : State) (n : Nat) (q : QReg) : State :=
  { s with me := { s.me with str := { s.me.str with q := s.me.str.q.setIfInBounds n q } } }

/-- mq[n] of the moving core. -/
def mqOf (s : State) (n : Nat) : MqReg := s.me.str.mq.getD n .empty

/-- Write mq[n]. -/
def setMq (s : State) (n : Nat) (m : MqReg) : State :=
  { s with me := { s.me with str := { s.me.str with mq := s.me.str.mq.setIfInBounds n m } } }

/-- The sector of the first unread of some pieces is read behind the commands older than an LSN: the unread ones in it take their bytes. -/
def partNext (s : State) (l : Nat) (ps : List SPiece) : State × List SPiece :=
  match ps.find? unread with
  | none => (s, ps)
  | some p =>
    let near (q : SPiece) := unread q && q.key / 64 == p.key / 64
    let t := touchRun s (cmdsBelow s l) (spanOf p (ps.filter near))
    (t, ps.map fun q => if near q then { q with got := some (runBytes t (cmdsBelow s l) q) } else q)

/-- Up to `n` such steps. -/
def partAll (n : Nat) (s : State) (l : Nat) (ps : List SPiece) : State × List SPiece :=
  match n with
  | 0 => (s, ps)
  | k + 1 => let r := partNext s l ps; partAll k r.1 l r.2

/-- The entry that q[n] has under way is read to its end. -/
def endQPart (s : State) (n : Nat) : State :=
  let r := partAll (qOf s n).part.length s (takerLsn s .v) (qOf s n).part
  setQ r.1 n { qOf s n with part := r.2 }

/-- The entry that mq[n] has under way is read to its end. -/
def endMqPart (s : State) (n : Nat) : State :=
  let r := partAll (mqOf s n).part.length s (takerLsn s .m) (mqOf s n).part
  setMq r.1 n { mqOf s n with part := r.2 }

/-- The entries under way are read to their ends: what the path takes up next is younger (11 R212). -/
def endParts (s : State) : State :=
  if s.me.str.q.all (fun q => q.part.all fun p => !unread p) && s.me.str.mq.all (fun m => m.part.all fun p => !unread p) then s
  else (List.range 2).foldl endMqPart ((List.range 16).foldl endQPart s)

/-- Commands older than an LSN that the frontier has reached depart. -/
def departBelow (s : State) (l : Nat) : State := drainSTo s (min (cmdsBelow s l).length (dueS s))

/-- The S path ready to read pieces now for a word at an LSN: older reads performed, reductions of their bytes applied; none while the
frontier holds these back. -/
def readyS (s : State) (l : Nat) (ps : List SPiece) : Option State :=
  let t := endParts (readBelow s l)
  if unreadS (cmdsBelow t l) ≠ 0 then none
  else if reduceCovers (cmdsBelow t l) ps = false then some t
  else
    let u := departBelow t l
    if reduceCovers (cmdsBelow u l) ps then none else some u

/-- The pieces of checked runs. -/
def piecesOf (rs : List (Nat × Nat × Acc1)) : List SPiece :=
  rs.map fun r => { key := r.2.2.key, len := r.2.1, global := r.2.2.global }

/-- What stops a read of bytes on the S path: the code of a byte, or a wait. -/
inductive Got where
  | bad (code addr : Nat)
  | wait (w : Wait)
  deriving DecidableEq, Repr

/-- The acquire of the S path: the remote view of the die loses what the scope drops (11 R215, 13 R268). -/
def acquireS (s : State) (scope : Nat) : State :=
  { s with rv := s.rv.filter fun e => !(e.1.1 == coreDie s.me.id && (5 ≤ scope || keyDie (64 * e.1.2) ≤ 1)) }

/-- An access that parked takes, before it completes, an acquire on its path: of module scope where the version's home is this
module, of fabric scope otherwise (13 R268). -/
def unpark (s : State) : State :=
  match s.me.wait with
  | .parked _ home =>
    let scope := if home = s.fabric then 4 else 6
    let t := { s with me := { s.me with wait := .none } }
    if s.me.eng = .c then acquire t scope else acquireS t scope
  | _ => s

/-- Whether the home answered that a sector's condition was met (12 R231). -/
def isMarked (r : Reply) : Bool := match r with | .bytes _ => false | .refused c => c / 256 == 6

/-- The code of an answer that refuses the access; a sector's condition is delivered instead. -/
def refusal (r : Reply) : Option Nat := match r with | .bytes _ => none | .refused c => if c / 256 = 6 then none else some c

/-- The `n` bytes an answer delivers: zeros for a condition. -/
def replyBytes (n : Nat) (r : Reply) : List Byte := match r with | .bytes b => b | .refused _ => List.replicate n 0

/-- Whether a checked run is read through a see handle of a version homed elsewhere. -/
def isFarSee (a : Acc1) : Bool := a.remote.isSome && !a.fill

/-- The answers of the homes say what is known of the versions read, and a read through a see handle takes its acquire
(13 R267, R268, R274). -/
def learn (s : State) (l : List ((Nat × Nat × Acc1) × Reply)) : State :=
  let far := l.filter fun p => isFarSee p.1.2.2
  let t := far.foldl (fun u p => match p.2 with
    | .refused 0x0401 => knowState u (p.1.2.2.remote.getD 0) (p.1.2.2.ver.getD 0) 2
    | _ => knowState u (p.1.2.2.remote.getD 0) (p.1.2.2.ver.getD 0) 1) s
  if far.isEmpty then t else acquireS t 6

/-- What stops a word whose read must be tried again: the answers that have come stay. -/
def againLater (s : State) : Wait := if s.me.wait = .none then .queue else s.me.wait

/-- Whether commands of these, or their module's acknowledgement, stand before a read of a version homed elsewhere: the task's own older
writes to its bytes come first (11 R213, 13 R269, R274). -/
def awayBefore (s : State) (cmds : List SCmd) (r : Nat × Nat × Acc1) : Bool :=
  match r.2.2.remote with
  | none => false
  | some m => awayCovers cmds m r.2.2.ver r.2.2.key r.2.1 || unackedTo s m (r.2.2.ver.getD 0)

/-- The answers of the homes of checked runs, none of a run of this module, once the reads of the path older than an LSN have performed and
its older writes to their bytes are acknowledged (11 R212, R213, 13 R269); none while the word waits for them. -/
def askHomes (s : State) (l : Nat) (rs : List (Nat × Nat × Acc1)) : State × Except Wait (List Reply) :=
  if rs.all fun r => r.2.2.remote.isNone then (s, .ok (rs.map fun _ => .bytes []))
  else
    let v := readBelow s l
    let v := if rs.any (awayBefore v (cmdsBelow v l)) then departBelow v l else v
    if unreadS (cmdsBelow v l) ≠ 0 ∨ rs.any (awayBefore v (cmdsBelow v l)) = true then (v, .error (againLater v))
    else match fabricRuns v 0 rs with
      | (w, none) => (w, .error w.me.wait)
      | (w, some bs) => (learn w (rs.zip bs), .ok bs)

/-- Runs checked through the handles given for a word at an LSN, with the answers of the homes of remote ones (12 R228, R230): the first run
in access order that its check or its home refuses gives the code. -/
def fetchRuns (s : State) (l : Nat) (hands : List Handle) (rs : List (Nat × Nat)) :
    State × Except Got (List ((Nat × Nat × Acc1) × Reply)) :=
  match checkPrefix s hands rs false with
  | (t, _, some (.park v h)) => (t, .error (.wait (.parked v h)))
  | (t, ok, stop) =>
    match askHomes (unpark t) l ok with
    | (w, .error x) => (w, .error (.wait x))
    | (x, .ok bs) =>
      match (ok.zip bs).findSome? fun p => (refusal p.2).map fun c => (c, p.1.1) with
      | some p => (x, .error (.bad p.1 p.2))
      | none => match stop with | some (.bad c a) => (x, .error (.bad c a)) | _ => (x, .ok (ok.zip bs))

/-- The piece of a checked run: still to be read, or as its home on another module answered. -/
def pieceOf (p : (Nat × Nat × Acc1) × Reply) : SPiece :=
  if p.1.2.2.remote.isSome then
    { key := p.1.2.2.key, len := p.1.2.1, global := false, got := some (replyBytes p.1.2.1 p.2, isMarked p.2),
      far := some (p.1.2.2.remote.getD 0, p.1.2.2.ver.getD 0) }
  else { key := p.1.2.2.key, len := p.1.2.1, global := p.1.2.2.global }

/-- A read that is over waits for no reply and no sector. -/
def readOver (s : State) : State :=
  { s with me := { s.me with wait := match s.me.wait with | .fabric _ _ _ => .none | .index _ => .none | w => w } }

/-- A read of bytes begun for a word at an LSN: its checks passed (12 R228, R230), the pieces still to be read and those that other modules
answered. -/
def readOpen (s : State) (l : Nat) (hands : List Handle) (rs : List (Nat × Nat)) : State × Except Got (List SPiece) :=
  match fetchRuns s l hands rs with
  | (t, .error g) => (t, .error g)
  | (t, .ok ps) =>
    match readyS t l ((ps.map pieceOf).filter unread) with
    | none => (t, .error (.wait (againLater t)))
    | some v => (readOver v, .ok (ps.map pieceOf))

/-- The unit that holds the first byte of a piece that an address of the tile window or another reached (19 R371). -/
def pieceUnit (s : State) (p : SPiece) (addr : Nat) : UnitId :=
  match p.far with | some (m, v) => farUnit m v addr p.key | none => storeUnit s p.key .s

/-- The first piece that met a sector's condition, by its index (12 R231). -/
def badPiece (ps : List SPiece) : Option Nat := ps.findIdx? fun p => (p.got.map Prod.snd).getD false

/-- The bytes of pieces that have been read: zeros where one met a condition (12 R231). -/
def pieceBytes (ps : List SPiece) : List Byte :=
  let b := ps.flatMap fun p => (p.got.map Prod.fst).getD []
  if (badPiece ps).isSome then List.replicate b.length 0 else b

/-! q registers (12 R233-R237). -/

/-- Count of dimension `j` of a pattern. -/
def qCount (q : QReg) (j : Nat) : Nat := q.counts.toNat / 2 ^ (16 * j) % 2 ^ 16 + 1

/-- Elements of an index list per entry: 4,096 / w (12 R237). -/
def perEntry (width : Nat) : Nat := 512 / 2 ^ width

/-- Entries of a binding. -/
def qTotal (q : QReg) : Nat :=
  match q.kind with
  | .unbound => 0
  | .sbind => qCount q 0 * qCount q 1 * qCount q 2 * qCount q 3
  | _ => (q.idx.length + perEntry q.width - 1) / perEntry q.width

/-- Stride of dimension `j` in bytes. -/
def qStride (q : QReg) (j : Nat) : Int := 64 * signedOf 16 (q.strides.toNat / 2 ^ (16 * j))

/-- Address of entry `m` of a pattern, dimension 0 fastest (12 R233). -/
def entryAddr (q : QReg) (m : Nat) : Nat :=
  let c0 := qCount q 0
  let c1 := qCount q 1
  let c2 := qCount q 2
  (((q.base.toNat : Int) + (m % c0 : Nat) * qStride q 0 + (m / c0 % c1 : Nat) * qStride q 1
      + (m / (c0 * c1) % c2 : Nat) * qStride q 2 + (m / (c0 * c1 * c2) : Nat) * qStride q 3) % 2 ^ 64).toNat

/-- Address of element `t` of an index list (12 R237). -/
def elemAddr (q : QReg) (t : Nat) : Nat := (q.base.toNat + q.idx.getD t 0 * 2 ^ q.width) % 2 ^ 64

/-- The runs entry `m` touches, in access order. -/
def entryRuns (q : QReg) (m : Nat) : List (Nat × Nat) :=
  match q.kind with
  | .unbound => []
  | .sbind => runs (entryAddr q m) 512
  | _ =>
    let e := perEntry q.width
    (List.range e).filterMap fun j => if m * e + j < q.idx.length then some (elemAddr q (m * e + j), 2 ^ q.width) else none

/-- The index of the entry that q[n] fetches next, while its FIFO holds fewer than `cap`. -/
def qNext (s : State) (n cap : Nat) : Option Nat :=
  let q := qOf s n
  let m := q.done + q.held.length + q.fifo.length
  if q.kind = .unbound ∨ q.out = true ∨ qTotal q ≤ m ∨ cap ≤ q.fifo.length then none else some m

/-- The fetch of entry `m` of q[n] begins, unless it is under way; one that fails its checks is kept with its code (12 R235). -/
def qOpen (s : State) (n m : Nat) : State × Option Wait :=
  if (qOf s n).part ≠ [] then (s, none)
  else
    match readOpen s (takerLsn s .v) (qOf s n).hands (entryRuns (qOf s n) m) with
    | (t, .error (.wait w)) => (t, some w)
    | (t, .error (.bad c a)) =>
      let q := qOf t n
      (setQ t n { q with fifo := q.fifo ++ [{ data := 0, poison := none, failed := some (c, a) }] }, none)
    | (t, .ok ps) => (setQ t n { qOf t n with part := ps }, none)

/-- An entry all of whose sectors have been read joins the FIFO, with the address and the unit of the first that met a condition. -/
def qClose (s : State) (n m : Nat) : State :=
  let q := qOf s n
  if q.part = [] ∨ q.part.any unread = true then s
  else
    let bad := (badPiece q.part).bind fun i => (q.part[i]?).map fun p =>
      let a := ((entryRuns q m)[i]?.map Prod.fst).getD 0
      (a, pieceUnit s p a)
    setQ s n { q with part := [], fifo := q.fifo ++ [{ data := BitVec.ofNat 4096 (natOf (pieceBytes q.part)), poison := bad, failed := none }] }

/-- Fetch the next entry of an in-core binding onto its FIFO while it holds fewer than `cap`, for a word that needs it. A read that parks
or waits for another module leaves the entry unfetched. -/
def qFetch (s : State) (n cap : Nat) : State × Option Wait :=
  match qNext s n cap with
  | none => (s, none)
  | some m => match qOpen s n m with | (t, none) => (qClose (endQPart t n) n m, none) | r => r

/-- The same ahead of any word: the fetch begins, or reads its next sector. -/
def qFetchStep (s : State) (n cap : Nat) : State :=
  match qNext s n cap with
  | none => s
  | some m =>
    if (qOf s n).part = [] then match qOpen s n m with | (t, none) => qClose t n m | _ => s
    else
      let r := partNext s (takerLsn s .v) (qOf s n).part
      qClose (setQ r.1 n { qOf s n with part := r.2 }) n m

/-- Entries of a q register's FIFO (03 R46). -/
def qCap : Nat := 8

/-- The entries that stand ready for a word: those it has taken already, then the FIFO's. -/
def qEntries (q : QReg) : List QEntry := q.held ++ q.fifo

/-- Entries fetched until `k` stand ready; a word that reads more than the FIFO's eight takes its oldest out to make room. -/
def qFetchTo (fuel : Nat) (s : State) (n k : Nat) : State × Option Wait :=
  match fuel with
  | 0 => (s, none)
  | f + 1 =>
    let q := qOf s n
    if k ≤ (qEntries q).length then (s, none)
    else
      let t := if qCap ≤ q.fifo.length then setQ s n { q with held := q.held ++ q.fifo.take 1, fifo := q.fifo.tail } else s
      match qFetch t n qCap with | (t, none) => qFetchTo f t n k | r => r

/-- Pop an entry; the last one ends the binding (12 R234). -/
def qPop (s : State) (n : Nat) : State :=
  let q := qOf s n
  setQ s n (if q.done + 1 = qTotal q then .unbound
    else { q with done := q.done + 1, held := q.held.tail, fifo := if q.held.isEmpty then q.fifo.tail else q.fifo })

/-- The sector writes of an entry pushed onto an out-of-core binding: 512 bytes in sectors, or one store per element. A run that
no longer passes its checks is left out (DEDUCED, log 14). -/
def pushWrites (s : State) (hands : List Handle) (rs : List (Nat × Nat)) (bs : List Byte) : State × List SWrite :=
  match rs with
  | [] => (s, [])
  | (a, n) :: rest =>
    let b := pushWrites (checkVia s hands a true).1 hands rest (bs.drop n)
    match (checkVia s hands a true).2 with
    | .ok k =>
      (b.1, { dest := match k.remote with | some m => .away m k.key k.ver | none => .here k.key k.global, src := [],
              bytes := bs.take n, poison := false } :: b.2)
    | _ => b

/-- Put a command into SQ(S), in the order of the words (12 R229); what the path has under way is older. -/
def enqueueS (s : State) (c : SCmd) : State :=
  let t := endParts s
  { t with me := { t.me with sqS := insertCmd c t.me.sqS } }

/-- A command with nothing but its kind and writes. -/
def cmdOf (s : State) (k : SKind) (w : List SWrite) : SCmd :=
  { lsn := s.me.flow.lsn, kind := k, writes := w, sent := 0, xid := none, ckm := 0, ckr := 0, op := 0, fmt := 0, ver := none,
    tag := 0, bad := false }

/-- Entries pushed onto q[n] that have not departed; they hold its eight places (03 R46). -/
def qPushed (s : State) (n : Nat) : Nat :=
  (s.me.sqS.filter fun c => match c.kind with | .qout m _ => m == n | _ => false).length

/-- A place of an out-bound q register: with all eight taken its oldest entry departs first, which the frontier has reached (`dstRoom`). -/
def qRoom (s : State) (n : Nat) : State :=
  if qPushed s n < qCap then s
  else drainSTo s (min (dueS s) ((s.me.sqS.findIdx fun c => match c.kind with | .qout m _ => m == n | _ => false) + 1))

/-- Push an entry onto an out-of-core binding (12 R233, R237). -/
def qPush (s : State) (n : Nat) (v : VecWord) : State :=
  let s := qRoom s n
  let q := qOf s n
  let last := q.done + 1 == qTotal q
  let w := pushWrites s q.hands (entryRuns q q.done) (bytesOf 512 v.toNat)
  let t := enqueueS w.1 (cmdOf s (.qout n last) w.2)
  setQ t n (if last then .unbound else { q with done := q.done + 1 })

/-! Vector words (09 R161-R167). -/

/-- Active(i) for an element of `w` bits (09 R161). -/
def active (s : State) (v : VWord) (w i : Nat) : Bool :=
  (readP s.me.regs v.pred.toNat).getLsbD (i * w / 32) != (v.neg == 1)

/-- A source field in use: the field, its step position and the element width of a broadcast. -/
structure SrcUse where
  field : BitVec 8
  pos   : Nat
  width : Nat
  deriving DecidableEq, Repr

/-- The register or queue a field names in repetition `r`. -/
def regAt (v : VWord) (f : BitVec 8) (pos r : Nat) : Nat := opReg f + r * stepOf v.strd pos

/-- Why a vector word cannot go on: it waits, or a popped entry raises its code. -/
inductive Halt where
  | wait (w : Wait)
  | bad (r : Raise)
  deriving DecidableEq, Repr

/-- The entry at the head of q[n]; a poisoned or failed one raises, with the stream slice as origin (12 R231, R235), where a word reads it and
keeps it too (DEDUCED, log 64: the spec speaks of a word that pops it). -/
def qHead (s : State) (n : Nat) : Except Halt VecWord :=
  match qEntries (qOf s n) with
  | [] => .error (.wait .queue)
  | e :: _ =>
    match e.failed with
    | some (c, a) => .error (.bad { raiseOf s c (some a) with origin := .s })
    | none =>
      match e.poison with
      | some (a, u) => .error (.bad { raiseOf s 0x0603 (some a) with origin := .s, unit := some u })
      | none => .ok e.data

/-- A source operand in repetition `r` (09 R162). -/
def srcVal (s : State) (v : VWord) (u : SrcUse) (r : Nat) : Except Halt VecWord :=
  match opFile u.field with
  | 0 => .ok (readV s.me.regs (regAt v u.field u.pos r))
  | 1 => qHead s (regAt v u.field u.pos r)
  | _ =>
    match s.me.form with
    | .logical => .ok (splat u.width ((xOf s (BitVec.ofNat 6 (opIndex u.field))).toNat % 2 ^ u.width))
    | .slices =>
      match chanHead s (opIndex u.field % 16) with
      | none => .error (.wait .queue)
      | some (.vector x) => .ok x
      | some p => .ok (splat u.width (p.word.toNat % 2 ^ u.width))

/-- All sources of a repetition. -/
def srcVals (s : State) (v : VWord) (us : List SrcUse) (r : Nat) : Except Halt (List VecWord) :=
  match us with
  | [] => .ok []
  | u :: rest =>
    match srcVal s v u r with
    | .error h => .error h
    | .ok x => match srcVals s v rest r with | .ok l => .ok (x :: l) | .error h => .error h

/-- The q registers repetition `r` pops: named, and not kept by every naming (03 R53). -/
def qPops (v : VWord) (us : List SrcUse) (r : Nat) : List Nat :=
  (List.range 16).filter fun n =>
    let named := us.filter fun u => opFile u.field == 1 && regAt v u.field u.pos r == n
    !named.isEmpty && named.any fun u => !opKeep u.field

/-- The channels repetition `r` pops, in slice form. -/
def chPops (us : List SrcUse) : List Nat :=
  (List.range 16).filter fun n =>
    let named := us.filter fun u => opFile u.field == 2 && opIndex u.field % 16 == n
    !named.isEmpty && named.any fun u => !opKeep u.field

/-- Pop what repetition `r` pops. -/
def popAll (s : State) (v : VWord) (us : List SrcUse) (r : Nat) : State :=
  let t := (qPops v us r).foldl qPop s
  match s.me.form with | .logical => t | .slices => (chPops us).foldl chanPop t

/-- Entries a binding has left. -/
def qLeft (q : QReg) : Nat := qTotal q - q.done

/-- The binding checks of one q operand: unbound, wrong direction (09 R167). -/
def qCheck (s : State) (n : Nat) (out : Bool) : Option Nat :=
  let q := qOf s n
  if q.kind = .unbound then some 0x0301 else if q.out != out then some 0x0302 else none

/-- The repetitions of a word from `r0` on. -/
def repsFrom (v : VWord) (r0 : Nat) : List Nat := (List.range (v.rep.toNat + 1)).drop r0

/-- Entries of q[n] that a word's repetitions from `r0` on read: those popped before its last naming, and the one named there
(09 R167). -/
def qNeedFrom (v : VWord) (us : List SrcUse) (r0 n : Nat) : Nat :=
  (repsFrom v r0).foldl (fun k r =>
    if us.any fun u => opFile u.field == 1 && regAt v u.field u.pos r == n then
      max k ((((List.range r).drop r0).filter fun i => (qPops v us i).contains n).length + 1)
    else k) 0

/-- Entries of q[n] that a word's repetitions read. -/
def qNeed (v : VWord) (us : List SrcUse) (n : Nat) : Nat := qNeedFrom v us 0 n

/-- The binding checks of a word, before its first repetition: operand by operand and repetition by repetition, then the counts
(09 R167; DESIGN CHOICE, log 15). A q register named as source and as destination has one direction, so that one of the two namings
is 0x0302, although 03 R53 speaks of such a word (DESIGN CHOICE, log 15). -/
def qChecksFrom (s : State) (v : VWord) (us : List SrcUse) (dst live : Bool) (r0 : Nat) : Option Nat :=
  let reps := repsFrom v r0
  let ins := (reps.map fun r => (us.filter fun u => opFile u.field == 1).map fun u => (regAt v u.field u.pos r, false)).flatten
  let outs := if dst && opFile v.dst == 1 then reps.map fun r => (regAt v v.dst 3 r, true) else []
  match (ins ++ outs).findSome? fun p => qCheck s p.1 p.2 with
  | some c => some c
  | none =>
    if live && (List.range 16).any fun n =>
        qLeft (qOf s n) < qNeedFrom v us r0 n || qLeft (qOf s n) < (outs.filter fun p => p.1 == n).length then some 0x0301
    else none

/-- The binding checks of a word, before repetition 0. -/
def qChecks (s : State) (v : VWord) (us : List SrcUse) (dst live : Bool) : Option Nat := qChecksFrom s v us dst live 0

/-- Whether the destination has room for every repetition, in slice form: a channel, or the places of the q registers, whose entries depart
where the frontier has reached the word (09 R164). -/
def dstRoom (s : State) (v : VWord) (dst : Bool) : Bool :=
  match s.me.form with
  | .logical => true
  | .slices =>
    (!(dst && opFile v.dst == 2) || chanRoom s (opIndex v.dst % 16) (v.rep.toNat + 1))
      && (!(dst && opFile v.dst == 1) || s.me.flow.lsn ≤ frontier s.me
        || (List.range 16).all fun n => qPushed s n
            + ((List.range (v.rep.toNat + 1)).filter fun r => regAt v v.dst 3 r == n).length ≤ qCap)

/-- Fetch what the word's repetitions from `r0` on read from q[n]. -/
def qReadyFrom (s : State) (v : VWord) (us : List SrcUse) (r0 n : Nat) : State × Option Wait :=
  if qNeedFrom v us r0 n = 0 then (s, none) else qFetchTo (qNeedFrom v us r0 n + 1) s n (qNeedFrom v us r0 n)

/-- Fetch for every q source, in register order; the word waits where one must. -/
def qReadyAllFrom (l : List Nat) (s : State) (v : VWord) (us : List SrcUse) (r0 : Nat) : State × Option Wait :=
  match l with
  | [] => (s, none)
  | n :: rest => match qReadyFrom s v us r0 n with | (t, none) => qReadyAllFrom rest t v us r0 | r => r

/-- Fetch for every q source of a word. -/
def qReadyAll (l : List Nat) (s : State) (v : VWord) (us : List SrcUse) : State × Option Wait := qReadyAllFrom l s v us 0

/-- Write elements to a v, q or vector channel destination of repetition `r` (09 R163). -/
def putElems (s : State) (v : VWord) (r w : Nat) (l : List (Nat × Nat)) : State :=
  match opFile v.dst with
  | 0 => mapRegs s fun g => writeV g (regAt v v.dst 3 r) (setElems (readV g (regAt v v.dst 3 r)) w l)
  | 1 => qPush s (regAt v v.dst 3 r) (setElems 0 w l)
  | _ => chanPush s (opIndex v.dst % 16) (.vector (setElems 0 w l))

/-- Write a scalar destination: an x register, or a channel in slice form (09 R163). -/
def putScalar (s : State) (v : VWord) (x : Word) : State :=
  match s.me.form with
  | .logical => setX s (BitVec.ofNat 6 (opIndex v.dst)) x
  | .slices => chanPush s (opIndex v.dst % 16) (.scalar x)

/-- The repetitions of a word from `r` on: sources read, pops, result written (pushes follow the reads, 03 R53). -/
def vecReps (v : VWord) (us : List SrcUse) (put : State → Nat → List VecWord → State) (n r : Nat) (s : State) :
    Except Halt State :=
  match n with
  | 0 => .ok s
  | k + 1 =>
    match srcVals s v us r with
    | .error h => .error h
    | .ok l => vecReps v us put k (r + 1) (put (popAll s v us r) r l)

/-- A word of VL = 0 writes nothing and pops nothing (03 R56). In slices the x registers it would have read and written stand in
channels: their entries go, and the join that follows finds its register left as it was (DEDUCED, log 57). -/
def skipWord (v : VWord) (us : List SrcUse) (dst : Bool) (s : State) : State :=
  match s.me.form with
  | .logical => s
  | .slices =>
    (repsFrom v 0).foldl (fun t _ =>
      let u := (chPops us).foldl chanPop t
      if dst && opFile v.dst == 2 then chanPush u (opIndex v.dst % 16) .skipped else u) s

/-- Whether the channels a word of VL = 0 would pop hold their entries. -/
def skipReady (v : VWord) (us : List SrcUse) (s : State) : Bool :=
  s.me.form == .logical || (chPops us).all fun c => decide (v.rep.toNat + 1 ≤ (chanLive s c).length)

/-- A vector word: its checks, the fetches it waits for, then its repetitions. `always`: VL does not limit it. -/
def vecBody (v : VWord) (us : List SrcUse) (dst always : Bool) (put : State → Nat → List VecWord → State) (s : State) : Res :=
  let live := always || vlOf s != 0
  match qChecks s v us dst live with
  | some c => .fail s c
  | none =>
    if live = false then (if skipReady v us s && dstRoom s v dst then .done (skipWord v us dst s) else .wait s .queue)
    else if dstRoom s v dst = false then .wait s .queue
    else
      match qReadyAll (List.range 16) s v us with
      | (t, some w) => .wait t w
      | (t, none) =>
        match vecReps v us put (v.rep.toNat + 1) 0 t with
        | .ok u => .done u
        | .error (.bad r) => .raise (if r.code = 0x0603 then bump t t.me.task.part 3 else t) r
        | .error (.wait w) => .wait t w

/-- Indices of the active elements below `m`. -/
def actives (s : State) (v : VWord) (w m : Nat) : List Nat := (List.range m).filter fun i => active s v w i

/-- Elements of a type below VL (09 R164). -/
def lenOf (s : State) (w : Nat) : Nat := min (vlOf s) (4096 / w)

/-- An element-wise word: element `i` of the result from the sources and the repetition, for each active i < m. -/
def vecMap (v : VWord) (us : List SrcUse) (f : State → Nat → List VecWord → Nat → Nat) (s : State) : Res :=
  let w := fmtWidth v.ty.toNat
  vecBody v us true false (fun t r l => putElems t v r w ((actives t v w (lenOf t w)).map fun i => (i, f t r l i))) s

/-- SA as a source of width `w`. -/
def useA (v : VWord) (w : Nat) : SrcUse := { field := v.sa, pos := 2, width := w }
/-- SB as a source of width `w`. -/
def useB (v : VWord) (w : Nat) : SrcUse := { field := v.sb, pos := 1, width := w }
/-- SC as a source of width `w`. -/
def useC (v : VWord) (w : Nat) : SrcUse := { field := v.sc, pos := 0, width := w }

/-- The `k`-th source of a repetition. -/
def nthSrc (l : List VecWord) (k : Nat) : VecWord := l.getD k 0

/-! Scratch as matrix words read it (10 R203). -/

/-- The first sector of [off, off + n) of the moving core's scratch that is poisoned, as a byte offset. -/
def badScratch (s : State) (off n : Nat) : Option Nat :=
  ((List.range ((off % 64 + n + 63) / 64)).map fun i => off / 64 * 64 + 64 * i).find? fun o =>
    (markOf s (scratchKey s.me.id o)).isSome

/-- A little-endian element of `n` bytes at a scratch offset. -/
def scratchNat (s : State) (off n : Nat) : Nat := natOf (cellsGet s.mem (scratchKey s.me.id off) n)

end Sys2Proof.Machine
end

