-- ==== Sys2Proof/Machine/Fetch.lean ====
section
/-! DEFINITION. The fetch of the moving slice's next word, and a word placed where the fetch reads it (05 R80-R82, 14 R279, R280). -/

namespace Sys2Proof.Machine

/-- The text the moving slice fetches from. -/
def textOf (c : Core) : List (BitVec 32) :=
  match c.form with | .logical => c.text | .slices => c.code.toList.getD (engIdx c.eng) []

/-- The bytes of the units at the PC, up to the longest word. -/
def fetchBytes (c : Core) : List Byte :=
  (((textOf c).drop (c.flow.pc.toNat / 4)).take 6).flatMap fun u => bytesOf 4 u.toNat

/-- Units of the word at the PC. -/
def wordUnits (c : Core) : Nat := unitsOf (((textOf c).getD (c.flow.pc.toNat / 4) 0).toNat)

/-- Whether a granule of 2 KiB that holds a unit of the word at the PC has not arrived (14 R279). -/
def granuleAbsent (c : Core) : Bool :=
  (List.range (wordUnits c)).any fun k => c.absent.contains (c.eng, (c.flow.pc.toNat + 4 * k) / 2048)

/-- What the ECC of code memory finds at a unit of the word at the PC, by granule: nothing, an error that it corrects, one that it does not
(17 R336). -/
def codeFound (c : Core) : SoftError :=
  let found := (List.range (wordUnits c)).filterMap fun k => (c.weak.find? fun e => e.1 == (c.eng, (c.flow.pc.toNat + 4 * k) / 2048)).map Prod.snd
  if found.contains true then .uncorrectable else if found.contains false then .corrected else .clean

/-- The next word, or why there is none: 0x0A07 past the end of the text, a code with the bytes of the word. -/
inductive Fetched where
  | word (i : Instr)
  | none
  | bad (code : Nat) (bytes : List Byte)
  deriving DecidableEq, Repr

/-- Fetch and decode (05 R102, 14 R280). -/
def fetch (c : Core) : Fetched :=
  let bs := fetchBytes c
  match bs with
  | [] => if c.eng = .c then .bad 0x0A07 [] else .none
  | _ :: _ =>
    match decode bs with
    | .ok r => .word r.1
    | .error r => .bad r.code (bs.take (4 * unitsOf (natOf (bs.take 4))))

/-- The queues of the moving core go on: the loads, stores and copies that may perform or depart do, one of each queue, and posts that are
due are made (11 R214). -/
def pump (s : State) : State :=
  let t := match s.me.lqC.head? with
    | some e => if lqReady s e then performHead s else s
    | none => s
  let u := match t.me.sqC.head? with
    | some q => if q.lsn ≤ frontier t.me ∧ sqReady t q = true then departHead t else t
    | none => t
  firePosts (match u.me.sqS.head? with
    | some c => if c.lsn ≤ frontier u.me then departS u else u
    | none => u)

/-- A fetch that found no instruction raises its code at the next LSN. -/
def fetchFault (s : State) (code : Nat) (bytes : List Byte) : State :=
  raiseCode s { raiseOf s code none with
    insn := bytes,
    origin := if s.me.form = .logical then classEngine (natOf (bytes.take 4)) else s.me.eng,
    pc := if code = 0x0A07 then BitVec.ofNat 64 (4 * s.me.text.length) else logicalPc s.me }

/-- A word that code memory cannot deliver raises 0x0601, counted in counter 6 (17 R336, 19 R371). -/
def codeLost (s : State) : State :=
  fetchFault (bump s s.me.task.part 6) 0x0601 []

/-- Whether a slice has stopped for a fault another slice waits to reach (18 R347, step 1), or for its own that follows it (18 R355). -/
def stoppedFor (c : Core) : Bool :=
  match c.fault with
  | some r => (if r.after then r.lsn + 1 else r.lsn) ≤ nextLsn c.flow || (r.eng == c.eng && r.lsn == c.flow.lsn)
  | none => false

/-- The slices that stand at the frontier, the one after `e` in cyclic order first and `e` itself last. -/
def frontSlices (c : Core) (e : Engine) : List Engine :=
  let l := engines ++ engines
  ((l.drop (engIdx e + 1)).take 4).filter fun x => nextLsn (flowOf c x) == frontier c

/-- The slice that the model lets move when no choice of the schedule says otherwise: the first of C, S, V and M at the frontier that has not
stopped and whose word does not wait; where all wait, they try in turn (DESIGN CHOICE, log 1). -/
def autoSlice (c : Core) : Engine :=
  let goes (e : Engine) : Bool := !stoppedFor (c.turn e)
  match (frontSlices c .m).find? fun e => waitOf c e == .none && goes e with
  | some e => e
  | none => (((frontSlices c c.eng).filter goes).head?).getD ((frontSlices c c.eng).headD .c)

/-- The moving core with that slice. -/
def autoTurn (s : State) : State :=
  match s.me.form with
  | .logical => s
  | .slices => { s with me := s.me.turn (autoSlice s.me) }

/-- Units written into a text from a position on. -/
def putUnits (text : List (BitVec 32)) (pos : Nat) (us : List (BitVec 32)) : List (BitVec 32) :=
  (text ++ List.replicate (pos - text.length) 0).take pos ++ us ++ text.drop (pos + us.length)

/-- The units of a word as opcode-table bits give it: bit 0 is the least significant of the first stored unit, the bits of
later units count on from it; as many units as the class of the first asks for. -/
def tableUnits (w : Nat) : List (BitVec 32) :=
  (List.range (unitsOf (w % 2 ^ 32))).map fun k => BitVec.ofNat 32 (w / 2 ^ (32 * k))

/-- The form a word stands in: slice text where only slice text admits it. -/
def formOf (i : Option Instr) : Form := match i with | some j => if j.wfIn false then .logical else .slices | none => .logical

/-- The core with a word at its PC, running, in the form that admits it. -/
def placeWord (c : Core) (i : Option Instr) (us : List (BitVec 32)) : Core :=
  let e : Engine := match formOf i with | .logical => .c | .slices => classEngine (us.headD 0).toNat
  let d := { c with run := .running, form := formOf i, eng := e, parked := [], absent := [], weak := [], fault := none,
                    flow := { c.flow with ended := false, seg := none }, mode0 := (c.csr.vl, c.csr.rmode), waits := [],
                    csr := { c.csr with cycleft := max 1 c.csr.cycleft } }
  match formOf i with
  | .logical => { d with text := putUnits c.text (c.flow.pc.toNat / 4) us }
  | .slices => { d with code := c.code.setIfInBounds (engIdx e) (putUnits (c.code.toList.getD (engIdx e) [])
                                                                  (c.flow.pc.toNat / 4) us),
                        anns := Vector.replicate 4 [] }

end Sys2Proof.Machine
end

