-- ==== Sys2Proof/Machine/Control.lean ====
section
/-! DEFINITION. Control-engine arithmetic, bit fields, predicates, immediates and CSR access (08 R136-R145, R54-R57). -/

namespace Sys2Proof.Machine

/-! The operations of 08 R136 on 64-bit values. -/

/-- a << b[5:0]. -/
def shlW (a b : Word) : Word := a <<< (b.toNat % 64)
/-- a >> b[5:0], zeros entering. -/
def shrW (a b : Word) : Word := a >>> (b.toNat % 64)
/-- a >> b[5:0], the sign entering. -/
def sarW (a b : Word) : Word := a.sshiftRight (b.toNat % 64)
/-- High half of the signed product. -/
def mulhW (a b : Word) : Word := BitVec.ofInt 64 (a.toInt * b.toInt / 2 ^ 64)
/-- High half of the unsigned product. -/
def mulhuW (a b : Word) : Word := BitVec.ofNat 64 (a.toNat * b.toNat / 2 ^ 64)
/-- Signed quotient truncated toward zero; -1 for a divisor of 0; -2^63 by -1 wraps to -2^63. -/
def divW (a b : Word) : Word := if b = 0 then BitVec.allOnes 64 else BitVec.ofInt 64 (a.toInt.tdiv b.toInt)
/-- Unsigned quotient; all ones for a divisor of 0. -/
def divuW (a b : Word) : Word := if b = 0 then BitVec.allOnes 64 else BitVec.ofNat 64 (a.toNat / b.toNat)
/-- Signed remainder; the dividend for a divisor of 0. -/
def remW (a b : Word) : Word := if b = 0 then a else BitVec.ofInt 64 (a.toInt.tmod b.toInt)
/-- Unsigned remainder; the dividend for a divisor of 0. -/
def remuW (a b : Word) : Word := if b = 0 then a else BitVec.ofNat 64 (a.toNat % b.toNat)
/-- The smaller, signed. -/
def minW (a b : Word) : Word := if b.slt a then b else a
/-- The larger, signed. -/
def maxW (a b : Word) : Word := if a.slt b then b else a
/-- The smaller, unsigned. -/
def minuW (a b : Word) : Word := if b.ult a then b else a
/-- The larger, unsigned. -/
def maxuW (a b : Word) : Word := if a.ult b then b else a

/-- Opcodes 0x00 to 0x12: the ordinary form, the push of the result into a channel, the pop of operand B (08 R135). -/
def alu (d a b f : BitVec 6) (op : Word → Word → Word) (s : State) : Res :=
  let c := f.toNat % 16
  if f = 0 then .done (setX s d (op (xOf s a) (xOf s b)))
  else if f.toNat / 16 = 2 then
    if chanRoom s c 1 then .done (chanPush s c (.scalar (op (xOf s a) (xOf s b)))) else .wait s .queue
  else
    match chanHead s c with
    | none => .wait s .queue
    | some .skipped => .done (chanPop s c)
    | some p => .done (setX (chanPop s c) d (op (xOf s a) p.word))

/-- ADD (08 R136). -/
def execAdd (d a b f : BitVec 6) (s : State) : Host.Outcome State Fault Refusal :=
  issue (.add d a b f) (alu d a b f (fun a b => a + b)) s

/-- SUB (08 R136). -/
def execSub (d a b f : BitVec 6) (s : State) : Host.Outcome State Fault Refusal :=
  issue (.sub d a b f) (alu d a b f (fun a b => a - b)) s

/-- AND (08 R136). -/
def execAnd (d a b f : BitVec 6) (s : State) : Host.Outcome State Fault Refusal :=
  issue (.and d a b f) (alu d a b f (fun a b => a &&& b)) s

/-- OR (08 R136). -/
def execOr (d a b f : BitVec 6) (s : State) : Host.Outcome State Fault Refusal :=
  issue (.or d a b f) (alu d a b f (fun a b => a ||| b)) s

/-- XOR (08 R136). -/
def execXor (d a b f : BitVec 6) (s : State) : Host.Outcome State Fault Refusal :=
  issue (.xor d a b f) (alu d a b f (fun a b => a ^^^ b)) s

/-- SHL (08 R136). -/
def execShl (d a b f : BitVec 6) (s : State) : Host.Outcome State Fault Refusal :=
  issue (.shl d a b f) (alu d a b f (shlW)) s

/-- SHR (08 R136). -/
def execShr (d a b f : BitVec 6) (s : State) : Host.Outcome State Fault Refusal :=
  issue (.shr d a b f) (alu d a b f (shrW)) s

/-- SAR (08 R136). -/
def execSar (d a b f : BitVec 6) (s : State) : Host.Outcome State Fault Refusal :=
  issue (.sar d a b f) (alu d a b f (sarW)) s

/-- MUL (08 R136). -/
def execMul (d a b f : BitVec 6) (s : State) : Host.Outcome State Fault Refusal :=
  issue (.mul d a b f) (alu d a b f (fun a b => a * b)) s

/-- MULH (08 R136). -/
def execMulh (d a b f : BitVec 6) (s : State) : Host.Outcome State Fault Refusal :=
  issue (.mulh d a b f) (alu d a b f (mulhW)) s

/-- MULHU (08 R136). -/
def execMulhu (d a b f : BitVec 6) (s : State) : Host.Outcome State Fault Refusal :=
  issue (.mulhu d a b f) (alu d a b f (mulhuW)) s

/-- DIV (08 R136). -/
def execDiv (d a b f : BitVec 6) (s : State) : Host.Outcome State Fault Refusal :=
  issue (.div d a b f) (alu d a b f (divW)) s

/-- DIVU (08 R136). -/
def execDivu (d a b f : BitVec 6) (s : State) : Host.Outcome State Fault Refusal :=
  issue (.divu d a b f) (alu d a b f (divuW)) s

/-- REM (08 R136). -/
def execRem (d a b f : BitVec 6) (s : State) : Host.Outcome State Fault Refusal :=
  issue (.rem d a b f) (alu d a b f (remW)) s

/-- REMU (08 R136). -/
def execRemu (d a b f : BitVec 6) (s : State) : Host.Outcome State Fault Refusal :=
  issue (.remu d a b f) (alu d a b f (remuW)) s

/-- MIN (08 R136). -/
def execMin (d a b f : BitVec 6) (s : State) : Host.Outcome State Fault Refusal :=
  issue (.min d a b f) (alu d a b f (minW)) s

/-- MAX (08 R136). -/
def execMax (d a b f : BitVec 6) (s : State) : Host.Outcome State Fault Refusal :=
  issue (.max d a b f) (alu d a b f (maxW)) s

/-- MINU (08 R136). -/
def execMinu (d a b f : BitVec 6) (s : State) : Host.Outcome State Fault Refusal :=
  issue (.minu d a b f) (alu d a b f (minuW)) s

/-- MAXU (08 R136). -/
def execMaxu (d a b f : BitVec 6) (s : State) : Host.Outcome State Fault Refusal :=
  issue (.maxu d a b f) (alu d a b f (maxuW)) s

/-! Counts, bit fields, selection (08 R137, R138). -/

/-- Zero bits above the highest set bit. -/
def clzW (a : Word) : Nat := if a = 0 then 64 else 63 - a.toNat.log2
/-- Zero bits below the lowest set bit. -/
def ctzW (a : Word) : Nat := ((List.range 64).find? fun i => a.getLsbD i).getD 64
/-- Set bits. -/
def popcW (a : Word) : Nat := ((List.range 64).filter fun i => a.getLsbD i).length

/-- CLZ (08 R137). -/
def execClz (d a : BitVec 6) (s : State) : Host.Outcome State Fault Refusal :=
  issue (.clz d a) (fun s => .done (setX s d (BitVec.ofNat 64 (clzW (xOf s a))))) s

/-- CTZ (08 R137). -/
def execCtz (d a : BitVec 6) (s : State) : Host.Outcome State Fault Refusal :=
  issue (.ctz d a) (fun s => .done (setX s d (BitVec.ofNat 64 (ctzW (xOf s a))))) s

/-- POPC (08 R137). -/
def execPopc (d a : BitVec 6) (s : State) : Host.Outcome State Fault Refusal :=
  issue (.popc d a) (fun s => .done (setX s d (BitVec.ofNat 64 (popcW (xOf s a))))) s

/-- Ones in bits [n - 1:0]. -/
def maskW (n : Nat) : Word := BitVec.ofNat 64 (2 ^ n - 1)

/-- Bits [pos + n - 1:pos] of a value. -/
def bfxW (a : Word) (pos n : Nat) : Word := (a >>> pos) &&& maskW n

/-- A value with bits [pos + n - 1:pos] replaced by the low bits of another. -/
def bfiW (old a : Word) (pos n : Nat) : Word := (old &&& ~~~(maskW n <<< pos)) ||| ((a &&& maskW n) <<< pos)

/-- BFX (08 R138). -/
def execBfx (d a pos width : BitVec 6) (s : State) : Host.Outcome State Fault Refusal :=
  issue (.bfx d a pos width) (fun s => .done (setX s d (bfxW (xOf s a) pos.toNat (width.toNat + 1)))) s

/-- BFI (08 R138). -/
def execBfi (d a pos width : BitVec 6) (s : State) : Host.Outcome State Fault Refusal :=
  issue (.bfi d a pos width) (fun s => .done (setX s d (bfiW (xOf s d) (xOf s a) pos.toNat (width.toNat + 1)))) s

/-- SEL (08 R138). -/
def execSel (d a b f : BitVec 6) (s : State) : Host.Outcome State Fault Refusal :=
  issue (.sel d a b f)
    (fun s => .done (setX s d (if (readP s.me.regs (f.toNat % 32))[0] != f[5] then xOf s a else xOf s b))) s

/-! Predicates (08 R139-R141). -/

/-- Every lane of p[d] set to a truth value. -/
def setPred (s : State) (d : Nat) (b : Bool) : State := mapRegs s fun r => setLanes r d b

/-- CMP, equality and signed (08 R139). -/
def execCmpSigned (pd a b cc : BitVec 6) (s : State) : Host.Outcome State Fault Refusal :=
  issue (.cmpSigned pd a b cc) (fun s => .done (setPred s pd.toNat (cmpSignedCode cc.toNat (xOf s a) (xOf s b)))) s

/-- CMP, unsigned (08 R139). -/
def execCmpUnsigned (pd a b cc : BitVec 6) (s : State) : Host.Outcome State Fault Refusal :=
  issue (.cmpUnsigned pd a b cc) (fun s => .done (setPred s pd.toNat (cmpUnsignedCode cc.toNat (xOf s a) (xOf s b)))) s

/-- PLOG (08 R140). -/
def execPlog (pd pa pb fn : BitVec 6) (s : State) : Host.Outcome State Fault Refusal :=
  issue (.plog pd pa pb fn)
    (fun s => .done (mapRegs s fun r => writeP r pd.toNat (plogLanes fn.toNat (readP r pa.toNat) (readP r pb.toNat)))) s

/-- PSETN (08 R141). -/
def execPsetn (pd a : BitVec 6) (s : State) : Host.Outcome State Fault Refusal :=
  issue (.psetn pd a) (fun s => .done (mapRegs s fun r => writeP r pd.toNat (lanesBelow (readX r a).toNat))) s

/-- PTEST (08 R141). -/
def execPtest (d pa : BitVec 6) (s : State) : Host.Outcome State Fault Refusal :=
  issue (.ptest d pa) (fun s => .done (setX s d (BitVec.ofNat 64 (laneCount (readP s.me.regs pa.toNat))))) s

/-! Immediates (08 R142, R143). -/

/-- The immediate of a CI word, sign-extended. -/
def immW (imm : BitVec 12) : Word := imm.signExtend 64

/-- A CI word: the operation on x[XA] and the immediate. -/
def aluImm (d a : BitVec 6) (imm : BitVec 12) (op : Word → Word → Word) (s : State) : Res :=
  .done (setX s d (op (xOf s a) (immW imm)))

/-- ADDI (08 R142). -/
def execAddi (d a : BitVec 6) (imm : BitVec 12) (s : State) : Host.Outcome State Fault Refusal :=
  issue (.addi d a imm) (aluImm d a imm (fun a b => a + b)) s

/-- ANDI (08 R142). -/
def execAndi (d a : BitVec 6) (imm : BitVec 12) (s : State) : Host.Outcome State Fault Refusal :=
  issue (.andi d a imm) (aluImm d a imm (fun a b => a &&& b)) s

/-- ORI (08 R142). -/
def execOri (d a : BitVec 6) (imm : BitVec 12) (s : State) : Host.Outcome State Fault Refusal :=
  issue (.ori d a imm) (aluImm d a imm (fun a b => a ||| b)) s

/-- XORI (08 R142). -/
def execXori (d a : BitVec 6) (imm : BitVec 12) (s : State) : Host.Outcome State Fault Refusal :=
  issue (.xori d a imm) (aluImm d a imm (fun a b => a ^^^ b)) s

/-- SHLI (08 R142). -/
def execShli (d a : BitVec 6) (imm : BitVec 12) (s : State) : Host.Outcome State Fault Refusal :=
  issue (.shli d a imm) (aluImm d a imm (shlW)) s

/-- SHRI (08 R142). -/
def execShri (d a : BitVec 6) (imm : BitVec 12) (s : State) : Host.Outcome State Fault Refusal :=
  issue (.shri d a imm) (aluImm d a imm (shrW)) s

/-- SARI (08 R142). -/
def execSari (d a : BitVec 6) (imm : BitVec 12) (s : State) : Host.Outcome State Fault Refusal :=
  issue (.sari d a imm) (aluImm d a imm (sarW)) s

/-- MULI (08 R142). -/
def execMuli (d a : BitVec 6) (imm : BitVec 12) (s : State) : Host.Outcome State Fault Refusal :=
  issue (.muli d a imm) (aluImm d a imm (fun a b => a * b)) s

/-- A compare with the sign-extended immediate. -/
def cmpImm (pd a : BitVec 6) (imm : BitVec 12) (op : Word → Word → Bool) (s : State) : Res :=
  .done (setPred s pd.toNat (op (xOf s a) (immW imm)))

/-- CMPI.EQ (08 R139). -/
def execCmpiEq (pd a : BitVec 6) (imm : BitVec 12) (s : State) : Host.Outcome State Fault Refusal :=
  issue (.cmpiEq pd a imm) (cmpImm pd a imm (fun a b => a == b)) s

/-- CMPI.NE (08 R139). -/
def execCmpiNe (pd a : BitVec 6) (imm : BitVec 12) (s : State) : Host.Outcome State Fault Refusal :=
  issue (.cmpiNe pd a imm) (cmpImm pd a imm (fun a b => a != b)) s

/-- CMPI.LT (08 R139). -/
def execCmpiLt (pd a : BitVec 6) (imm : BitVec 12) (s : State) : Host.Outcome State Fault Refusal :=
  issue (.cmpiLt pd a imm) (cmpImm pd a imm (fun a b => a.slt b)) s

/-- CMPI.LE (08 R139). -/
def execCmpiLe (pd a : BitVec 6) (imm : BitVec 12) (s : State) : Host.Outcome State Fault Refusal :=
  issue (.cmpiLe pd a imm) (cmpImm pd a imm (fun a b => a.sle b)) s

/-- CMPI.LTU (08 R139). -/
def execCmpiLtu (pd a : BitVec 6) (imm : BitVec 12) (s : State) : Host.Outcome State Fault Refusal :=
  issue (.cmpiLtu pd a imm) (cmpImm pd a imm (fun a b => a.ult b)) s

/-- CMPI.LEU (08 R139). -/
def execCmpiLeu (pd a : BitVec 6) (imm : BitVec 12) (s : State) : Host.Outcome State Fault Refusal :=
  issue (.cmpiLeu pd a imm) (cmpImm pd a imm (fun a b => a.ule b)) s

/-- LIH (08 R143). -/
def execLih (d : BitVec 6) (imm : BitVec 18) (s : State) : Host.Outcome State Fault Refusal :=
  issue (.lih d imm) (fun s => .done (setX s d ((xOf s d <<< 18) ||| imm.setWidth 64))) s

/-- LDIL (08 R143). -/
def execLdil (d : BitVec 6) (imm : BitVec 46) (s : State) : Host.Outcome State Fault Refusal :=
  issue (.ldil d imm) (fun s => .done (setX s d (imm.signExtend 64))) s

/-! CSRs (03 R54-R57, 08 R144, R145). -/

/-- The value of a CSR, or the code its read raises. -/
def csrRead (s : State) (n : Nat) : Except Nat Word :=
  let c := s.me
  match n with
  | 0x000 => .ok c.task.taskid
  | 0x001 => .ok (BitVec.ofNat 64 c.id)
  | 0x002 => .ok (BitVec.ofNat 64 (corePos c.id))
  | 0x003 => .ok (BitVec.ofNat 64 c.flow.lsn)
  | 0x004 => .ok (BitVec.ofNat 64 c.csr.cycle)
  | 0x005 => .ok (BitVec.ofNat 64 s.time)
  | 0x010 => .ok c.csr.gotbase
  | 0x011 => .ok c.csr.seed
  | 0x012 => .ok (c.csr.rmode.setWidth 64)
  | 0x013 => .ok (c.csr.vl.setWidth 64)
  | 0x014 => .ok (BitVec.ofNat 64 c.csr.cycleft)
  | 0x015 => .ok (BitVec.ofNat 64 s.rmap.version)
  | 0x016 => .ok c.csr.trapvec
  | 0x017 => .ok c.csr.emuvec
  | 0x018 => .ok (BitVec.ofNat 64 c.regions.length)
  | 0x019 => .ok c.csr.faultrec
  | 0x020 => .error 0x0202
  | _ => .error 0x0102

/-- The CSRs written. -/
def setCsr (s : State) (f : Csrs → Csrs) : State := { s with me := { s.me with csr := f s.me.csr } }

/-- A value put on the mode queues of the engines that apply it (14 R287). -/
def pushModes (s : State) (rmode : Bool) (v : Nat) : State :=
  let e : ModeEntry := { tag := s.me.flow.lsn, rmode := rmode, val := v }
  let t := s.me.str
  match s.me.form with
  | .logical => s
  | .slices =>
    { s with me := { s.me with str :=
        { t with modeS := t.modeS ++ [e], modeV := t.modeV ++ [e], modeM := if rmode then t.modeM ++ [e] else t.modeM } } }

/-- Whether the mode queues that a value goes to have room: 8 entries each (14 R293). -/
def modeRoom (s : State) (rmode : Bool) : Bool :=
  let t := s.me.str
  match s.me.form with
  | .logical => true
  | .slices => t.modeS.length < 8 && t.modeV.length < 8 && (!rmode || t.modeM.length < 8)

/-- The effect of CSRWR (03 R54, R55, 08 R144). -/
def csrWrite (s : State) (n : Nat) (v : Word) : Res :=
  match n with
  | 0x012 =>
    if 15 < v.toNat then .fail s 0x0102
    else if modeRoom s true = false then .wait s .queue
    else .done (pushModes (setCsr s fun c => { c with rmode := v.setWidth 4 }) true v.toNat)
  | 0x013 =>
    if 512 < v.toNat then .fail s 0x0102
    else if modeRoom s false = false then .wait s .queue
    else .done (pushModes (setCsr s fun c => { c with vl := v.setWidth 10 }) false v.toNat)
  | 0x016 => if v.toNat % 4 ≠ 0 then .fail s 0x0203 else .done (setCsr s fun c => { c with trapvec := v })
  | 0x017 => if v.toNat % 4 ≠ 0 then .fail s 0x0203 else .done (setCsr s fun c => { c with emuvec := v })
  | 0x019 => if v.toNat % 128 ≠ 0 then .fail s 0x0203 else .done (setCsr s fun c => { c with faultrec := v })
  | _ =>
    match csrRead s n with
    | .ok _ => .fail s 0x0202
    | .error c => .fail s c

/-- CSRRD (08 R144). -/
def execCsrrd (d : BitVec 6) (csr : BitVec 12) (s : State) : Host.Outcome State Fault Refusal :=
  issue (.csrrd d csr) (fun s => match csrRead s csr.toNat with | .ok v => .done (setX s d v) | .error c => .fail s c) s

/-- CSRWR (08 R144). -/
def execCsrwr (a : BitVec 6) (csr : BitVec 12) (s : State) : Host.Outcome State Fault Refusal :=
  issue (.csrwr a csr) (fun s => csrWrite s csr.toNat (xOf s a)) s

/-- NOP (08 R159). -/
def execNop (s : State) : Host.Outcome State Fault Refusal := issue .nop (fun s => .done s) s

end Sys2Proof.Machine
end

