-- ==== Sys2Proof/Machine/LoadStore.lean ====
section
/-! DEFINITION. Control-engine memory access: constants, scalar loads and stores, atomics, fences and markers, address tests, and
the steps of the memory machine (08 R146-R151, 12 R250-R254, 11 R212-R219, 05 R94). -/

namespace Sys2Proof.Machine

/-! What loads share. -/

/-- A check that failed: 0x0404 has no address. -/
def chkFail (s : State) (code addr : Nat) : Res := if code = 0x0404 then .fail s code else .failAt s code addr

/-- A sector condition met by a C-path access: its code, the unit that holds the sector, the count (08 R151, 17 R334, R336). -/
def markFail (s : State) (m : Mark) (addr key : Nat) : Res :=
  .raise (countMark s s.me.task.part key m)
    { raiseOf s m.code (some addr) with unit := some (markUnit s m key s.me.eng),
                                        unchecked := m == .uncorrectable && isTagged s key }

/-- The next choice of whether an issued access waits in its queue (DESIGN CHOICE, log 1). Loads and atomics, which may raise, wait only in
slices, where the rewind logs undo what has run ahead of them. -/
def deferNow (s : State) : Bool := s.me.defer.headD false

/-- That choice used up. -/
def popDefer (s : State) : State := { s with me := { s.me with defer := s.me.defer.tail } }

/-- Whether a store of the C path still waits for the frontier. -/
def heldStores (s : State) : Bool := s.me.sqC.any fun q => frontier s.me < q.lsn

/-! Constants (08 R146, R147). -/

/-- A word that the cluster's constant cache holds since after the submission of the moving core's launch (08 R147). (DEDUCED, log 27.) -/
def constHeld (s : State) (k : Nat) : Option Word :=
  match s.ccache.find? fun e => e.1 == (coreCluster s.me.id, k), launchOf s s.me.task.launch with
  | some e, some l => if l.arrival < e.2.1 then some e.2.2 else none
  | _, _ => none

/-- Words that a cluster's constant cache holds: 64 KiB (01 R10). -/
def constCap : Nat := 8192

/-- A word read at its home, held by the cluster's constant cache from then on; where that is full the word read longest ago leaves
(DESIGN CHOICE, log 59). -/
def cacheConst (s : State) (cluster arrivals k : Nat) (w : Word) : State :=
  let at_ := (cluster, k)
  { s with ccache := keepFirst constCap (fun e => e.1.1 == at_.1) ((at_, arrivals, w) :: s.ccache.filter fun e => e.1 != at_) }

/-- A word at its home as the constant cache reads it. -/
def constWord (s : State) (k : Nat) : Word := BitVec.ofNat 64 (natOf (cellsGet s.mem k 8))

/-- A cluster's constant cache reads a word ahead of any LDG or LDC (08 R147; DEDUCED, log 27): of a GDDR-7 sector without a condition. -/
def fillConst (s : State) (cluster k : Nat) : State :=
  match s.parts.find? fun p => p.cfg.ranges.contains (k / Config.rangeBytes) with
  | some p => if isGddr k ∧ k % 8 = 0 ∧ markOf s k = none then cacheConst s cluster p.arrivals k (constWord s k) else s
  | none => s

/-- LDG and LDC: the word of the constant cache, else the home's, which the cache then holds. -/
def loadConst (d : BitVec 6) (a : Nat) (s : State) : Res :=
  if 2 ^ 52 ≤ a then .failAt s 0x0204 a
  else if a % 8 ≠ 0 then .failAt s 0x0203 a
  else
    match translate s (myPart s) a false with
    | (t, .error c) => .failAt t c a
    | (t, .ok k) =>
      match (if deferNow t then constHeld t k else none) with
      | some w => .done (setX (popDefer t) d w)
      | none =>
        match markOf t k with
        | some m => markFail t m a k
        | none =>
          .done (setX (cacheConst (popDefer (noteSoft t t.me.task.part k)) (coreCluster t.me.id) (myPart t).arrivals k (constWord t k)) d
            (constWord t k))

/-- LDG (08 R146). -/
def execLdg (d : BitVec 6) (off : BitVec 12) (s : State) : Host.Outcome State Fault Refusal :=
  issue (.ldg d off) (fun s => loadConst d ((s.me.csr.gotbase.toNat + 8 * off.toNat) % 2 ^ 64) s) s

/-- LDC (08 R146). -/
def execLdc (d a : BitVec 6) (imm : BitVec 12) (s : State) : Host.Outcome State Fault Refusal :=
  issue (.ldc d a imm) (fun s => loadConst d (addDisp (xOf s a) imm.toInt) s) s

/-! Scalar loads (08 R148-R151). -/

/-- Whether an issued access older than the word has not acted: one that raises, or one that waits for it (08 R151, 11 R212). -/
def olderLoad (s : State) : Bool := s.me.lqC.any fun e => e.lsn < s.me.flow.lsn

/-- The load performed now: every older load first, then what R213 puts before it. (DEDUCED, log 22.) -/
def loadNow (s : State) (d : BitVec 6) (k : Acc1) (addr n : Nat) (signed : Bool) : Res :=
  let l := s.me.flow.lsn
  let t := settleAtomics (performAll s) k.key n
  if olderLoad t ∨ coveredByAtomic t k.key n = true then .wait t .queue
  else
    match loadMark t l k.key n k.global with
    | some m => markFail t m addr k.key
    | none =>
      let r := loadBytes t l k.key n k.global
      .done (setX r.1 d (extendLoad signed r.2))

/-- The load as an entry of LQ(C) that performs later. -/
def loadLater (s : State) (d : BitVec 6) (k : Acc1) (addr n : Nat) (signed : Bool) : State :=
  { s with me := { s.me with lqC := s.me.lqC ++ [{ lsn := s.me.flow.lsn, pc := s.me.flow.pc, xd := d, signed := signed, bytes := n,
                                                   key := k.key, addr := addr, global := k.global, mark := none,
                                                   clear := (loadMark s s.me.flow.lsn k.key n k.global).isNone }] } }

/-- A remote access that its home refused: a sector's condition was met and counted there, in the storage of the version's pool (19 R371). -/
def awayFail (s : State) (code home ver off addr : Nat) : Res :=
  let r := raiseOf s code (some addr)
  if code / 256 = 6 then .raise s { r with unchecked := code == 0x0601, unit := some (farUnit home ver addr off) } else .raise s r

/-- A load through a handle on a version homed elsewhere: the older stores go out first, the home answers once the version may
be read, and a see-load takes an acquire of fabric scope (13 R274). -/
def loadAway (s : State) (d : BitVec 6) (k : Acc1) (home addr n : Nat) (signed see : Bool) : Res :=
  if heldStores s then .wait s .queue else
  let s := performAll (departAll s)
  if olderLoad s ∨ unackedTo s home (k.ver.getD 0) = true then .wait s .queue
  else
    match fabricFetch s 0 home (k.ver.getD 0) k.key n k.fill with
    | (t, none) => .wait t t.me.wait
    | (t, some (.refused c)) => awayFail (if c = 0x0401 then knowState t home (k.ver.getD 0) 2 else t) c home (k.ver.getD 0) k.key addr
    | (t, some (.bytes bs)) =>
      .done (setX (if see then acquire (knowState t home (k.ver.getD 0) 1) 6 else t) d (extendLoad signed bs))

/-- Whether a base designates a see handle. -/
def isSee (s : State) (hb : BitVec 1) (a : BitVec 6) : Bool :=
  hb == 1 && (match readH s.me.regs a.toNat with | .held h _ => !h.fill | _ => false)

/-- The byte address an access reports. -/
def baseAddr (s : State) (hb : BitVec 1) (a : BitVec 6) (disp : Int) : Nat :=
  if hb = 1 then
    match readH s.me.regs a.toNat with
    | .held h _ => ((window 4 + h.name + disp) % 2 ^ 64).toNat
    | _ => 0
  else addDisp (xOf s a) disp

/-- A scalar load of `n` bytes. -/
def loadBody (d a : BitVec 6) (hb : BitVec 1) (disp : Int) (n : Nat) (signed : Bool) (s : State) : Res :=
  let addr := baseAddr s hb a disp
  match checkC s hb a disp n false false with
  | (t, .bad c x) => chkFail t c x
  | (t, .park v h) => .wait t (.parked v h)
  | (t, .ok k) =>
    match k.remote with
    | some home => loadAway t d k home addr n signed (isSee s hb a)
    | none =>
      let u := popDefer (unpark t)
      if deferNow t && s.me.form == .slices && u.me.lqC.length < Config.cQueue then .done (loadLater u d k addr n signed)
      else loadNow u d k addr n signed

/-- LDB (08 R148). -/
def execLdb (d a : BitVec 6) (hb : BitVec 1) (disp : BitVec 11) (s : State) : Host.Outcome State Fault Refusal :=
  issue (.ldb d a hb disp) (loadBody d a hb disp.toInt 1 true) s

/-- LDBU (08 R148). -/
def execLdbu (d a : BitVec 6) (hb : BitVec 1) (disp : BitVec 11) (s : State) : Host.Outcome State Fault Refusal :=
  issue (.ldbu d a hb disp) (loadBody d a hb disp.toInt 1 false) s

/-- LDH (08 R148). -/
def execLdh (d a : BitVec 6) (hb : BitVec 1) (disp : BitVec 11) (s : State) : Host.Outcome State Fault Refusal :=
  issue (.ldh d a hb disp) (loadBody d a hb disp.toInt 2 true) s

/-- LDHU (08 R148). -/
def execLdhu (d a : BitVec 6) (hb : BitVec 1) (disp : BitVec 11) (s : State) : Host.Outcome State Fault Refusal :=
  issue (.ldhu d a hb disp) (loadBody d a hb disp.toInt 2 false) s

/-- LDW (08 R148). -/
def execLdw (d a : BitVec 6) (hb : BitVec 1) (disp : BitVec 11) (s : State) : Host.Outcome State Fault Refusal :=
  issue (.ldw d a hb disp) (loadBody d a hb disp.toInt 4 true) s

/-- LDWU (08 R148). -/
def execLdwu (d a : BitVec 6) (hb : BitVec 1) (disp : BitVec 11) (s : State) : Host.Outcome State Fault Refusal :=
  issue (.ldwu d a hb disp) (loadBody d a hb disp.toInt 4 false) s

/-- LDD (08 R148). -/
def execLdd (d a : BitVec 6) (hb : BitVec 1) (disp : BitVec 11) (s : State) : Host.Outcome State Fault Refusal :=
  issue (.ldd d a hb disp) (loadBody d a hb disp.toInt 8 false) s

/-! Scalar stores (08 R148-R150). -/

/-- SQ(C) with a place free: with all taken, the head departs once the frontier has reached it; none until then (14 R293). -/
def roomC (s : State) : Option State :=
  if s.me.sqC.length < Config.cQueue then some s
  else
    match s.me.sqC.head? with
    | some q => if q.lsn ≤ frontier s.me then some (departUpTo (s.me.lqC.length + 1) q.lsn s) else none
    | none => some s

/-- An entry at the tail of SQ(C). -/
def enqueueC (s : State) (e : SqEntry) : State := { s with me := { s.me with sqC := s.me.sqC ++ [e] } }

/-- The entry of a store of bytes where its checks found it. -/
def storeEntry (s : State) (k : Acc1) (bs : List Byte) : SqEntry :=
  { lsn := s.me.flow.lsn, pc := s.me.flow.pc, key := if k.remote.isSome then 0 else k.key, addr := 0, bytes := bs, global := k.global,
    ver := k.ver, remote := k.remote.map fun m => (m, k.key), atomic := none, mark := none }

/-- A scalar store of the low `n` bytes of x[d]: it enters SQ(C) with its data. -/
def storeBody (d a : BitVec 6) (hb : BitVec 1) (disp : Int) (n : Nat) (s : State) : Res :=
  match checkC s hb a disp n true false with
  | (t, .bad c x) => chkFail t c x
  | (t, .park v h) => .wait t (.parked v h)
  | (t, .ok k) =>
    match roomC t with
    | none => .wait t .queue
    | some u => .done (enqueueC u (storeEntry u k (bytesOf n (xOf s d).toNat)))

/-- STB (08 R148). -/
def execStb (d a : BitVec 6) (hb : BitVec 1) (disp : BitVec 11) (s : State) : Host.Outcome State Fault Refusal :=
  issue (.stb d a hb disp) (storeBody d a hb disp.toInt 1) s

/-- STH (08 R148). -/
def execSth (d a : BitVec 6) (hb : BitVec 1) (disp : BitVec 11) (s : State) : Host.Outcome State Fault Refusal :=
  issue (.sth d a hb disp) (storeBody d a hb disp.toInt 2) s

/-- STW (08 R148). -/
def execStw (d a : BitVec 6) (hb : BitVec 1) (disp : BitVec 11) (s : State) : Host.Outcome State Fault Refusal :=
  issue (.stw d a hb disp) (storeBody d a hb disp.toInt 4) s

/-- STD (08 R148). -/
def execStd (d a : BitVec 6) (hb : BitVec 1) (disp : BitVec 11) (s : State) : Host.Outcome State Fault Refusal :=
  issue (.std d a hb disp) (storeBody d a hb disp.toInt 8) s

/-! Address tests (12 R253, R254). -/

/-- The checks of 11 R205 that depend only on the address and the task's crew. -/
def inSpace (s : State) (space a : Nat) : Bool :=
  let off := a % 2 ^ 56
  match space with
  | 0 => a < 2 ^ 52
  | 1 => a / 2 ^ 56 == 0xF0 && off < 2 ^ 20
  | 2 => a / 2 ^ 56 == 0xF1 && off < 2 ^ 23 && isMate s (mateAt s (off / 2 ^ 20))
  | 3 => a / 2 ^ 56 == 0xF2 && off / 2 ^ 22 < 128 && off / 2 ^ 22 % 64 < 48
  | 4 => a / 2 ^ 56 == 0xF3 && off / 2 ^ 32 < 2
  | _ => a / 2 ^ 56 == 0xF4 && off < 2 ^ 52

/-- The address of the same byte in another window, or 0 (12 R254). -/
def rewindow (s : State) (a : Word) (src dst : Nat) : Word :=
  let off := a.toNat % 2 ^ 20
  if inSpace s src a.toNat = false then 0
  else if src = dst then a
  else if src = 1 ∧ dst = 2 then BitVec.ofNat 64 (window 1 + corePos s.me.id * 2 ^ 20 + off)
  else if src = 2 ∧ dst = 1 ∧ a.toNat % 2 ^ 56 / 2 ^ 20 = corePos s.me.id then BitVec.ofNat 64 (window 0 + off)
  else 0

/-- CVTA (12 R254). -/
def execCvta (d a f : BitVec 6) (s : State) : Host.Outcome State Fault Refusal :=
  issue (.cvta d a f) (fun s => .done (setX s d (rewindow s (xOf s a) (f.toNat % 8) (f.toNat / 8)))) s

/-- ISSPACE (12 R253). -/
def execIsspace (pd a f : BitVec 6) (s : State) : Host.Outcome State Fault Refusal :=
  issue (.isspace pd a f)
    (fun s => .done (mapRegs s fun r => setLanes r pd.toNat (inSpace s f.toNat (xOf s a).toNat))) s

/-! Fences and markers (11 R216-R218). -/

/-- A marker in LQ(C). -/
def markL (s : State) (scope : BitVec 3) (sq : Bool) : State :=
  { s with me := { s.me with lqC := s.me.lqC ++ [{ lsn := s.me.flow.lsn, pc := s.me.flow.pc, xd := 0, signed := false, bytes := 0,
                                                   key := 0, addr := 0, global := false, mark := some (scope, sq) }] } }

/-- A marker in SQ(C), with the scope of its release if it has one. -/
def markS (s : State) (rel : Option (BitVec 3)) : State :=
  enqueueC s { lsn := s.me.flow.lsn, pc := s.me.flow.pc, key := 0, addr := 0, bytes := [], global := false, ver := none, remote := none,
               atomic := none, mark := some rel }

/-- Whether both queues of the C path have a place for a marker. -/
def markRoom (s : State) : Bool := s.me.lqC.length < Config.cQueue && s.me.sqC.length < Config.cQueue

/-- QMARK (11 R218). -/
def execQmark (s : State) : Host.Outcome State Fault Refusal :=
  issue .qmark (fun s =>
    if deferNow s && markRoom s then .done (markS (markL (popDefer s) 0 true) none) else .done (drainC (popDefer s))) s

/-- The effect of FENCE when nothing waits: 1 acq, 2 rel, 3 ar (11 R216). -/
def fenceNow (s : State) (ord scope : Nat) : State :=
  let t := if ord = 1 then performAll s else releaseScope (drainC s) scope
  if ord = 2 then t else invalidate t scope

/-- FENCE (11 R215, R216). -/
def execFence (f : BitVec 6) (s : State) : Host.Outcome State Fault Refusal :=
  issue (.fence f) (fun s =>
    let ord := f.toNat % 4
    let scope := f.toNat / 4 % 8
    let sc := BitVec.ofNat 3 scope
    if deferNow s && markRoom s then
      let t := popDefer s
      .done (match ord with
        | 1 => markS (markL t sc false) none
        | 2 => markS t (some sc)
        | _ => markS (markL t sc true) (some sc))
    else .done (fenceNow (popDefer s) ord scope)) s

/-- PFENCE: its waits on both paths, then the write-back and invalidation of L1 at every scope, and the remote-view drops of its
scope (11 R217). -/
def pfenceNow (s : State) (ord scope : Nat) : State :=
  let t := if ord = 2 then drainSBelow (departAll s) s.me.flow.lsn
    else
      let u := endParts (readBelow (if ord = 1 then performAll s else drainC s) s.me.flow.lsn)
      if ord = 1 then u else drainSBelow u s.me.flow.lsn
  invalidate (dropClean (writeBackAll t)) scope

/-- PFENCE (11 R217). -/
def execPfence (a b f : BitVec 6) (s : State) : Host.Outcome State Fault Refusal :=
  issue (.pfence a b f) (fun s => .done (pfenceNow s (f.toNat % 4) (f.toNat / 4 % 8))) s

/-! Atomics (12 R250, R251). -/

/-- The checks of an atomic: those of R149 for a read and a write, alignment to its width, no scratch (12 R251). -/
def checkAtomic (s : State) (hb : BitVec 1) (a : BitVec 6) (disp : Int) (n : Nat) : State × Chk :=
  if hb = 1 then checkC s hb a disp n true true
  else
    match checkC s hb a disp n false true with
    | (t, .ok _) => checkC t hb a disp n true true
    | r => r

/-- An atomic of a version homed elsewhere: the home acts and answers with the old value (11 R219, 13 R274). -/
def atomicAway (s : State) (k : Acc1) (op : AtomicOp) (home addr : Nat) : Res :=
  let t := if op.ord = 2 ∨ op.ord = 3 then releaseScope (drainC s) op.scope.toNat else departAll s
  let body : PacketBody := .atomic op.op op.cas op.wide k.key op.b op.c k.ver
  match s.me.wait with
  | .fabric _ _ (some (.refused c)) => awayFail s c home (k.ver.getD 0) k.key addr
  | .fabric _ _ (some (.bytes bs)) =>
    let u := setX t op.xd (BitVec.ofNat 64 (natOf bs))
    .done (if op.ord = 1 ∨ op.ord = 3 then acquire u op.scope.toNat else u)
  | .fabric _ _ none => .wait s s.me.wait
  | _ =>
    let d := drawAsk t
    .wait (sendPacket d.1 s.me.task.part s.me.task.launch home 0 d.2 body) (.fabric [] d.2 none)

/-- The atomic as an entry of SQ(C), with the markers of the fences that its order stands for before and behind it (11 R219). -/
def atomicLater (s : State) (e : SqEntry) (op : AtomicOp) : State :=
  let t := if op.ord = 2 ∨ op.ord = 3 then markS s (some op.scope) else s
  let t := enqueueC t e
  if op.ord = 1 ∨ op.ord = 3 then markS (markL t op.scope true) none else t

/-- The atomic with everything before it departed, its release before and its acquire after it (11 R219). -/
def atomicNow (s : State) (e : SqEntry) (op : AtomicOp) : State :=
  let t := if op.ord = 2 ∨ op.ord = 3 then releaseScope (drainC s) op.scope.toNat else s
  let t := departAll (enqueueC t e)
  if op.ord = 1 ∨ op.ord = 3 then acquire t op.scope.toNat else t

/-- AMO and CAS: the atomic joins SQ(C), and unless it waits there everything before it departs and its Atomic step is
taken. -/
def atomicBody (a : BitVec 6) (hb : BitVec 1) (disp : Int) (op : AtomicOp) (s : State) : Res :=
  let n := if op.wide then 8 else 4
  let addr := baseAddr s hb a disp
  match checkAtomic s hb a disp n with
  | (t, .bad c x) => chkFail t c x
  | (t, .park v h) => .wait t (.parked v h)
  | (t, .ok k) =>
    match k.remote with
    | some home => atomicAway t k op home addr
    | none =>
      match atomicMark t k.key with
      | some m => markFail (flushSector t k.key) m addr k.key
      | none =>
        match roomC t with
        | none => .wait t .queue
        | some u =>
          let e : SqEntry := { storeEntry u k [] with addr := addr, atomic := some op }
          let room := u.me.sqC.length + 3 ≤ Config.cQueue ∧ u.me.lqC.length < Config.cQueue
          .done (if deferNow u ∧ s.me.form = .slices ∧ room then atomicLater (popDefer u) e op else atomicNow (popDefer u) e op)

/-- AMO (12 R250). -/
def execAmo (op : BitVec 4) (sz : BitVec 1) (ord : BitVec 2) (scope : BitVec 3) (d a b : BitVec 6) (hb : BitVec 1)
    (disp : BitVec 13) (s : State) : Host.Outcome State Fault Refusal :=
  issue (.amo op sz ord scope d a b hb disp)
    (fun s => atomicBody a hb disp.toInt { op := op, cas := false, wide := sz == 1, ord := ord, scope := scope, xd := d,
                                           b := xOf s b, c := 0 } s) s

/-- CAS (12 R250). -/
def execCas (sz : BitVec 1) (ord : BitVec 2) (scope : BitVec 3) (c d a b : BitVec 6) (hb : BitVec 1) (disp : BitVec 13)
    (s : State) : Host.Outcome State Fault Refusal :=
  issue (.cas sz ord scope c d a b hb disp)
    (fun s => atomicBody a hb disp.toInt { op := 0, cas := true, wide := sz == 1, ord := ord, scope := scope, xd := d,
                                           b := xOf s b, c := xOf s c } s) s

/-! Steps of the memory machine taken on their own (11 R212, R214, R219; 05 R94). -/

/-- FRONTIER_POST: posts deferred to the frontier are made once it has reached their words (05 R94). -/
def execFrontierPost (core : Nat) (s : State) : Host.Outcome State Fault Refusal := event (onCore core firePosts s)

/-- Perform on the moving core. -/
def performStep (path : Path) (s : State) : State :=
  match path with
  | .c => match s.me.lqC.head? with | some e => if lqReady s e then performHead s else s | none => s
  | .s => if nextBlocked [] s.me.sqS then s else readNext s [] s.me.sqS

/-- PERFORM (11 R212); an access that comes to act at a bad sector raises (08 R151). -/
def execPerform (core : Nat) (path : Path) (s : State) : Host.Outcome State Fault Refusal :=
  event (onCore core (fun t => if (lateAccess t).isSome then raiseLate t else performStep path t) s)

/-- Depart of a store or marker on the moving core. -/
def departStep (path : Path) (s : State) : State :=
  match path with
  | .c =>
    match s.me.sqC.head? with
    | some e => if e.lsn ≤ frontier s.me ∧ e.atomic.isNone = true ∧ sqReady s e = true then departHead s else s
    | none => s
  | .s => match s.me.sqS.head? with | some c => if c.lsn ≤ frontier s.me then departS s else s | none => s

/-- DEPART (11 R212). -/
def execDepart (core : Nat) (path : Path) (s : State) : Host.Outcome State Fault Refusal :=
  event (onCore core (departStep path) s)

/-- WRITEBACK (11 R212). -/
def execWriteback (core sector : Nat) (words : BitVec 16) (s : State) : Host.Outcome State Fault Refusal :=
  event (onCore core (fun t => writeBackWords t sector words) s)

/-- DIRTY_WRITEBACK_TIMEOUT: a dirty byte is written back at the latest 65,536 uncore cycles after it became dirty (11 R214). -/
def execDirtyWritebackTimeout (core sector : Nat) (s : State) : Host.Outcome State Fault Refusal :=
  event (onCore core (fun t => writeBackWords t sector (BitVec.allOnes 16)) s)

/-- Fill on the moving core: of a global sector whose read meets no condition at its home. -/
def fillStep (sec : Nat) (s : State) : State :=
  if isGddr (64 * sec) && !(readsHome s (coreDie s.me.id) (64 * sec) true && (markOf s (64 * sec)).isSome)
  then fillSector s sec else s

/-- FILL (11 R212). -/
def execFill (core sector : Nat) (s : State) : Host.Outcome State Fault Refusal := event (onCore core (fillStep sector) s)

/-- DROP (11 R212). -/
def execDrop (core sector : Nat) (s : State) : Host.Outcome State Fault Refusal :=
  event (onCore core (fun t => dropSector t sector) s)

/-- A read at home for no task: it counts to the partition that owns the bytes. -/
def noteOwner (s : State) (k : Nat) : State :=
  match s.parts.find? fun p => p.cfg.ranges.contains (k / Config.rangeBytes) with
  | some p => noteSoft s p.cfg.part k
  | none => s

/-- RVFILL (11 R212). -/
def execRvfill (die sector : Nat) (s : State) : Host.Outcome State Fault Refusal :=
  event (if die < 2 && isGddr (64 * sector) && keyDie (64 * sector) != die && (markOf s (64 * sector)).isNone
         then rvFill (noteOwner s (64 * sector)) die sector else s)

/-- RVDROP (11 R212). -/
def execRvdrop (die sector : Nat) (s : State) : Host.Outcome State Fault Refusal := event (rvDrop s die sector)

/-- The Atomic step of the moving core's head. -/
def atomicHead (s : State) : State :=
  match s.me.sqC.head? with
  | some e => if e.lsn ≤ frontier s.me ∧ e.atomic.isSome = true ∧ sqReady s e = true then departHead s else s
  | none => s

/-- ATOMIC (11 R219). -/
def execAtomic (core : Nat) (s : State) : Host.Outcome State Fault Refusal := event (onCore core atomicHead s)

end Sys2Proof.Machine
end

