-- ==== Sys2Proof/Machine/FlowWords.lean ====
section
/-! DEFINITION. Branches and calls, hardware loops, decision queues, containment regions, the task's end, traps and breakpoints,
and the flow words of the stream, vector and matrix slices (08 R152-R158, 09 R181-R183, 10 R200, 12 R249, 16 R324, R325,
18 R355-R358, 19 R362, R363). -/

namespace Sys2Proof.Machine

/-! Prepared targets (08 R152). -/

/-- PC + 4 * SignExtend(DISP21). -/
def dispPc (pc : Word) (disp : BitVec 21) : Word := pc + 4 * disp.signExtend 64

/-- PBR (08 R152). -/
def execPbr (t : BitVec 3) (disp : BitVec 21) (s : State) : Host.Outcome State Fault Refusal :=
  issue (.pbr t disp) (fun s => .done (mapRegs s fun r => writeT r t.toNat (dispPc (logicalPc s.me) disp))) s

/-- PBRX (08 R152). -/
def execPbrx (t : BitVec 6) (a : BitVec 6) (s : State) : Host.Outcome State Fault Refusal :=
  issue (.pbrx t a) (fun s => .done (mapRegs s fun r => writeT r t.toNat (readX r a))) s

/-! Return words (18 R358): the control flow of a kernel. -/

/-- First units of the instructions of a text, from unit `k` on, with the instruction's units. -/
def textWords (text : List (BitVec 32)) (k skip : Nat) : List (Nat × Nat) :=
  match text with
  | [] => []
  | u :: rest =>
    if skip = 0 then (k, u.toNat) :: textWords rest (k + 1) (unitsOf u.toNat - 1) else textWords rest (k + 1) (skip - 1)

/-- The unit a signed displacement of units from `k` reaches. -/
def dispUnit (k : Nat) (disp : Nat) : Nat := (((k : Int) + signedOf 21 disp) % 2 ^ 62).toNat

/-- Where a BR or CALL on t[n] may go: the labels of every PBR of t[n]; any instruction where a PBRX prepares it. -/
def targetsOf (ws : List (Nat × Nat)) (n : Nat) : List Nat :=
  if ws.any fun w => w.2 / 2 ^ 24 == 0x51 && w.2 / 2 ^ 18 % 8 == n then ws.map Prod.fst
  else ws.filterMap fun w => if w.2 / 2 ^ 24 = 0x50 ∧ w.2 / 2 ^ 21 % 8 = n then some (dispUnit w.1 (w.2 % 2 ^ 21)) else none

/-- The instructions that may follow the one at a first unit: by fall-through, by a taken branch, by a loop-back. -/
def flowsTo (ws : List (Nat × Nat)) (k : Nat) : List Nat :=
  match ws.find? fun w => w.1 == k with
  | none => []
  | some (_, u) =>
    let op := u / 2 ^ 24
    let last := k + unitsOf u - 1
    let isBr := op == 0x52 || op == 0x53
    let always := isBr && u / 2 ^ 16 % 8 == 0
    (if always || op == 0x58 then [] else [last + 1])
      ++ (if isBr then targetsOf ws (u / 2 ^ 13 % 8) else [])
      ++ (ws.filterMap fun w => if (w.2 / 2 ^ 24 = 0x54 ∨ w.2 / 2 ^ 24 = 0x55) ∧ w.1 + 1 + w.2 % 2 ^ 14 = last
            then some (w.1 + 1) else none)

/-- The units reached from `todo`. -/
def reachFrom (fuel : Nat) (ws : List (Nat × Nat)) (todo seen : List Nat) : List Nat :=
  match fuel with
  | 0 => seen
  | f + 1 =>
    match todo with
    | [] => seen
    | k :: rest => if seen.contains k then reachFrom f ws rest seen else reachFrom f ws (flowsTo ws k ++ rest) (k :: seen)

/-- Whether the BR on t7 at a unit is a return word: no PBR or PBRX of t7 reaches it. -/
def returnAt (text : List (BitVec 32)) (k : Nat) : Bool :=
  let ws := textWords text 0 0
  let roots := ws.filterMap fun w =>
    if (w.2 / 2 ^ 24 = 0x50 ∧ w.2 / 2 ^ 21 % 8 = 7) ∨ (w.2 / 2 ^ 24 = 0x51 ∧ w.2 / 2 ^ 18 % 8 = 7) then some w.1 else none
  !(reachFrom ((ws.length + 2) * (ws.length + 2)) ws roots []).contains k

/-- Whether the BR on t7 at a logical PC is a return word. -/
def isReturn (c : Core) (pc : Word) : Bool := returnAt c.text (pc.toNat / 4)

/-- A return word that is taken: while HDL is set every slice goes to t7 and HDL is cleared (18 R358); else it is a taken BR, which
in slices takes every slice along, since it has no replica. -/
def returnWord (s : State) (dest : Word) : Res :=
  let f := s.me.flow.lsn + 1
  let go (t : State) : State := if s.me.hdl then returnException t f else redirect t dest f
  match s.me.form with
  | .logical => if s.me.hdl then .gone (charge (go s)) else .branch s dest
  | .slices => if othersAt s.me f then .gone (charge (go (rebuildTo s f (logicalPc s.me) .c none))) else .wait s .queue

/-- The checks of a taken target (08 R153, 05 R82). -/
def targetCode (c : Core) (pc : Word) : Option Nat :=
  if pc.toNat % 4 ≠ 0 then some 0x0203 else if isFirst c pc.toNat then none else some 0x0101

/-- BR (08 R152-R154, 18 R358). -/
def brBody (pred : BitVec 5) (cond t : BitVec 3) (s : State) : Res :=
  if condTest cond.toNat (readP s.me.regs pred.toNat) = false then .done s
  else
    let dest := readT s.me.regs t.toNat
    match targetCode s.me dest with
    | some c => .fail s c
    | none => if t == 7 && isReturn s.me (logicalPc s.me) then returnWord s dest else .branch s dest

/-- BR (08 R152). -/
def execBr (pred : BitVec 5) (cond t : BitVec 3) (s : State) : Host.Outcome State Fault Refusal :=
  issue (.br pred cond t) (brBody pred cond t) s

/-- CALL: x62 = PC + 4 when it is taken (08 R152, R153). -/
def callBody (pred : BitVec 5) (cond t : BitVec 3) (s : State) : Res :=
  if condTest cond.toNat (readP s.me.regs pred.toNat) = false then .done s
  else
    let dest := readT s.me.regs t.toNat
    match targetCode s.me dest with
    | some c => .fail s c
    | none => .branch (setX s 62 (logicalPc s.me + 4)) dest

/-- CALL (08 R152). -/
def execCall (pred : BitVec 5) (cond t : BitVec 3) (s : State) : Host.Outcome State Fault Refusal :=
  issue (.call pred cond t) (callBody pred cond t) s

/-! Hardware loops (08 R155, R156). -/

/-- A loop counter of the moving slice's own copy. -/
def setLoop (s : State) (n : Nat) (l : LoopCtr) : State :=
  { s with me := { s.me with flow := { s.me.flow with loops := s.me.flow.loops.setIfInBounds n l } } }

/-- Start or skip the loop `n` at a word of `units` units with BODY14 = `body` and count `cnt` (08 R156). -/
def startLoop (s : State) (n units body cnt : Nat) : Res :=
  let start := s.me.flow.pc.toNat + 4 * units
  let l := s.me.flow.loops.getD n .none
  if cnt = 0 then .skip (setLoop s n { l with active := false }) (BitVec.ofNat 64 (start + 4 * body + 4))
  else .done (setLoop s n { count := BitVec.ofNat 32 cnt, active := true, start := start, stop := start + 4 * body,
                            rank := nextRank s.me.flow.loops })

/-- The channels by which a LOOP's count reaches its replicas, S, V, M, as the loop table names them (14 R284, R291). -/
def loopChans (c : Core) : List Nat :=
  match c.form with
  | .logical => []
  | .slices =>
    match c.map.loops.find? fun r => r.1 == (logicalPc c).toNat with
    | none => []
    | some r => [0, 5, 10].filterMap fun k =>
        if 16 ≤ r.2.toNat / 2 ^ k % 32 then some (r.2.toNat / 2 ^ k % 16) else none

/-- BODY14 of the logical LOOP that the moving word stands for: in slices the rewriter has put another into the word (14 R282). -/
def logicalBody (s : State) (body : BitVec 14) : Nat :=
  match s.me.form with
  | .logical => body.toNat
  | .slices => (s.me.text.getD ((logicalPc s.me).toNat / 4) 0).toNat % 2 ^ 14

/-- LOOP with its count: the count's limit, then the loop's end (08 R155; which of the two comes first the spec leaves open: DESIGN
CHOICE, log 16); in slices the count goes to every replica, 0 included (14 R284). -/
def loopBody (l : BitVec 2) (body : BitVec 14) (cnt : Nat) (s : State) : Res :=
  if 2 ^ 32 ≤ cnt then .fail s 0x0102
  else if isLast s.me ((logicalPc s.me).toNat + 4 + 4 * logicalBody s body) = false then .fail s 0x0101
  else if (loopChans s.me).all (fun c => chanRoom s c 1) = false then .wait s .queue
  else startLoop ((loopChans s.me).foldl (fun t c => chanPush t c (.scalar (BitVec.ofNat 64 cnt))) s) l.toNat 1 body.toNat cnt

/-- LOOP with a register count (08 R155). -/
def execLoopReg (l : BitVec 2) (a : BitVec 6) (body : BitVec 14) (s : State) : Host.Outcome State Fault Refusal :=
  issue (.loopReg l a body) (fun s => loopBody l body (xOf s a).toNat s) s

/-- LOOP with an immediate count (08 R155). -/
def execLoopImm (l : BitVec 2) (cnt : BitVec 8) (body : BitVec 14) (s : State) : Host.Outcome State Fault Refusal :=
  issue (.loopImm l cnt body) (loopBody l body (cnt.toNat + 1)) s

/-! Decision queues (08 R158, 14 R423). -/

/-- Capacity of a decision queue: decisions not yet freed (14 R293, R423). -/
def decCap : Nat := 32

/-- The head of dq[q] for the moving slice: the oldest decision it has not popped. -/
def decHead (s : State) (q : Nat) : Option Bool :=
  ((s.me.str.dq.getD q []).find? fun e => !e.popped.any fun p => p.1 == s.me.eng).map DqEntry.bit

/-- The head of a list of decisions marked as popped by an engine's word at `lsn`. -/
def popDec (l : List DqEntry) (e : Engine) (lsn : Nat) : List DqEntry :=
  match l with
  | [] => []
  | d :: rest =>
    if d.popped.any fun p => p.1 == e then d :: popDec rest e lsn else { d with popped := (e, lsn) :: d.popped } :: rest

/-- A decision queue updated. -/
def setDq (s : State) (q : Nat) (l : List DqEntry) : State :=
  { s with me := { s.me with str := { s.me.str with dq := s.me.str.dq.setIfInBounds q l } } }

/-- Pop dq[q] for the moving slice. -/
def decPop (s : State) (q : Nat) : State := setDq s q (popDec (s.me.str.dq.getD q []) s.me.eng s.me.flow.lsn)

/-- DPUSH (08 R158). -/
def execDpush (pred : BitVec 5) (cond : BitVec 3) (q : BitVec 2) (s : State) : Host.Outcome State Fault Refusal :=
  issue (.dpush pred cond q) (fun s =>
    let l := s.me.str.dq.getD q.toNat []
    if decCap ≤ (l.filter fun e => !decFreed (decReaders s.me q.toNat) e).length then .wait s .queue
    else .done (setDq s q.toNat (l ++ [{ tag := s.me.flow.lsn, bit := condTest cond.toNat (readP s.me.regs pred.toNat),
                                         popped := [] }]))) s

/-- DTAKE (08 R158). -/
def execDtake (pd : BitVec 5) (q : BitVec 2) (s : State) : Host.Outcome State Fault Refusal :=
  issue (.dtake pd q) (fun s =>
    match decHead s q.toNat with
    | none => .wait s .queue
    | some b => .done (setPred (decPop s q.toNat) pd.toNat b)) s

/-! Flow words of the other slices (09 R181, R182, 10 R200, 12 R249). -/

/-- VLOOP, SLOOP, MLOOP: one scalar entry of ch[c] is the count (09 R181). -/
def loopWord (n : BitVec 2) (ch : BitVec 4) (body : BitVec 14) (units : Nat) (s : State) : Res :=
  match chanHead s ch.toNat with
  | none => .wait s .queue
  | some (.vector _) => .fail s 0x0102
  | some .skipped => .fail s 0x0102
  | some (.scalar v) =>
    if 2 ^ 32 ≤ v.toNat then .fail s 0x0102 else startLoop (chanPop s ch.toNat) n.toNat units body.toNat v.toNat

/-- VDBR, SDBR, MDBR: one decision, taken when it equals SENSE (09 R182). -/
def branchWord (q : BitVec 2) (sense : BitVec 1) (disp : BitVec 21) (s : State) : Res :=
  match decHead s q.toNat with
  | none => .wait s .queue
  | some b =>
    let t := decPop s q.toNat
    let dest := dispPc s.me.flow.pc disp
    if b != (sense == 1) then .done t
    else if dest.toNat % 4 ≠ 0 then .fail s 0x0203
    else if firstUnit (s.me.code.toList.getD (engIdx s.me.eng) []) 0 (dest.toNat / 4) then .jump t dest
    else .fail s 0x0101

/-- SLOOP (12 R249). -/
def execSloop (l : BitVec 2) (ch : BitVec 4) (body : BitVec 14) (sync : BitVec 19) (s : State) :
    Host.Outcome State Fault Refusal :=
  issue (.sloop l ch body sync) (loopWord l ch body 3) s

/-- SDBR (12 R249). -/
def execSdbr (q : BitVec 2) (sense : BitVec 1) (disp : BitVec 21) (sync : BitVec 19) (s : State) :
    Host.Outcome State Fault Refusal :=
  issue (.sdbr q sense disp sync) (branchWord q sense disp) s

/-- VLOOP (09 R181). -/
def execVloop (l : BitVec 2) (ch : BitVec 4) (body : BitVec 14) (sync : BitVec 19) (s : State) :
    Host.Outcome State Fault Refusal :=
  issue (.vloop l ch body sync) (loopWord l ch body 3) s

/-- VDBR (09 R182). -/
def execVdbr (q : BitVec 2) (sense : BitVec 1) (disp : BitVec 21) (sync : BitVec 19) (s : State) :
    Host.Outcome State Fault Refusal :=
  issue (.vdbr q sense disp sync) (branchWord q sense disp) s

/-- VNOP (09 R183). -/
def execVnop (sync : BitVec 19) (s : State) : Host.Outcome State Fault Refusal := issue (.vnop sync) (fun s => .done s) s

/-- MLOOP (10 R200). -/
def execMloop (l : BitVec 2) (ch : BitVec 4) (body : BitVec 14) (sync : BitVec 19) (s : State) :
    Host.Outcome State Fault Refusal :=
  issue (.mloop l ch body sync) (loopWord l ch body 6) s

/-- MDBR (10 R200). -/
def execMdbr (q : BitVec 2) (sense : BitVec 1) (disp : BitVec 21) (sync : BitVec 19) (s : State) :
    Host.Outcome State Fault Refusal :=
  issue (.mdbr q sense disp sync) (branchWord q sense disp) s

/-- MNOP (10 R200). -/
def execMnop (sync : BitVec 19) (s : State) : Host.Outcome State Fault Refusal := issue (.mnop sync) (fun s => .done s) s

/-- SNOP (12 R249). -/
def execSnop (w : SWord) (s : State) : Host.Outcome State Fault Refusal := issue (.snop w) (fun s => .done s) s

/-- SNOP with mark=1: a marker on the S path, which the model takes at once when every older command may depart (11 R218). (DEDUCED, log 31.) -/
def execSnopMark (w : SWord) (s : State) : Host.Outcome State Fault Refusal :=
  issue (.snopMark w) (fun s =>
    if s.me.sqS.all fun c => c.lsn ≤ frontier s.me then .done (drainS s) else .wait s .queue) s

/-! The task's end, early release, traps and breakpoints (16 R324, R325, 18 R355, R356). -/

/-- The release of a scope at the moving word: every older store of both paths departs, then the WriteBack (16 R313). -/
def releaseAt (s : State) (scope : Nat) : State := releaseScope (drainSBelow (departAll s) s.me.flow.lsn) scope

/-- TEXIT: the task issues nothing more; TASK_EXIT ends it (16 R325). -/
def execTexit (s : State) : Host.Outcome State Fault Refusal :=
  issue .texit (fun s => .done { s with me := { s.me with run := .exiting } }) s

/-- ERLS: the release of module scope, then the task counts as released (16 R324). -/
def erlsBody (s : State) : Res :=
  if s.me.regions.isEmpty = false then .fail s 0x0705
  else if s.me.erls then .done s
  else
    let t := releaseAt s 4
    let t := { t with me := { t.me with erls := true } }
    .done (updLaunch t t.me.task.launch fun l => { l with released := l.released ++ [t.me.task.serial] })

/-- ERLS (16 R324). -/
def execErls (s : State) : Host.Outcome State Fault Refusal := issue .erls erlsBody s

/-- TRAP nn raises 0x09nn once it is complete (18 R355). -/
def execTrap (n : BitVec 8) (s : State) : Host.Outcome State Fault Refusal :=
  issue (.trap n) (fun s => .raise s { raiseOf s (0x0900 + n.toNat) none with info := n.toNat, after := true }) s

/-- The debugger halt of BKPT: the image stands after the word (18 R356). -/
def breakHalt (tag : Nat) (s : State) : State :=
  let l := s.me.flow.lsn
  let t := charge (rebuildTo s (l + 1) (logicalPc s.me) s.me.eng none)
  let r := { raiseOf { t with me := { t.me with flow := { t.me.flow with lsn := l } } } 0 none with
    info := tag, insn := bytesAt t.me t.me.flow.pc, pc := t.me.flow.pc }
  let t := tellImage t { mkRec t r (readT t.me.regs 7) false with slice := 7 }
  haltMe { t with me := { t.me with flow := after 1 { t.me.flow with lsn := l } } } tag

/-- BKPT: the halt waits until every slice has reached its step (18 R347, step 2; R356). -/
def execBkpt (n : BitVec 8) (s : State) : Host.Outcome State Fault Refusal :=
  issue (.bkpt n) (fun s =>
    if (myPart s).cfg.brk = false then .done s
    else if othersAt s.me (s.me.flow.lsn + 1) then .gone (breakHalt n.toNat s) else .wait s .queue) s

/-! Containment regions (19 R362, R363). -/

/-- CROPEN (19 R363). -/
def execCropen (disp : BitVec 21) (s : State) : Host.Outcome State Fault Refusal :=
  issue (.cropen disp) (fun s =>
    if 4 ≤ s.me.regions.length then .fail s 0x0102
    else .done { s with me := { s.me with regions := { handler := dispPc (logicalPc s.me) disp, opened := s.me.flow.lsn }
                                                       :: s.me.regions } }) s

/-- Close the innermost region: handles recorded at its depth or deeper are recorded one less deep (13 R273, 19 R363). -/
def closeRegion (s : State) : State :=
  let d := s.me.regions.length
  let r := s.me.regs
  { s with me := { s.me with
      regions := s.me.regions.tail,
      regs := { r with h := r.h.map fun x => match x with | .held h k => .held h (if d ≤ k then d - 1 else k) | y => y } } }

/-- CRCLOSE (19 R363). -/
def execCrclose (s : State) : Host.Outcome State Fault Refusal :=
  issue .crclose (fun s => if s.me.regions.isEmpty then .fail s 0x0102 else .done (closeRegion s)) s

end Sys2Proof.Machine
end

