-- ==== Sys2Proof/Machine/Sync.lean ====
section
/-! DEFINITION. Semaphores, result queues and crew barriers, with the events that end their waits (16 R312-R322). -/

namespace Sys2Proof.Machine

/-- The core's cycle count, which limits of waits are counted in (16 R316). -/
def cycleNow (s : State) : Nat := s.me.csr.cycle

/-- Whether the moving word is slicer filler (05 R100): a join acts at issue and orders nothing (16 R312). (DEDUCED, log 30.) -/
def isFill (s : State) : Bool := s.me.form == .slices && (annOf s.me s.me.eng s.me.flow)[14]

/-- Whether a core's control slice goes on: no forced stop holds it, which waits for a fault on its way (18 R361) and for the frontier to pass
the last gated act (02 R43), and it has not stopped for that fault. -/
def goesOn (c : Core) : Bool := (c.stops.isEmpty || c.fault.isSome || decide (frontier c < c.gate)) && !stoppedFor c

/-- A waiting word of core `g` tried again, where the core's wait is one that `ok` accepts; `act` names the words meant. -/
def retry (g : Nat) (ok : Core → Bool) (act : Instr → State → Option (Host.Outcome State Fault Refusal)) (s : State) : State :=
  onCore g (fun t =>
    let u := { t with me := t.me.turn .c }
    if u.me.run == .running && goesOn u.me && ok u.me then
      match fetch u.me with
      | .word i => match act i u with | some (.next v) => v | _ => t
      | _ => t
    else t) s

/-! Semaphores (16 R314-R317). -/

/-- The cycle in which the present wait took effect: now, unless the word waits already. -/
def semSince (s : State) (sem cnt : Nat) (take : Bool) (limit : Option (Nat × BitVec 5)) : Nat :=
  match s.me.wait with
  | .sem n c k l t => if n.toNat = sem ∧ c = cnt ∧ k = take ∧ l = limit then t else cycleNow s
  | _ => cycleNow s

/-- Whether a limit of `n` cycles after `since` has passed. -/
def expired (s : State) (limit : Option (Nat × BitVec 5)) (since : Nat) : Bool :=
  match limit with | some (n, _) => since + n < cycleNow s | none => false

/-- The result of a limited wait in its predicate. -/
def setResult (s : State) (limit : Option (Nat × BitVec 5)) (b : Bool) : State :=
  match limit with | some (_, pd) => setPred s pd.toNat b | none => s

/-- A wait on a semaphore (16 R314, R316). -/
def semWait (sem cnt : Nat) (take : Bool) (limit : Option (Nat × BitVec 5)) (s : State) : Res :=
  let since := semSince s sem cnt take limit
  if expired s limit since then .done (setResult s limit false)
  else if cnt ≤ readS s.me.regs sem then
    let t := if take then mapRegs s fun r => writeS r sem (readS r sem - cnt) else s
    let t := setResult t limit true
    .done (if isFill s then t else acquire t 1)
  else .wait s (.sem (BitVec.ofNat 8 sem) cnt take limit since)

/-- SWAIT (16 R314). -/
def execSwait (sem : BitVec 8) (n : BitVec 16) (s : State) : Host.Outcome State Fault Refusal :=
  issue (.swait sem n) (semWait sem.toNat n.toNat true none) s

/-- SWAITGE (16 R314). -/
def execSwaitge (sem : BitVec 8) (n : BitVec 16) (s : State) : Host.Outcome State Fault Refusal :=
  issue (.swaitge sem n) (semWait sem.toNat n.toNat false none) s

/-- SWAITT (16 R316). -/
def execSwaitt (sem : BitVec 8) (n : BitVec 16) (a : BitVec 6) (pd : BitVec 5) (s : State) :
    Host.Outcome State Fault Refusal :=
  issue (.swaitt sem n a pd) (fun s =>
    if 2 ^ 32 ≤ (xOf s a).toNat then .fail s 0x0102
    else semWait sem.toNat n.toNat true (some ((xOf s a).toNat, pd)) s) s

/-- The semaphore words of a wait. -/
def semWords (i : Instr) (s : State) : Option (Host.Outcome State Fault Refusal) :=
  match i with
  | .swait a b => some (execSwait a b s)
  | .swaitge a b => some (execSwaitge a b s)
  | .swaitt a b c d => some (execSwaitt a b c d s)
  | _ => none

/-- SEMAPHORE_WAIT_SUCCESS (16 R314). -/
def execSemaphoreWaitSuccess (core : Nat) (s : State) : Host.Outcome State Fault Refusal :=
  event (retry core (fun c => match c.wait with
    | .sem n cnt _ l since =>
      cnt ≤ readS c.regs n.toNat && (match l with | some (k, _) => c.csr.cycle ≤ since + k | none => true)
    | _ => false) semWords s)

/-- SWAITT_TIMEOUT (16 R316). -/
def execSwaittTimeout (core : Nat) (s : State) : Host.Outcome State Fault Refusal :=
  event (retry core (fun c => match c.wait with
    | .sem _ _ _ (some (k, _)) since => since + k < c.csr.cycle
    | _ => false) semWords s)

/-- A task's own add to a semaphore: s128 and above are not its own, the sum may not pass 2^32 - 1 (16 R315); the slicer's joins
add to s192 to s255. -/
def semAdd (sem v : Nat) (s : State) : Res :=
  if 128 ≤ sem ∧ (isFill s && 192 ≤ sem) = false then .fail s 0x0202
  else if 2 ^ 32 ≤ readS s.me.regs sem + v then .fail s 0x0304
  else .done (mapRegs s fun r => writeS r sem (readS r sem + v))

/-- SADD with an immediate (16 R314). -/
def execSaddImm (sem : BitVec 8) (n : BitVec 16) (s : State) : Host.Outcome State Fault Refusal :=
  issue (.saddImm sem n) (semAdd sem.toNat n.toNat) s

/-- SADD by register: the semaphore's number stands in XB[1:0] and XD (16 R314). -/
def execSaddReg (lo : BitVec 6) (a : BitVec 6) (hi : BitVec 2) (s : State) : Host.Outcome State Fault Refusal :=
  issue (.saddReg lo a hi) (fun s =>
    if 2 ^ 32 ≤ (xOf s a).toNat then .fail s 0x0102 else semAdd (64 * hi.toNat + lo.toNat) (xOf s a).toNat s) s

/-- SPOSTX: after its release the post is on its way to its target core (16 R317; DESIGN CHOICE, log 16 for the order of its checks). -/
def spostxBody (sem : BitVec 8) (n : BitVec 16) (a : BitVec 6) (s : State) : Res :=
  let g := (xOf s a).toNat
  if 128 ≤ sem.toNat then .fail s 0x0202
  else if 383 < g ∨ coreCluster g ≠ coreCluster s.me.id ∨ isMate s g = false then .fail s 0x0204
  else
    let t := releaseAt s 1
    .done { t with spostq := t.spostq ++ [(g, sem.toNat, n.toNat, t.cycles)] }

/-- SPOSTX (16 R317). -/
def execSpostx (sem : BitVec 8) (n : BitVec 16) (a : BitVec 6) (s : State) : Host.Outcome State Fault Refusal :=
  issue (.spostx sem n a) (spostxBody sem n a) s

/-- Posts that took effect 64 cycles ago have arrived (16 R317). -/
def arriveDue (s : State) : State :=
  (s.spostq.filter fun p => decide (p.2.2.2 + 64000 ≤ s.cycles)).foldl arrivePost
    { s with spostq := s.spostq.filter fun p => !decide (p.2.2.2 + 64000 ≤ s.cycles) }

/-- SPOSTX_ARRIVAL: the oldest post under way arrives (16 R315, R317). -/
def execSpostxArrival (s : State) : Host.Outcome State Fault Refusal :=
  event (match s.spostq with
    | [] => s
    | p :: rest => arrivePost { s with spostq := rest } p)

/-! Result queues (16 R318). -/

/-- Entries of a result queue (03 R46). -/
def yCap : Nat := 8

/-- PUSH: after its release, x[a] is appended to y[n] of the member at position x[b]. -/
def pushBody (y : BitVec 2) (a b : BitVec 6) (s : State) : Res :=
  let pos := (xOf s b).toNat
  let g := mateAt s pos
  if 7 < pos then .fail s 0x0102
  else if isMate s g = false then .fail s 0x0204
  else
    let t := releaseAt s 1
    if yCap ≤ (readY (coreOf t g).regs y.toNat).length then .wait t (.push y.toNat pos (xOf s a))
    else .done (onCore g (fun u => mapRegs u fun r => writeY r y.toNat (readY r y.toNat ++ [xOf s a])) t)

/-- PUSH (16 R318). -/
def execPush (y : BitVec 2) (a b : BitVec 6) (s : State) : Host.Outcome State Fault Refusal :=
  issue (.push y a b) (pushBody y a b) s

/-- The pop of y[n] into x[d], with its acquire. -/
def popBody (d : BitVec 6) (y : Nat) (v : Word) (rest : List Word) (s : State) : State :=
  acquire (setX (mapRegs s fun r => writeY r y rest) d v) 1

/-- POPY (16 R318). -/
def execPopy (d : BitVec 6) (y : BitVec 2) (s : State) : Host.Outcome State Fault Refusal :=
  issue (.popy d y) (fun s =>
    match readY s.me.regs y.toNat with
    | [] => .wait s (.pop y.toNat d)
    | v :: rest => .done (popBody d y.toNat v rest s)) s

/-- POPY with nb: p23 tells whether the queue was empty (16 R318). -/
def execPopyNb (d : BitVec 6) (y : BitVec 2) (s : State) : Host.Outcome State Fault Refusal :=
  issue (.popyNb d y) (fun s =>
    match readY s.me.regs y.toNat with
    | [] => .done (setPred s 23 true)
    | v :: rest => .done (setPred (popBody d y.toNat v rest s) 23 false)) s

/-- RESULT_QUEUE_READY (16 R318). -/
def execResultQueueReady (core : Nat) (s : State) : Host.Outcome State Fault Refusal :=
  event (retry core (fun c => match c.wait with
      | .push y pos _ => (readY (coreOf s (8 * coreCluster c.id + pos)).regs y).length < yCap
      | .pop y _ => !(readY c.regs y).isEmpty
      | _ => false)
    (fun i u => match i with
      | .push y a b => some (execPush y a b u)
      | .popy d y => some (execPopy d y u)
      | _ => none) s)

/-! Crew barriers (16 R319-R322). -/

/-- The crew of the moving core's task. -/
def myCrew (s : State) : Option Crew := crewOf s s.me.task.crew

/-- A barrier of a crew. -/
def barOf (c : Crew) (n : Nat) : Barrier := c.bars.getD n .start

/-- Update a barrier, then test its phase. -/
def updBar (s : State) (n : Nat) (f : Barrier → Barrier) : State :=
  updCrew s s.me.task.crew fun c => settleCrew { c with bars := c.bars.setIfInBounds n (f (barOf c n)) }

/-- The moving task's TGT at a barrier. -/
def tgtOf (s : State) (b : Barrier) : Option Nat := assoc b.tgt s.me.task.serial

/-- PHASE + 1 as TGT holds it, 33 bits. -/
def nextTgt (b : Barrier) : Nat := b.phase.toNat + 1

/-- Whether PHASE has reached TGT: TGT - PHASE in 33 bits is not positive (16 R320). -/
def reached (b : Barrier) (tgt : Nat) : Bool :=
  let d := (tgt + 2 ^ 33 - b.phase.toNat) % 2 ^ 33
  d == 0 || 2 ^ 32 ≤ d

/-- BARARR: its release first, then the test and the arrival (16 R320). -/
def bararrBody (bar : Nat) (s : State) : Res :=
  match myCrew s with
  | none => .done s
  | some c =>
    let t := releaseAt s 1
    let b := barOf ((myCrew t).getD c) bar
    if tgtOf t b = some (nextTgt b) then .fail t 0x0305
    else .done (updBar t bar fun b =>
      { b with arr := s.me.task.serial :: b.arr, tgt := reassoc b.tgt s.me.task.serial (nextTgt b) })

/-- BARARR (16 R320). -/
def execBararr (bar : BitVec 4) (s : State) : Host.Outcome State Fault Refusal :=
  issue (.bararr bar) (bararrBody bar.toNat) s

/-- BAREXP: expected bytes, less what the credit pool holds (16 R320). -/
def barexpBody (bar v : Nat) (s : State) : Res :=
  if 2 ^ 48 ≤ v then .fail s 0x0102
  else
    match myCrew s with
    | none => .done s
    | some c =>
      let out := (barOf c bar).out + v
      if 2 ^ 48 ≤ out then .fail s 0x0102
      else
        let d := min c.cp out
        .done (updBar (updCrew s c.id fun c => { c with cp := c.cp - d }) bar fun b => { b with out := out - d })

/-- BAREXP (16 R320). -/
def execBarexp (bar : BitVec 4) (a : BitVec 6) (s : State) : Host.Outcome State Fault Refusal :=
  issue (.barexp bar a) (fun s => barexpBody bar.toNat (xOf s a).toNat s) s

/-- The cycle in which a barrier wait took effect. -/
def barSince (s : State) (bar : Nat) (limit : Option (Nat × BitVec 5)) : Nat :=
  match s.me.wait with
  | .bar b l t => if b = bar ∧ l = limit then t else cycleNow s
  | _ => cycleNow s

/-- Whether the moving task's wait at a barrier is over. -/
def barOver (s : State) (bar : Nat) : Bool :=
  match myCrew s with
  | none => true
  | some c => match tgtOf s (barOf c bar) with | none => true | some t => reached (barOf c bar) t

/-- A wait at a barrier (16 R320). -/
def barWait (bar : Nat) (limit : Option (Nat × BitVec 5)) (s : State) : Res :=
  let since := barSince s bar limit
  if expired s limit since then .done (setResult s limit false)
  else if barOver s bar then .done (acquire (setResult s limit true) 1)
  else .wait s (.bar bar limit since)

/-- BARWAIT (16 R320). -/
def execBarwait (bar : BitVec 4) (s : State) : Host.Outcome State Fault Refusal :=
  issue (.barwait bar) (barWait bar.toNat none) s

/-- BARWAITT (16 R320). -/
def execBarwaitt (bar : BitVec 4) (a : BitVec 6) (pd : BitVec 5) (s : State) : Host.Outcome State Fault Refusal :=
  issue (.barwaitt bar a pd) (fun s =>
    if 2 ^ 32 ≤ (xOf s a).toNat then .fail s 0x0102 else barWait bar.toNat (some ((xOf s a).toNat, pd)) s) s

/-- The barrier words of a wait. -/
def barWords (i : Instr) (s : State) : Option (Host.Outcome State Fault Refusal) :=
  match i with
  | .barwait b => some (execBarwait b s)
  | .barwaitt b a pd => some (execBarwaitt b a pd s)
  | _ => none

/-- BARRIER_WAIT_SUCCESS (16 R320). -/
def execBarrierWaitSuccess (core : Nat) (s : State) : Host.Outcome State Fault Refusal :=
  event (retry core (fun c => match c.wait with
    | .bar b l since =>
      barOver (focus core s) b && (match l with | some (k, _) => c.csr.cycle ≤ since + k | none => true)
    | _ => false) barWords s)

/-- BARWAITT_TIMEOUT (16 R320). -/
def execBarwaittTimeout (core : Nat) (s : State) : Host.Outcome State Fault Refusal :=
  event (retry core (fun c => match c.wait with
    | .bar _ (some (k, _)) since => since + k < c.csr.cycle
    | _ => false) barWords s)

end Sys2Proof.Machine
end

