-- ==== Sys2Proof/Machine/Handles.lean ====
section
/-! DEFINITION. Tile names, versions and their handles: the handle instructions and their events (13 R256-R268). -/

namespace Sys2Proof.Machine

/-! Names and versions (13 R256, R258, R259). -/

/-- The offset of an address in the tile window; none outside it or in pool 0b11. -/
def tileName (a : Nat) : Option Nat :=
  if a / 2 ^ 56 = 0xF4 ∧ a % 2 ^ 56 < 2 ^ 52 ∧ a % 2 ^ 56 / 2 ^ 50 ≠ 3 then some (a % 2 ^ 56) else none

/-- POOL of a name. -/
def namePool (n : Nat) : Nat := n / 2 ^ 50 % 4
/-- DIE of a name. -/
def nameDie (n : Nat) : Nat := n / 2 ^ 49 % 2

/-- The versions of a partition's name. -/
def versionsOf (s : State) (part n : Nat) : List Version := s.versions.filter fun v => v.part == part && v.name == n

/-- The current version of a name. -/
def currentOf (s : State) (part n : Nat) : Option Version := (versionsOf s part n).find? fun v => v.cur

/-- Whether a new version of 2^k bytes fits the partition's quotas and the die's tile table (13 R259). -/
def quotaOk (s : State) (p : Partition) (n k : Nat) : Bool :=
  let mine := s.versions.filter fun v => v.part == p.cfg.part && v.die == nameDie n
  let entries := if nameDie n = 0 then p.cfg.entries0 else p.cfg.entries1
  let bytes := (if nameDie n = 0 then p.cfg.bytes0 else p.cfg.bytes1).getD (namePool n) 0
  mine.length + 1 ≤ entries && (s.versions.filter fun v => v.die == nameDie n).length < Config.tileEntries
    && ((mine.filter fun v => v.pool == namePool n).map fun v => 2 ^ v.k).sum + 2 ^ k ≤ bytes

/-- The handle on a version of this module. -/
def handleOn (s : State) (v : Version) (fill : Bool) : Handle :=
  { fill := fill, ver := v.id, home := s.fabric, k := v.k, pool := v.pool, num := v.num, name := v.name, era := 0 }

/-- A new version of a name: FILLING and current (13 R258, R264). -/
def newVersion (s : State) (part n k : Nat) (holder : Holder) : State × Handle :=
  let num := match currentOf s part n with | some v => (v.num + 1) % 2 ^ 32 | none => 0
  let v : Version := { id := s.verNext, part := part, pool := namePool n, die := nameDie n, name := n, k := k, num := num,
                       state := .filling, see := 0, seen := [], holder := holder, cur := true }
  let old := s.versions.map fun w => if w.part = part ∧ w.name = n then { w with cur := false } else w
  (freeVersions { s with versions := v :: old, verNext := s.verNext + 1 }, handleOn s v true)

/-! Handle registers (13 R260). -/

/-- The handle of a register. -/
def heldOf (s : State) (n : BitVec 5) : Option Handle :=
  match readH s.me.regs n.toNat with | .held h _ => some h | _ => none

/-- A handle placed in a register at the present depth (13 R273). -/
def placeH (s : State) (n : BitVec 5) (h : Handle) : State :=
  mapRegs s fun r => writeH r n.toNat (.held h s.me.regions.length)

/-- A register emptied. -/
def clearH (s : State) (n : BitVec 5) : State := mapRegs s fun r => writeH r n.toNat .empty

/-- A version's see count rises; its home is told where that is another module that has not been lost. -/
def addSee (s : State) (h : Handle) : State :=
  if lostHandle s h then s
  else if h.home = s.fabric then updVer s h.ver fun v => { v with see := v.see + 1 }
  else sendSure s s.me.task.part s.me.task.launch h.home [] (.seeDelta h.ver true)

/-- HNEW in the order of 13 R263. -/
def hnewBody (hd : BitVec 5) (a k : BitVec 6) (s : State) : Res :=
  let part := s.me.task.part
  if (heldOf s hd).isSome then .fail s 0x0407
  else
    match tileName (xOf s a).toNat with
    | none => .failAt s 0x0204 (xOf s a).toNat
    | some n =>
      if n % 2 ^ 49 % 2 ^ k.toNat ≠ 0 then .failAt s 0x0203 (xOf s a).toNat
      else if (versionsOf s part n).any fun v => v.k != k.toNat then .fail s 0x0409
      else if quotaOk s (myPart s) n k.toNat = false then .fail s 0x0406
      else
        let r := newVersion s part n k.toNat (.task s.me.task.launch s.me.task.serial)
        .done (placeH r.1 hd r.2)

/-- HNEW (13 R264). -/
def execHnew (hd : BitVec 5) (a k : BitVec 6) (s : State) : Host.Outcome State Fault Refusal :=
  issue (.hnew hd a k) (hnewBody hd a k) s

/-- HSEE in the order of 13 R263. -/
def hseeBody (hd : BitVec 5) (a : BitVec 6) (s : State) : Res :=
  if (heldOf s hd).isSome then .fail s 0x0407
  else
    match tileName (xOf s a).toNat with
    | none => .failAt s 0x0204 (xOf s a).toNat
    | some n =>
      match currentOf s s.me.task.part n with
      | none => .fail s 0x0408
      | some v => .done (placeH (addSee s (handleOn s v false)) hd (handleOn s v false))

/-- HSEE (13 R264). -/
def execHsee (hd : BitVec 5) (a : BitVec 6) (s : State) : Host.Outcome State Fault Refusal :=
  issue (.hsee hd a) (hseeBody hd a) s

/-- A see handle from the handle of another register, which must be of a kind (13 R263, R264). -/
def seeFrom (hd hs : BitVec 5) (fill : Bool) (s : State) : Res :=
  match heldOf s hs with
  | none => .fail s 0x0404
  | some h =>
    if h.fill != fill then .fail s 0x0405
    else if (heldOf s hd).isSome then .fail s 0x0407
    else .done (placeH (addSee s h) hd { h with fill := false })

/-- HSEEOF (13 R264). -/
def execHseeof (hd hs : BitVec 5) (s : State) : Host.Outcome State Fault Refusal :=
  issue (.hseeof hd hs) (seeFrom hd hs true) s

/-- HDUP (13 R264). -/
def execHdup (hd hs : BitVec 5) (s : State) : Host.Outcome State Fault Refusal :=
  issue (.hdup hd hs) (seeFrom hd hs false) s

/-- Whether a store through a remote fill handle awaits its acknowledgement (13 R274). -/
def unacked (s : State) (h : Handle) : Bool := s.outs.any fun o => o.dst == h.home && o.vers.contains h.ver

/-- HDROP (13 R265, R274): a see handle at once; a fill handle once its stores have departed, the release of module scope is taken and a
remote home has acknowledged them. Till then the word waits, the handle in its register. -/
def hdropBody (hs : BitVec 5) (s : State) : Res :=
  match heldOf s hs with
  | none => .fail s 0x0404
  | some h =>
    if h.fill = false then .done (dropSee (clearH s hs) h)
    else if deferNow s then .wait (popDefer s) (.hdrop h.ver)
    else
      let t := releaseAt (popDefer s) 4
      if unacked t h then .wait t .queue else .done (sealHandle (clearH t hs) h)

/-- HDROP (13 R265). -/
def execHdrop (hs : BitVec 5) (s : State) : Host.Outcome State Fault Refusal := issue (.hdrop hs) (hdropBody hs) s

/-- The seal of a waiting HDROP of core `g`: its stores depart, its release is taken, its version is sealed, whatever the model's choices of
what waits say. -/
def sealWaiting (ver g : Nat) (s : State) : State :=
  retry g (fun c => c.wait == .hdrop ver)
    (fun i u => match i with | .hdrop hs => some (execHdrop hs { u with me := { u.me with defer := false :: u.me.defer } }) | _ => none) s

/-- VERSION_SEAL: the stores through the dropped fill handle depart, its release is taken, its version is sealed (13 R265). -/
def execVersionSeal (ver : Nat) (s : State) : Host.Outcome State Fault Refusal :=
  event (((allCores s).filter fun c => waitOf c .c == .hdrop ver).foldl (fun t c => sealWaiting ver c.id t) s)

/-! Mailboxes (13 R266). -/

/-- Handles of a mailbox, oldest first. -/
def mailboxOf (s : State) (part mb : Nat) : List Handle :=
  ((s.mailboxes.find? fun e => e.1.1 == part && e.1.2 == mb).map Prod.snd).getD []

/-- A mailbox's handles replaced. -/
def setMailbox (s : State) (part mb : Nat) (l : List Handle) : State :=
  let rest := s.mailboxes.filter fun e => !(e.1.1 == part && e.1.2 == mb)
  { s with mailboxes := if l.isEmpty then rest else ((part, mb), l) :: rest }

/-- Handles a mailbox holds at most. -/
def mailCap : Nat := 16

/-- A fill handle of this module's version is held by someone else from now on. -/
def setHolder (s : State) (h : Handle) (w : Holder) : State :=
  if h.fill && h.home == s.fabric then updVer s h.ver fun v => { v with holder := w } else s

/-- A handle that another module sends enters a mailbox if it has room. -/
def mailIn (s : State) (part mb : Nat) (h : Handle) : State × Bool :=
  let l := mailboxOf s part mb
  if l.length < mailCap then (setHolder (setMailbox s part mb (l ++ [h])) h (.mailbox part), true) else (s, false)

/-- Whether an earlier handle of the list goes to the same mailbox. -/
def aheadOf (l : List OutHandle) (o : OutHandle) : Bool :=
  l.any fun e => e.part == o.part && e.dst == o.dst && e.mailbox == o.mailbox

/-- A handle as its packet carries it: `era` says whether its version has been lost for the sender (13 R275). -/
def sentAs (s : State) (h : Handle) : Handle := { h with era := if lostHandle s h then 1 else 0 }

/-- The waiting handles of a partition tried again in order, each unless an earlier one for its mailbox still waits. `kept` are
the ones that stay. -/
def mailRetry (s : State) (part : Nat) (todo kept : List OutHandle) : State :=
  match todo with
  | [] => { s with outHands := kept }
  | o :: rest =>
    if o.part ≠ part ∨ o.sent.isSome = true ∨ aheadOf kept o = true then mailRetry s part rest (kept ++ [o])
    else if o.dst = s.fabric then
      let r := mailIn s part o.mailbox o.handle
      if r.2 then mailRetry r.1 part rest kept else mailRetry s part rest (kept ++ [o])
    else if s.rmap.gone.contains o.dst then mailRetry s part rest (kept ++ [o])
    else
      let d := drawAsk s
      mailRetry (sendFrom d.1 o.die part s.me.task.launch o.dst 0 d.2 (.handle o.mailbox (sentAs s o.handle))) part rest
        (kept ++ [{ o with sent := some d.2, tried := s.time }])

/-- HSEND: the handle leaves its register for the mailbox its descriptor names, behind the handles that wait for it; a module
absent from the map takes no packet, and event 0x0802 says so (21 R390). (DEDUCED, log 29.) -/
def hsendBody (hs : BitVec 5) (b : BitVec 6) (s : State) : Res :=
  let x := (xOf s b).toNat
  let dst := x / 2 ^ 32
  match heldOf s hs with
  | none => .fail s 0x0404
  | some h =>
    if 2 ^ 12 ≤ dst ∨ x % 2 ^ 32 / 2 ^ 8 ≠ 0 then .fail s 0x0102
    else
      let part := s.me.task.part
      let t := setHolder (clearH s hs) h (.mailbox part)
      let t := if t.rmap.gone.contains dst then postEvent t 0x0802 part s.me.task.launch 0 0 else t
      .done (mailRetry t part (t.outHands ++ [{ part := part, dst := dst, mailbox := x % 2 ^ 8, handle := h, sent := none, die := coreDie s.me.id }]) [])

/-- HSEND (13 R266). -/
def execHsend (hs : BitVec 5) (b : BitVec 6) (s : State) : Host.Outcome State Fault Refusal :=
  issue (.hsend hs b) (hsendBody hs b) s

/-- MAILBOX_RETRY (13 R266). -/
def execMailboxRetry (part : Nat) (s : State) : Host.Outcome State Fault Refusal :=
  event (mailRetry s part s.outHands [])

/-- HRECV: the oldest handle of a mailbox, once there is one (13 R266). -/
def hrecvBody (hd : BitVec 5) (a : BitVec 6) (s : State) : Res :=
  let mb := (xOf s a).toNat
  let part := s.me.task.part
  if (heldOf s hd).isSome then .fail s 0x0407
  else if 2 ^ 8 ≤ mb then .fail s 0x0102
  else
    match mailboxOf s part mb with
    | [] => .wait s (.hrecv mb hd)
    | h :: rest =>
      let t := setHolder (setMailbox s part mb rest) h (.task s.me.task.launch s.me.task.serial)
      .done (placeH (mailRetry t part t.outHands []) hd h)

/-- HRECV (13 R266). -/
def execHrecv (hd : BitVec 5) (a : BitVec 6) (s : State) : Host.Outcome State Fault Refusal :=
  issue (.hrecv hd a) (hrecvBody hd a) s

/-- HANDLE_RECEIVED (13 R266). -/
def execHandleReceived (core : Nat) (s : State) : Host.Outcome State Fault Refusal :=
  event (retry core (fun c => match c.wait with
      | .hrecv mb _ => !(mailboxOf s c.task.part mb).isEmpty
      | _ => false)
    (fun i u => match i with | .hrecv hd a => some (execHrecv hd a u) | _ => none) s)

/-! HSTAT and parked accesses (13 R267, R268). -/

/-- Code of a state in HSTAT. -/
def vstateCode (v : VState) : Nat := match v with | .filling => 0 | .sealed => 1 | .abandoned => 2

/-- Whether this module holds the fill handle of the version of a handle on another module: in a register of a core or of a saved task, in a
mailbox, or on its way and not acknowledged (13 R275). -/
def fillHere (s : State) (h : Handle) : Bool :=
  let same (k : Handle) : Bool := k.fill && k.home == h.home && k.ver == h.ver && k.era == h.era
  (allCores s).any (fun c => (heldHandles c.regs).any same) || s.saved.any (fun v => (heldHandles v.core.regs).any same)
    || s.mailboxes.any (fun m => m.2.any same) || s.outHands.any fun o => same o.handle

/-- STATE and CUR of a handle's version: this module's own; ABANDONED where the version is lost. Of a version homed elsewhere: FILLING
while this module holds its fill handle; what is known for good; else a free value that is never the code 0b11 (DESIGN CHOICE, log 2). -/
def stateAndCur (s : State) (h : Handle) : Nat × Nat :=
  if h.home = s.fabric then
    match verOf s h.ver with | some v => (vstateCode v.state, if v.cur then 1 else 0) | none => (2, 0)
  else if lostHandle s h then (2, 0)
  else
    let f := (Config.remoteStat s.freeCount).toNat
    let k := knownOf s h.home h.ver
    (if h.fill || fillHere s h then 0 else match k with | some (st, _) => if st = 0 then f % 4 % 3 else st | none => f % 4 % 3,
     match k with | some (_, 0) => 0 | _ => f / 4)

/-- What an HSTAT of a version homed elsewhere has shown is known from then on, as far as it is for good (13 R257, R258, R267). -/
def noteStat (s : State) (h : Handle) : State :=
  if h.home = s.fabric ∨ lostHandle s h = true then s
  else
    let c := stateAndCur s h
    { s with freeCount := s.freeCount + 1,
             known := ((h.home, h.ver), c) :: s.known.filter fun e => !(e.1.1 == h.home && e.1.2 == h.ver) }

/-- The value of HSTAT. -/
def hstatVal (s : State) (h : Handle) : Nat :=
  let c := stateAndCur s h
  h.num % 2 ^ 32 * 2 ^ 16 + h.k % 32 * 2 ^ 8 + h.pool % 4 * 2 ^ 6 + (if h.home = s.fabric then 0 else 2 ^ 5) + c.2 * 2 ^ 4
    + c.1 * 2 ^ 2 + (if h.fill then 1 else 0)

/-- HSTAT (13 R267). -/
def execHstat (d : BitVec 6) (hs : BitVec 5) (s : State) : Host.Outcome State Fault Refusal :=
  issue (.hstat d hs) (fun s =>
    match heldOf s hs with
    | none => .fail s 0x0404
    | some h => .done (setX (noteStat s h) d (BitVec.ofNat 64 (hstatVal s h)))) s

/-- PARKED_ACCESS_UNPARK: a parked access whose version has left FILLING goes on; where it was sealed its acquire comes first
(13 R268, R270). The word's next try performs or raises. -/
def unparkEvent (s : State) : State :=
  onWait (fun w => match w with | .parked v home => home == s.fabric && (verOf s v).map Version.state != some .filling | _ => false)
    (fun t => match t.me.wait with
      | .parked v _ => if (verOf t v).map Version.state = some .sealed then unpark t else { t with me := { t.me with wait := .none } }
      | _ => t) s

/-- PARKED_ACCESS_UNPARK (13 R268). -/
def execParkedAccessUnpark (core : Nat) (s : State) : Host.Outcome State Fault Refusal := event (onCore core unparkEvent s)

end Sys2Proof.Machine
end

