-- ==== Sys2Proof/Machine/Stream.lean ====
section
/-! DEFINITION. Stream words: bindings of q registers, stage loads and stores, gather and scatter, metadata runs, copies,
checksums, prefetch and gradient blocks (12 R227-R248). -/

namespace Sys2Proof.Machine

/-! What stream words share. -/

/-- A stream word's register values, by field; the word waits while a channel is empty. -/
def sValues (s : State) (fs : List (BitVec 6)) : Option (List Nat) := fs.mapM fun f => (sValue s f).map BitVec.toNat

/-- A stream word with its register values; the channels are popped as it completes (03 R53). -/
def streamWord (fs : List (BitVec 6)) (f : State → List Nat → Res) (s : State) : Res :=
  match sValues s fs with
  | none => .wait s .queue
  | some vs =>
    match f s vs with
    | .done t => .done (sPopAll (readOver t) fs)
    | r => r

/-- Whether the vector slice has still to run words older than this one: a binding does not change under them. -/
def vectorBehind (s : State) : Bool := s.me.form == .slices && nextLsn (flowOf s.me .v) < s.me.flow.lsn

/-- Where a checked run is written. -/
def destOf (a : Acc1) : SDest := match a.remote with | some m => .away m a.key a.ver | none => .here a.key a.global

/-- The destination runs of a copy, each with the source runs it takes: one per destination sector (11 R220). -/
def copyCuts (l : List (Nat × Nat)) (src : Nat) : List (Nat × Nat × List (Nat × Nat)) :=
  match l with
  | [] => []
  | (a, n) :: rest => (a, n, runs src n) :: copyCuts rest (src + n)

/-- The sector writes of a copy from its destinations, with the number of pieces of each, and the pieces of its source. -/
def copyWrites (ds : List (SDest × Nat)) (src : List SPiece) : List SWrite :=
  match ds with
  | [] => []
  | (d, k) :: rest =>
    settleWrite { dest := d, src := src.take k, bytes := [], poison := false } :: copyWrites rest (src.drop k)

/-- What stops a word where its reads are stopped. -/
def readStop (s : State) (g : Got) : Res :=
  match g with | .bad c a => .failAt s c a | .wait w => .wait s w

/-- The sources of a copy checked in access order, as pieces; those on another module are read first (13 R274). -/
def copySources (s : State) (rs : List (Nat × Nat)) : State × Except Res (List SPiece) :=
  match fetchRuns s s.me.flow.lsn (heldHandles s.me.regs) rs with
  | (t, .error g) => (t, .error (readStop t g))
  | (t, .ok l) => (t, .ok (l.map pieceOf))

/-- The command of a copy whose sources and destinations pass their checks; every source comes before any destination
(12 R228; DEDUCED, log 17). -/
def copyCmd (s : State) (kind : SKind) (dst src n : Nat) : State × Except Res SCmd :=
  let cuts := copyCuts (runs dst n) src
  match copySources s (cuts.flatMap fun c => c.2.2) with
  | (t, .error r) => (t, .error r)
  | (t, .ok ps) =>
    match checkRuns t (runs dst n) true with
    | (u, .bad c a) => (u, .error (.failAt u c a))
    | (u, .park v h) => (u, .error (.wait u (.parked v h)))
    | (u, .ok ds) => (u, .ok (cmdOf u kind (copyWrites ((ds.zip cuts).map fun p => (destOf p.1.2.2, p.2.2.2.length)) ps)))

/-- A command issued, or the answer of its checks. -/
def putCmd (r : State × Except Res SCmd) (f : SCmd → SCmd) : Res :=
  match r with
  | (_, .error e) => e
  | (t, .ok c) => match freeS t with | some u => .done (enqueueS u (f c)) | none => .wait t .queue

/-! Bindings (12 R233, R234). -/

/-- A binding ends: entries fetched are discarded, entries pushed stay queued to be written (12 R234). -/
def endBinding (s : State) (n : Nat) : State := setQ s n .unbound

/-- A new binding, the old one ended first. -/
def bindQ (s : State) (n : Nat) (q : QReg) : State := setQ (endBinding s n) n q

/-- Number of entries of a pattern before it is bound. -/
def entriesOf (counts : Nat) : Nat :=
  (counts % 2 ^ 16 + 1) * (counts / 2 ^ 16 % 2 ^ 16 + 1) * (counts / 2 ^ 32 % 2 ^ 16 + 1) * (counts / 2 ^ 48 % 2 ^ 16 + 1)

/-- One run of each version homed elsewhere that is read through a see handle. -/
def farVersions (l : List (Nat × Nat × Acc1)) (seen : List (Nat × Nat)) : List (Nat × Nat × Acc1) :=
  match l with
  | [] => []
  | r :: rest =>
    let v := (r.2.2.remote.getD 0, r.2.2.ver.getD 0)
    if isFarSee r.2.2 && !seen.contains v then (r.1, 0, r.2.2) :: farVersions rest (v :: seen) else farVersions rest seen

/-- The checks of every byte that a binding will touch (12 R228): a read through a see handle has stopped parking, at another module once
its home says so, which a read of no bytes asks. The first run in access order that its check or its home refuses gives the code. -/
def checkBound (s : State) (rs : List (Nat × Nat)) (wr : Bool) : State × Except Res Unit :=
  match checkPrefix s (heldHandles s.me.regs) rs wr with
  | (t, _, some (.park x h)) => (t, .error (.wait t (.parked x h)))
  | (t, ok, stop) =>
    let far := if wr then [] else farVersions ok []
    match fabricRuns (unpark t) 0 far with
    | (u, none) => (u, .error (.wait u u.me.wait))
    | (u, some bs) =>
      let v := learn u (far.zip bs)
      match (far.zip bs).findSome? fun p => (refusal p.2).map fun c => (c, p.1.1) with
      | some p => (v, .error (.failAt v p.1 p.2))
      | none => match stop with | some (.bad c a) => (v, .error (.failAt v c a)) | _ => (v, .ok ())

/-- SBIND (12 R233). -/
def sbindBody (w : SWord) (s : State) (v : List Nat) : Res :=
  let base := v.getD 0 0
  let xb := v.getD 1 0
  let xc := v.getD 2 0
  let d := w.dims.toNat + 1
  if xb / 2 ^ (16 * d) ≠ 0 ∨ xc / 2 ^ (16 * d) ≠ 0 ∨ 65536 < entriesOf xc then .fail s 0x0102
  else if base % 64 ≠ 0 then .failAt s 0x0203 base
  else if vectorBehind s then .wait s .queue
  else
    let q : QReg := { QReg.unbound with kind := .sbind, base := BitVec.ofNat 64 base, strides := BitVec.ofNat 64 xb,
                                        counts := BitVec.ofNat 64 xc, dims := d, out := w.dir == 1 }
    match checkBound s ((List.range (entriesOf xc)).flatMap fun m => runs (entryAddr q m) 512) (w.dir == 1) with
    | (_, .error r) => r
    | (t, .ok _) => .done (bindQ t w.qr.toNat { q with hands := heldHandles s.me.regs })

/-- SBIND (12 R233). -/
def execSbind (w : SWord) (s : State) : Host.Outcome State Fault Refusal :=
  issue (.sbind w) (streamWord [w.xa, w.xb, w.xc] (sbindBody w)) s

/-- SUNBIND (12 R234). -/
def execSunbind (w : SWord) (s : State) : Host.Outcome State Fault Refusal :=
  issue (.sunbind w) (fun s => if vectorBehind s then .wait s .queue else .done (endBinding s w.qr.toNat)) s

/-- Q_ENTRY_FETCH: the next entry of an inbound binding is fetched into a free place of eight, sector by sector (11 R221, 12 R233,
R235). -/
def execQEntryFetch (core q : Nat) (s : State) : Host.Outcome State Fault Refusal :=
  event (onCore core (fun t => if t.me.run == .running then qFetchStep t q qCap else t) s)

/-! Gather and scatter (12 R237). -/

/-- The pieces of an index array, as far as the moving word has read them. -/
def indexPieces (s : State) (off n : Nat) : List SPiece :=
  match s.me.wait with
  | .index ps => ps
  | _ => (runs (window 0 + off) (4 * n)).map fun r => { key := scratchKey s.me.id (r.1 - window 0), len := r.2, global := false }

/-- Up to `n` sectors of an index array read, each in a step of its own and none after a bad one (11 R221, 12 R237). -/
def indexSteps (n : Nat) (s : State) (ps : List SPiece) : State × List SPiece :=
  match n with
  | 0 => (s, ps)
  | k + 1 => if (badPiece ps).isSome then (s, ps) else let r := partNext s s.me.flow.lsn ps; indexSteps k r.1 r.2

/-- The index array of a gather or scatter: its indices, or the code of its first bad sector, 0x0601 for an uncorrectable one, 0x0603 for a
poisoned one (12 R237). One sector is read at a time where the choice is to wait, else all that are left (DESIGN CHOICE, log 1). -/
def readIndices (s : State) (off n : Nat) : State × Except Res (List Nat) :=
  let l := indexPieces s off n
  match readyS s s.me.flow.lsn (l.filter unread) with
  | none => (s, .error (.wait s (againLater s)))
  | some t =>
    let r := indexSteps (if deferNow t then 1 else l.length) (popDefer t) l
    match (badPiece r.2).bind fun i => r.2[i]? with
    | some p =>
      let hard := markOf r.1 p.key == some .uncorrectable
      let u := if hard then r.1 else bump r.1 s.me.task.part 3
      (u, .error (.raise u { raiseOf u (if hard then 0x0601 else 0x0603) (some (window 0 + (p.key - scratchKey s.me.id 0))) with
        unit := some (storeUnit u p.key .s) }))
    | none =>
      if r.2.any unread then (r.1, .error (.wait r.1 (.index r.2)))
      else (r.1, .ok ((List.range n).map fun i => natOf (((pieceBytes r.2).drop (4 * i)).take 4)))

/-- SGATHER and SSCATTER: the index pair, the index array, the addresses, then the binding (12 R237). -/
def gatherBody (w : SWord) (out : Bool) (s : State) (v : List Nat) : Res :=
  let base := v.getD 0 0
  let pair := v.getD 1 0
  let off := pair % 2 ^ 20
  let n := pair / 2 ^ 32 % 2 ^ 16 + 1
  let width := w.mode.toNat
  if pair / 2 ^ 20 % 2 ^ 12 ≠ 0 ∨ pair / 2 ^ 48 ≠ 0 ∨ off % 4 ≠ 0 then .fail s 0x0102
  else if 2 ^ 20 < off + 4 * n then .failAt s 0x0204 (window 0 + off)
  else if base % 2 ^ width ≠ 0 then .failAt s 0x0203 base
  else if vectorBehind s then .wait s .queue
  else
    match readIndices s off n with
    | (_, .error r) => r
    | (t, .ok idx) =>
      let q : QReg := { QReg.unbound with kind := if out then .sscatter else .sgather, base := BitVec.ofNat 64 base,
                                          pair := BitVec.ofNat 64 pair, out := out, width := width, idx := idx }
      match checkBound t ((List.range n).map fun i => (elemAddr q i, 2 ^ width)) out with
      | (_, .error r) => r
      | (u, .ok _) => .done (bindQ u w.qr.toNat { q with hands := heldHandles s.me.regs })

/-- SGATHER (12 R237). -/
def execSgather (w : SWord) (s : State) : Host.Outcome State Fault Refusal :=
  issue (.sgather w) (streamWord [w.xa, w.xb] (gatherBody w false)) s

/-- SSCATTER (12 R237). -/
def execSscatter (w : SWord) (s : State) : Host.Outcome State Fault Refusal :=
  issue (.sscatter w) (streamWord [w.xa, w.xb] (gatherBody w true)) s

/-! Stage loads and stores (12 R236). -/

/-- The address of a declared stage with room for `n` bytes; none where it is not declared or too small. -/
def stageAddr (s : State) (slot stage n : Nat) : Option Nat :=
  (s.me.slots.find? fun d => d.slot == slot && stage < d.stages && n ≤ d.size).map fun d => window 0 + d.off + stage * d.size

/-- SLD and SST. -/
def stageBody (w : SWord) (store : Bool) (s : State) (v : List Nat) : Res :=
  let n := 2 ^ (12 + w.size.toNat)
  let a := v.getD 0 0
  match stageAddr s w.slot.toNat w.stage.toNat n with
  | none => .fail s 0x0102
  | some b =>
    if a % 64 ≠ 0 then .failAt s 0x0203 a
    else putCmd (if store then copyCmd s .sst a b n else copyCmd s .sld b a n) id

/-- SLD (12 R236). -/
def execSld (w : SWord) (s : State) : Host.Outcome State Fault Refusal :=
  issue (.sld w) (streamWord [w.xa] (stageBody w false)) s

/-- SST (12 R236). -/
def execSst (w : SWord) (s : State) : Host.Outcome State Fault Refusal :=
  issue (.sst w) (streamWord [w.xa] (stageBody w true)) s

/-! Metadata runs (12 R238). -/

/-- SMETA: a run joins its queue; a fifth with entries left stalls. -/
def smetaBody (w : SWord) (s : State) (v : List Nat) : Res :=
  let a := v.getD 0 0
  let n := v.getD 1 0
  let q := w.imm.toNat % 2
  if n = 0 ∨ 65536 < n then .fail s 0x0102
  else if a % 64 ≠ 0 then .failAt s 0x0203 a
  else
    match checkBound s (runs a (2048 * n)) false with
    | (_, .error r) => r
    | (t, .ok _) =>
      if 4 ≤ ((mqOf t q).runs.filter fun r => r.popped < r.count).length then .wait t .queue
      else .done (setMq t q { mqOf t q with
        runs := (mqOf t q).runs ++ [{ addr := BitVec.ofNat 64 a, count := n, popped := 0, hands := heldHandles s.me.regs }] })

/-- SMETA (12 R238). -/
def execSmeta (w : SWord) (s : State) : Host.Outcome State Fault Refusal :=
  issue (.smeta w) (streamWord [w.xa, w.xb] (smetaBody w)) s

/-- The address of the `i`-th entry not yet popped, with the handles of its run. -/
def mqAddr (l : List MqRun) (i : Nat) : Option (Nat × List Handle) :=
  match l with
  | [] => none
  | r :: rest =>
    if i < r.count - r.popped then some ((r.addr.toNat + 2048 * (r.popped + i)) % 2 ^ 64, r.hands) else mqAddr rest (i - (r.count - r.popped))

/-- The fetch of the next metadata entry begins, unless it is under way; one that fails its checks is kept with its code (12 R238). -/
def mqOpen (s : State) (n : Nat) : State × Option Wait :=
  let m := mqOf s n
  if m.part ≠ [] then (s, none)
  else
    match mqAddr m.runs m.fifo.length with
    | none => (s, some .queue)
    | some (a, hands) =>
      match readOpen s (takerLsn s .m) hands (runs a 2048) with
      | (t, .error (.wait w)) => (t, some w)
      | (t, .error (.bad c x)) => (setMq t n { mqOf t n with fifo := (mqOf t n).fifo ++ [{ data := [], failed := some (c, x) }] }, none)
      | (t, .ok ps) => (setMq t n { mqOf t n with part := ps }, none)

/-- An entry all of whose sectors have been read joins the FIFO; a bad sector makes it zeros (10 R203, 12 R231; DEDUCED, log 18). -/
def mqClose (s : State) (n : Nat) : State :=
  let m := mqOf s n
  if m.part = [] ∨ m.part.any unread = true then s
  else setMq s n { m with part := [], fifo := m.fifo ++ [{ data := pieceBytes m.part, failed := none }] }

/-- Fetch the next metadata entry while fewer than `cap` stand ready, for a word that needs it. -/
def mqFetch (s : State) (n cap : Nat) : State × Option Wait :=
  if cap ≤ (mqOf s n).fifo.length then (s, none)
  else match mqOpen s n with | (t, none) => (mqClose (endMqPart t n) n, none) | r => r

/-- The same ahead of any word: the fetch begins, or reads its next sector (11 R221). -/
def mqFetchStep (s : State) (n cap : Nat) : State :=
  if cap ≤ (mqOf s n).fifo.length then s
  else if (mqOf s n).part = [] then match mqOpen s n with | (t, none) => mqClose t n | _ => s
  else
    let r := partNext s (takerLsn s .m) (mqOf s n).part
    mqClose (setMq r.1 n { mqOf s n with part := r.2 }) n

/-- MQ_ENTRY_FETCH (12 R238; 03 R46 for its sixteen places). -/
def execMqEntryFetch (core q : Nat) (s : State) : Host.Outcome State Fault Refusal :=
  event (onCore core (fun t => if t.me.run == .running then mqFetchStep t q 16 else t) s)

/-- The runs after one entry is popped, with whether a run's last entry it was. -/
def popRun (l : List MqRun) : List MqRun × Bool :=
  match l with
  | [] => ([], false)
  | r :: rest => if r.popped + 1 < r.count then ({ r with popped := r.popped + 1 } :: rest, false) else (rest, true)

/-- Pop mq[n]; the last entry of a run posts s94 (12 R232). -/
def mqPop (s : State) (n : Nat) : State :=
  let m := mqOf s n
  let p := popRun m.runs
  let t := setMq s n { m with runs := p.1, fifo := m.fifo.tail }
  if p.2 then mapRegs t fun r => postS r 94 1 else t

/-! Copies (12 R239-R245). -/

/-- The alignment ADD32 asks for (12 R245). -/
def addMisaligned (w : SWord) (dst n : Nat) : Bool := w.ckm == 1 && (dst % 4 != 0 || n % 4 != 0)

/-- The checksum fields of a command. -/
def withSums (w : SWord) (c : SCmd) : SCmd := { c with ckm := w.ckm, ckr := w.ckr }

/-- CPY and STAGE (12 R240). -/
def cpyBody (w : SWord) (stage : Bool) (s : State) (v : List Nat) : Res :=
  let dst := v.getD 0 0
  let src := v.getD 1 0
  let n := v.getD 2 0
  if 2 ^ 32 ≤ n then .fail s 0x0102
  else if stage && dst / 2 ^ 56 != 0xF2 && src / 2 ^ 56 != 0xF2 then .failAt s 0x0204 dst
  else if addMisaligned w dst n then .failAt s 0x0203 dst
  else putCmd (copyCmd s (if stage then .stage else .cpy) dst src n) (withSums w)

/-- CPY (12 R240). -/
def execCpy (w : SWord) (s : State) : Host.Outcome State Fault Refusal :=
  issue (.cpy w) (streamWord [w.xa, w.xb, w.xc] (cpyBody w false)) s

/-- STAGE (12 R240). -/
def execStage (w : SWord) (s : State) : Host.Outcome State Fault Refusal :=
  issue (.stage w) (streamWord [w.xa, w.xb, w.xc] (cpyBody w true)) s

/-- The writes of a multicast: sector by sector, each to every receiver in ascending position (12 R241). -/
def mcWrites (s : State) (off : Nat) (poss : List Nat) (ps : List SPiece) (i : Nat) : List SWrite :=
  match ps with
  | [] => []
  | r :: rest =>
    (poss.map fun p => settleWrite { dest := .crew (scratchKey (mateAt s p) (off + 64 * i)), src := [r], bytes := [], poison := false })
      ++ mcWrites s off poss rest (i + 1)

/-- CPYMC: a zero mask moves and touches nothing (12 R241). -/
def cpymcBody (w : SWord) (s : State) (v : List Nat) : Res :=
  let off := v.getD 0 0
  let src := v.getD 1 0
  let mask := v.getD 2 0
  let n := 2 ^ (12 + w.size.toNat)
  let poss := (List.range 8).filter fun p => mask / 2 ^ p % 2 == 1
  if 2 ^ 8 ≤ mask then .fail s 0x0102
  else if off % 64 ≠ 0 then .failAt s 0x0203 off
  else if src % 64 ≠ 0 then .failAt s 0x0203 src
  else if 2 ^ 20 < off + n then .failAt s 0x0204 (window 1 + off)
  else if mask = 0 then putCmd (s, .ok (cmdOf s .cpymc [])) id
  else
    match copySources s (runs src n) with
    | (_, .error r) => r
    | (t, .ok ps) =>
      match poss.find? fun p => isMate t (mateAt t p) == false with
      | some p => .failAt t 0x0204 (window 1 + p * 2 ^ 20 + off)
      | none => putCmd (t, .ok (cmdOf t .cpymc (mcWrites t off poss ps 0))) id

/-- CPYMC (12 R241). -/
def execCpymc (w : SWord) (s : State) : Host.Outcome State Fault Refusal :=
  issue (.cpymc w) (streamWord [w.xa, w.xb, w.xc] (cpymcBody w)) s

/-- CPYR (12 R242); one of length 0 touches no byte of scratch and so raises no 0x0202 (DESIGN CHOICE, log 65). -/
def cpyrBody (w : SWord) (s : State) (v : List Nat) : Res :=
  let dst := v.getD 0 0
  let src := v.getD 1 0
  let n := v.getD 2 0
  let hub := dst / 2 ^ 56
  if 2 ^ 32 ≤ n then .fail s 0x0102
  else if dst % 64 ≠ 0 then .failAt s 0x0203 dst
  else if src % 64 ≠ 0 ∨ n % 64 ≠ 0 then .failAt s 0x0203 src
  else
    match copyCmd s .cpyr dst src n with
    | (t, .ok c) =>
      if (hub = 0xF0 ∨ hub = 0xF1) ∧ n ≠ 0 then .failAt t 0x0202 dst
      else putCmd (t, .ok c) fun c => { withSums w c with op := w.mode.toNat % 4, fmt := w.mode.toNat / 4 }
    | r => putCmd r id

/-- CPYR (12 R242). -/
def execCpyr (w : SWord) (s : State) : Host.Outcome State Fault Refusal :=
  issue (.cpyr w) (streamWord [w.xa, w.xb, w.xc] (cpyrBody w)) s

/-- CPYF to an address of a module: the destination's own checks are made there, at this module too (12 R243). -/
def cpyfOut (s : State) (dst src n mod : Nat) : State × Except Res SCmd :=
  let cuts := copyCuts (runs dst n) src
  match copySources s (cuts.flatMap fun c => c.2.2) with
  | (t, .error r) => (t, .error r)
  | (t, .ok ps) =>
    if 2 ^ 52 ≤ dst ∧ dst / 2 ^ 56 ≠ 0xF3 then (t, .error (.failAt t 0x0204 dst))
    else
      (t, .ok (cmdOf t .cpyf
        (copyWrites (cuts.map fun c => (if mod = t.fabric then .own c.1 else .away mod c.1 none, c.2.2.length)) ps)))

/-- CPYF (12 R243). -/
def cpyfBody (w : SWord) (s : State) (v : List Nat) : Res :=
  let dst := v.getD 0 0
  let src := v.getD 1 0
  let desc := v.getD 2 0
  let n := desc % 2 ^ 32
  let mod := desc / 2 ^ 32 % 2 ^ 12
  let tile := dst / 2 ^ 56 == 0xF4 && dst % 2 ^ 56 < 2 ^ 52
  if desc / 2 ^ 44 ≠ 0 ∨ (tile = true ∧ mod ≠ 0) then .fail s 0x0102
  else if addMisaligned w dst n then .failAt s 0x0203 dst
  else putCmd (if tile then copyCmd s .cpyf dst src n else cpyfOut s dst src n mod) (withSums w)

/-- CPYF (12 R243). -/
def execCpyf (w : SWord) (s : State) : Host.Outcome State Fault Refusal :=
  issue (.cpyf w) (streamWord [w.xa, w.xb, w.xc] (cpyfBody w)) s

/-! Checksum registers (12 R246). -/

/-- Whether an older command has still to update ck[k]. -/
def ckPending (s : State) (k : Nat) : Bool :=
  (s.me.sqS.any fun c => c.ckm != 0 && c.ckr.toNat == k)
    || s.outs.any fun o => o.launch == s.me.task.launch && o.serial == s.me.task.serial
        && (match o.ck with | some c => c.toNat == k | none => false)

/-- CKRD with MODE4 0 (12 R246). -/
def ckrdReadBody (w : SWord) (s : State) : Res :=
  let k := w.ckr.toNat
  if ckPending s k then .wait s (.ckrd k)
  else
    let v := (readCk s.me.regs k).setWidth 64
    match s.me.form with
    | .logical => .done (setX s w.xa v)
    | .slices =>
      if chanRoom s (w.xa.toNat % 16) 1 then .done (chanPush s (w.xa.toNat % 16) (.scalar v)) else .wait s .queue

/-- CKRD with MODE4 0 (12 R246). -/
def execCkrdRead (w : SWord) (s : State) : Host.Outcome State Fault Refusal := issue (.ckrdRead w) (ckrdReadBody w) s

/-- CKRD with MODE4 1: in slices the write takes its log entry (12 R246). -/
def ckrdLoadBody (w : SWord) (s : State) (v : List Nat) : Res :=
  let k := w.ckr.toNat
  if ckPending s k then .wait s (.ckrd k)
  else
    let e : Rewind := { eng := s.me.eng, lsn := s.me.flow.lsn, pc := s.me.flow.pc, undo := .ck k (readCk s.me.regs k),
                        kept := false }
    let t := mapRegs s fun r => writeCk r k (BitVec.ofNat 32 (v.getD 0 0))
    .done (match s.me.form with
      | .logical => t
      | .slices => { t with me := { t.me with rewind := e :: t.me.rewind } })

/-- CKRD with MODE4 1 (12 R246). -/
def execCkrdLoad (w : SWord) (s : State) : Host.Outcome State Fault Refusal :=
  issue (.ckrdLoad w) (streamWord [w.xa] (ckrdLoadBody w)) s

/-! Prefetch and gradient blocks (12 R247, R248). -/

/-- SPF: no architected effect. -/
def execSpf (w : SWord) (s : State) : Host.Outcome State Fault Refusal :=
  issue (.spf w) (streamWord [w.xa, w.xc] (fun s _ => .done s)) s

/-- GPUSH: one block of 65,536 bytes leaves for its home (12 R248); an address that is misaligned and in the tile window raises 0x0203
(DESIGN CHOICE, log 66). -/
def gpushBody (s : State) (v : List Nat) : Res :=
  let a := v.getD 0 0
  let tag := v.getD 1 0
  if a % 64 ≠ 0 then .failAt s 0x0203 a
  else if a / 2 ^ 56 = 0xF4 then .failAt s 0x0204 a
  else
    match copySources s (runs a 65536) with
    | (_, .error r) => r
    | (t, .ok ps) =>
      let w : SWrite := settleWrite { dest := .away (tag / 2 ^ 52) 0 none, src := ps, bytes := [], poison := false }
      putCmd (t, .ok (cmdOf t .gpush [w])) fun c => { c with tag := tag }

/-- GPUSH (12 R248). -/
def execGpush (w : SWord) (s : State) : Host.Outcome State Fault Refusal :=
  issue (.gpush w) (streamWord [w.xa, w.xb] gpushBody) s

end Sys2Proof.Machine
end

