-- ==== Sys2Proof/Machine/Matrix.lean ====
section
/-! DEFINITION. Matrix words: tile steps with their operands in scratch, sparsity, scales and exponent check, and the clears,
loads, stores, scalings and reads of accumulators (05 R105, 06 R120, R121, 07 R129, R131, 10 R187-R203). -/

namespace Sys2Proof.Machine

/-! Operand regions (10 R189). -/

/-- The first byte at or past the end of scratch of `count` rows of `len` bytes from `base`, `pitch` bytes apart. -/
def pastScratch (base pitch count len : Nat) : Option Nat :=
  if base + pitch * (count - 1) + len ≤ Config.scratchBytes then none
  else
    let m := if Config.scratchBytes < base + len then 0 else (Config.scratchBytes - base - len) / pitch + 1
    some (max (base + pitch * m) Config.scratchBytes)

/-- One repetition's K: `k` of the step, `kd` dense, `ka` and `kb` the elements each operand's storage supplies (10 R189, R190;
05 R105 for MMA16, `half`). -/
structure MStep where
  k  : Nat
  kd : Nat
  ka : Nat
  kb : Nat
  deriving DecidableEq, Repr

/-- The step of a word. -/
def mmaStep (w : MWord) (half : Bool) : MStep :=
  let k := stepK w.afmt.toNat
  let kd := if w.spm = 0 then k else 2 * k
  if half then { k := k, kd := kd, ka := 16, kb := 16 }
  else { k := k, kd := kd, ka := if w.spm = 1 then k else kd, kb := if w.spm = 2 then k else kd }

/-- Bytes of `n` elements of a format. -/
def rowBytes (fmt n : Nat) : Nat := n * fmtWidth fmt / 8

/-- The rows of A in repetition `r`: start, pitch, count and bytes of a row. -/
def aRegion (w : MWord) (g : MStep) (r : Nat) : Nat × Nat × Nat × Nat :=
  (64 * w.aoff.toNat + rowBytes w.afmt.toNat g.ka * r, 64 * w.apitch.toNat, 64, rowBytes w.afmt.toNat g.ka)

/-- The rows of B in repetition `r`: K rows of 64 elements, or 64 columns where BT is set. -/
def bRegion (w : MWord) (g : MStep) (r : Nat) : Nat × Nat × Nat × Nat :=
  let p := 64 * w.bpitch.toNat
  if w.bt = 1 then (64 * w.boff.toNat + rowBytes w.bfmt.toNat g.kb * r, p, 64, rowBytes w.bfmt.toNat g.kb)
  else (64 * w.boff.toNat + p * g.kb * r, p, g.kb, rowBytes w.bfmt.toNat 64)

/-- Blocks of 32 along K in one step (06 R121). -/
def blocksOf (g : MStep) : Nat := g.kd / 32

/-- The scale bytes of an operand in repetition `r` (06 R121). -/
def scaleRegion (off : BitVec 14) (g : MStep) (r : Nat) : Nat × Nat × Nat × Nat :=
  (64 * off.toNat + 64 * blocksOf g * r, 1, 1, 64 * blocksOf g)

/-- The regions a repetition reads, in the order A, B, scales of A, scales of B. -/
def repRegions (w : MWord) (g : MStep) (r : Nat) : List (Nat × Nat × Nat × Nat) :=
  (if w.asrc = 0 then [aRegion w g r] else []) ++ [bRegion w g r]
    ++ (if w.mxe = 1 then [scaleRegion w.sca g r, scaleRegion w.scb g r] else [])

/-- The range check over all repetitions (10 R189): the first byte past scratch. Each region only advances with r, so its last
repetition decides whether it fits. -/
def regionCheck (w : MWord) (g : MStep) : Option Nat :=
  let past (x : Nat × Nat × Nat × Nat) := pastScratch x.1 x.2.1 x.2.2.1 x.2.2.2
  (List.range (repRegions w g 0).length).findSome? fun i =>
    let last := (repRegions w g w.rep.toNat).getD i (0, 1, 1, 0)
    (past last).map fun _ =>
      ((List.range (w.rep.toNat + 1)).findSome? fun r => past ((repRegions w g r).getD i (0, 1, 1, 0))).getD Config.scratchBytes

/-- The first poisoned or uncorrectable sector among rows of scratch, as the first byte read of it (10 R203, 12 R231). -/
def badRows (s : State) (rs : List (Nat × Nat × Nat × Nat)) : Option Nat :=
  if s.marks.isEmpty then none
  else rs.findSome? fun x => (List.range x.2.2.1).findSome? fun m =>
    (badScratch s (x.1 + x.2.1 * m) x.2.2.2).map (max (x.1 + x.2.1 * m))

/-- Rows of scratch read: corrected errors are counted (17 R336). -/
def noteRows (s : State) (rs : List (Nat × Nat × Nat × Nat)) : State :=
  if s.soft.isEmpty then s
  else noteSofts s s.me.task.part (rs.flatMap fun x => (List.range x.2.2.1).flatMap fun m =>
    let o := x.1 + x.2.1 * m
    (List.range ((o % 64 + x.2.2.2 + 63) / 64)).map fun i => scratchKey s.me.id (o / 64 * 64 + 64 * i))

/-- An accumulator read by a matrix word: the state with a corrected error counted, or 0x0601 for one that is not, counted in the
core's own stores (10 R203, 17 R336). -/
def readAcc (s : State) (n : Nat) : Except (State × Raise) State :=
  match (readA s.me.regs n).err with
  | .clean => .ok s
  | .corrected => .ok (bump s s.me.task.part 5)
  | .uncorrectable => .error (bump s s.me.task.part 6, { raiseOf s 0x0601 none with unit := some (engineUnit s .m) })

/-- The accumulators that a repetition of MMA reads: the one A comes from, and C unless it is overwritten. -/
def readAccs (s : State) (w : MWord) (r : Nat) : Except (State × Raise) State :=
  match if w.asrc = 1 then readAcc s (w.aoff.toNat / 1024) else .ok s with
  | .error e => .error e
  | .ok t => if r = 0 ∧ w.acc2 = 0 then .ok t else readAcc t w.cidx.toNat

/-- A matrix word meets a bad sector at a scratch byte: 0x0601, poison included (10 R203, 12 R231). (DEDUCED, log 33.) -/
def scratchFault (s : State) (off : Nat) : State × Raise :=
  let k := scratchKey s.me.id off
  (match markOf s k with | some m => countMark s s.me.task.part k m | none => s,
   { raiseOf s 0x0601 (some (window 0 + off)) with unit := some (storeUnit s k .m) })

/-! Operand values (06 R106, R120, R121; 10 R189, R193, R194). -/

/-- Element `k` of a row at a scratch offset. -/
def scratchElem (s : State) (fmt off k : Nat) : FNum :=
  decodeFloat fmt (if fmtWidth fmt = 4 then scratchNat s (off + k / 2) 1 / 16 ^ (k % 2) % 16
    else scratchNat s (off + k * (fmtWidth fmt / 8)) (fmtWidth fmt / 8))

/-- Zeros up to the step's K: the half of MMA16 that reads as zero (05 R105). -/
def padNums (n : Nat) (l : List FNum) : List FNum := l ++ List.replicate (n - l.length) (.zero false)

/-- An accumulator element down-converted as an element of A (10 R193). -/
def downConvert (w : MWord) (d : Draw) (mode r : Nat) (a : Acc) (row col : Nat) : FNum :=
  decodeFloat w.afmt.toNat (encodeFloat w.afmt.toNat mode (drawBits d mode r (64 * row + col)) (w.asat == 1)
    (decodeFloat 0 (accElem a row col)))

/-- Row `m` of A as stored. -/
def aRow (s : State) (w : MWord) (g : MStep) (mode : Nat) (src : Acc) (r m : Nat) : List FNum :=
  if w.asrc = 0 then
    padNums (if w.spm = 1 then g.k else g.kd)
      ((List.range g.ka).map (scratchElem s w.afmt.toNat ((aRegion w g r).1 + (aRegion w g r).2.1 * m)))
  else (List.range g.kd).map fun k => downConvert w (drawOf s) mode r src m (g.kd * r + k)

/-- Column `n` of B as stored. -/
def bCol (s : State) (w : MWord) (g : MStep) (r n : Nat) : List FNum :=
  let x := bRegion w g r
  padNums (if w.spm = 2 then g.k else g.kd)
    (if w.bt = 1 then (List.range g.kb).map (scratchElem s w.bfmt.toNat (x.1 + x.2.1 * n))
     else (List.range g.kb).map fun k => scratchElem s w.bfmt.toNat (x.1 + x.2.1 * k) n)

/-- An MX value (06 R120). -/
def mxValue (scale : Nat) (x : FNum) : FNum := if scale = 0xFF then .nan else numScale x ((scale : Int) - 127)

/-- The scale codes of row or column `i`, one per block. -/
def scalesOf (s : State) (off : BitVec 14) (g : MStep) (r i : Nat) : List Nat :=
  (List.range (blocksOf g)).map fun j => scratchNat s ((scaleRegion off g r).1 + blocksOf g * i + j) 1

/-- A row or column with its scales; `pos` gives each value's dense K index. -/
def scaled (scales pos : List Nat) (l : List FNum) : List FNum :=
  (l.zip pos).map fun p => mxValue (scales.getD (p.2 / 32) 0xFF) p.1

/-- The two positions of a metadata group of four bits: IDX0 and IDX1 (10 R194). -/
def metaGroup (v : Nat) : Nat × Nat := (v % 4, v / 4 % 4)

/-- The groups of row or column `i` of a metadata entry (10 R194). -/
def metaGroups (entry : List Byte) (k i : Nat) : List (Nat × Nat) :=
  let v := natOf ((entry.drop (k / 4 * i)).take (k / 4))
  (List.range (k / 2)).map fun g => metaGroup (v / 16 ^ g)

/-- CheckMeta: every group of every row or column has IDX0 below IDX1 (10 R194). -/
def metaOk (entry : List Byte) (k : Nat) : Bool :=
  (List.range 64).all fun i => (metaGroups entry k i).all fun g => decide (g.1 < g.2)

/-- The dense positions of the compressed values of row or column `i` (10 R194). -/
def metaPos (entry : List Byte) (k i : Nat) : List Nat :=
  ((metaGroups entry k i).zip (List.range (k / 2))).flatMap fun p => [4 * p.2 + p.1.1, 4 * p.2 + p.1.2]

/-- The factors of the products a step forms at one element: all of K, or the positions its metadata keeps (07 R129). -/
def stepPairs (spm : BitVec 2) (pos : List Nat) (a b : List FNum) : List (FNum × FNum) :=
  if spm = 1 then a.zip (pos.map fun k => b.getD k .nan)
  else if spm = 2 then (pos.map fun k => a.getD k .nan).zip b
  else a.zip b

/-- The exact sum of products (07 R129, steps 1 and 2): an exact zero is +0 unless every product is -0. -/
def sumPairs (l : List (FNum × FNum)) : FNum :=
  match l with
  | [] => .zero false
  | p :: rest => rest.foldl (fun x q => numAdd false x (numMul q.1 q.2)) (numMul p.1 p.2)

/-! The exponent bound (07 R131). -/

/-- floor(log2) of a format's largest finite value. -/
def emaxOf (fmt : Nat) : Int :=
  let m := magOf (floatFmt fmt) (floatFmt fmt).maxc
  m.2 + m.1.log2

/-- ceil(log2 n) for n at least 1. -/
def log2Up (n : Nat) : Nat := if n = 2 ^ n.log2 then n.log2 else n.log2 + 1

/-- E_b of an element from the scale codes of its row and column, none where MXE is 0. -/
def boundOf (w : MWord) (g : MStep) (sa sb : List Nat) : Int :=
  let top := ((sa.zip sb).map fun p => ((p.1 : Int) - 127) + ((p.2 : Int) - 127))
  let m := match top with | [] => 0 | x :: rest => rest.foldl max x
  m + emaxOf w.afmt.toNat + emaxOf w.bfmt.toNat + log2Up g.k + 1

/-- Whether an exact sum trips the check. An infinite or NaN sum of finite products, the second condition of 07 R131, does not
occur where the sum is exact. -/
def trips (bound : Int) (x : FNum) : Bool :=
  match x with | .fin _ m e _ => m != 0 && decide (bound < e + m.log2) | _ => false

/-! One repetition (10 R192). -/

/-- AccWrite: step 4 of 07 R129. -/
def accWrite (mode : Nat) (c : Nat) (x : Nat) (fscale : Nat) : Nat :=
  match mode with
  | 0 => x
  | 1 => roundF32 (numAdd false (decodeFloat 0 c) (decodeFloat 0 x))
  | _ => roundF32 (numAdd false (numMul (decodeFloat 0 fscale) (decodeFloat 0 c)) (decodeFloat 0 x))

/-- The write to an element of an accumulator whose valid bit is clear: that of `ovw`, but NaN where FSCALE × 0 is (10 R192, whose
sentence is taken over the sum of a zero and -0 that 07 R129 would round to +0; DEDUCED, log 61). -/
def accFirst (mode : Nat) (x : Nat) (fscale : Nat) : Nat :=
  if mode = 0 ∨ mode = 1 then x
  else match numMul (decodeFloat 0 fscale) (.zero false) with | .nan => roundF32 .nan | _ => x

/-- Rows of A, or columns of B, with their scales and dense positions. -/
structure MSide where
  vals   : List FNum
  scales : List Nat
  pos    : List Nat
  deriving DecidableEq, Repr

/-- Row `m` of A in repetition `r`; `entry` is the metadata of an MMAS. -/
def sideA (s : State) (w : MWord) (g : MStep) (mode : Nat) (src : Acc) (entry : List Byte) (r m : Nat) : MSide :=
  let pos := if w.spm = 1 then metaPos entry g.k m else List.range g.kd
  let sc := if w.mxe = 1 then scalesOf s w.sca g r m else []
  let v := aRow s w g mode src r m
  { vals := if w.mxe = 1 then scaled sc pos v else v, scales := sc, pos := pos }

/-- Column `n` of B in repetition `r`. -/
def sideB (s : State) (w : MWord) (g : MStep) (entry : List Byte) (r n : Nat) : MSide :=
  let pos := if w.spm = 2 then metaPos entry g.k n else List.range g.kd
  let sc := if w.mxe = 1 then scalesOf s w.scb g r n else []
  let v := bCol s w g r n
  { vals := if w.mxe = 1 then scaled sc pos v else v, scales := sc, pos := pos }

/-- One element of a repetition: the value written and whether the check trips. -/
def mmaElem (w : MWord) (g : MStep) (r : Nat) (valid : Bool) (old : Nat) (a b : MSide) : Nat × Bool :=
  let x := sumPairs (stepPairs w.spm (if w.spm = 1 then a.pos else b.pos) a.vals b.vals)
  let mode := if r = 0 then w.acc2.toNat else 1
  (if valid then accWrite mode old (roundF32 x) w.fscale.toNat else accFirst mode (roundF32 x) w.fscale.toNat,
   w.chk != 0 && trips (boundOf w g a.scales b.scales) x)

/-- All 4,096 elements of repetition `r`, row by row. -/
def mmaTile (s : State) (w : MWord) (g : MStep) (mode : Nat) (src : Acc) (entry : List Byte) (r : Nat) : List (Nat × Bool) :=
  let bs := (List.range 64).map (sideB s w g entry r)
  let c := readA s.me.regs w.cidx.toNat
  (List.range 64).flatMap fun m =>
    let a := sideA s w g mode src entry r m
    (bs.zip (List.range 64)).map fun p => mmaElem w g r c.valid (accElem c m p.2) a p.1

/-- Repetition `r` performed, or the code it raises; the metadata it pops stands at the head of its queue. Its bytes of scratch are read in
one step, so that none of the mixtures arises that 10 R195 permits where nothing orders them (DEDUCED, log 33). -/
def mmaRep (w : MWord) (g : MStep) (mode : Nat) (src : Acc) (r : Nat) (s : State) : Except (State × Raise) State :=
  let sparse := w.spm != 0
  let head := if sparse then (mqOf s w.mqs.toNat).fifo.head? else none
  let entry := (head.map MqEntry.data).getD []
  match head.bind MqEntry.failed with
  | some (c, a) => .error (s, { raiseOf s c (some a) with origin := .s })
  | none =>
    if sparse && !metaOk entry g.k then .error (s, raiseOf s 0x0303 none)
    else
      match badRows s (repRegions w g r) with
      | some o => .error (scratchFault s o)
      | none =>
        match readAccs (noteRows s (repRegions w g r)) w r with
        | .error e => .error e
        | .ok v =>
          let t := mmaTile s w g mode src entry r
          let trip := t.any Prod.snd
          if trip && w.chk == 2 then .error (v, raiseOf s 0x0606 none)
          else
            let c := readA s.me.regs w.cidx.toNat
            let u := mapRegs v fun q => writeA q w.cidx.toNat
              { valid := true, suspect := c.suspect || trip, err := .clean, elems := t.map fun e => BitVec.ofNat 32 e.1 }
            .ok (if sparse then mqPop u w.mqs.toNat else u)

/-- Repetitions from `r` on, `n` of them. -/
def mmaReps (w : MWord) (g : MStep) (mode : Nat) (src : Acc) (n r : Nat) (s : State) : Except (State × Raise) State :=
  match n with
  | 0 => .ok s
  | k + 1 =>
    match mmaRep w g mode src r s with
    | .ok t => mmaReps w g mode src k (r + 1) t
    | .error e => .error e

/-! The words. -/

/-- Stage accesses of the stream path that a matrix word stands behind in logical order are done before it touches scratch
(10 R195); in slices the slicer's joins see to it. -/
def settleStages (s : State) : State :=
  match s.me.form with
  | .logical => if s.me.sqS.any fun c => c.kind == .sld || c.kind == .sst then drainS s else s
  | .slices => s

/-- MMA, MMAS and MMA16: the checks before repetition 0, then one repetition a step; a word that takes A from the accumulator
it writes runs whole and leaves it as it was when a repetition faults; a sparse one has one repetition (10 R188, R190, R192, R193). -/
def mmaBody (w : MWord) (half : Bool) (s0 : State) : Res :=
  let s := settleStages s0
  let g := mmaStep w half
  match if w.asrc = 1 then roundMode s w.arnd.toNat else some 0 with
  | none => .fail s 0x0102
  | some mode =>
    match regionCheck w g with
    | some o => .failAt s 0x0204 (window 0 + o)
    | none =>
      match if w.spm = 0 then (s, none) else mqFetch s w.mqs.toNat 1 with
      | (t, some x) => .wait t x
      | (t, none) =>
        let n := w.aoff.toNat / 1024
        let src := readA t.me.regs n
        if w.asrc = 1 ∧ n = w.cidx.toNat then
          match mmaReps w g mode src (w.rep.toNat + 1) 0 t with
          | .ok u => .done u
          | .error e => .raise { e.1 with me := { e.1.me with regs := t.me.regs } } e.2
        else
          let r := t.me.rho
          match mmaRep w g mode src r t with
          | .error e => .raise e.1 e.2
          | .ok u =>
            if w.rep.toNat ≤ r then .done u
            else .wait { u with me := { u.me with rho := r + 1 } } .none

/-- MMA (10 R191, R192). -/
def execMma (w : MWord) (s : State) : Host.Outcome State Fault Refusal := issue (.mma w) (mmaBody w false) s

/-- MMAS (10 R194). -/
def execMmas (w : MWord) (s : State) : Host.Outcome State Fault Refusal := issue (.mmas w) (mmaBody w false) s

/-- MMA16 (05 R105, 10 R201). -/
def execMma16 (w : MWord) (s : State) : Host.Outcome State Fault Refusal := issue (.mma16 w) (mmaBody w true) s

/-- MZERO (10 R196). -/
def execMzero (w : MWord) (s : State) : Host.Outcome State Fault Refusal :=
  issue (.mzero w) (fun s => .done (mapRegs s fun r => writeA r w.cidx.toNat .clear)) s

/-- A scratch element widened to FP32, a NaN canonical (10 R197). -/
def widen (fmt c : Nat) : BitVec 32 := BitVec.ofNat 32 (encodeFloat 0 0 0 false (decodeFloat fmt c))

/-- MLOAD. -/
def mloadBody (w : MWord) (s0 : State) : Res :=
  let s := settleStages s0
  let fmt := w.afmt.toNat
  let n := fmtWidth fmt / 8
  let off := 64 * w.aoff.toNat
  let pitch := 64 * w.apitch.toNat
  match pastScratch off pitch 64 (64 * n) with
  | some o => .failAt s 0x0204 (window 0 + o)
  | none =>
    match badRows s [(off, pitch, 64, 64 * n)] with
    | some o => let e := scratchFault s o; .raise e.1 e.2
    | none =>
      let a := readA s.me.regs w.cidx.toNat
      let es := (List.range 64).flatMap fun m => (List.range 64).map fun k => widen fmt (scratchNat s (off + pitch * m + n * k) n)
      .done (mapRegs (noteRows s [(off, pitch, 64, 64 * n)]) fun r =>
        writeA r w.cidx.toNat { a with valid := true, err := .clean, elems := es })

/-- MLOAD (10 R197). -/
def execMload (w : MWord) (s : State) : Host.Outcome State Fault Refusal := issue (.mload w) (mloadBody w) s

/-- Whole sectors written into the moving core's scratch. -/
def writeSectors (fuel : Nat) (s : State) (off : Nat) (bs : List Byte) : State :=
  match fuel with
  | 0 => s
  | k + 1 =>
    writeSectors k (homeWrite s s.me.task.part (scratchKey s.me.id off) (bs.take 64)) (off + 64) (bs.drop 64)

/-- The code MSTORE writes for an element. -/
def narrow (w : MWord) (d : Draw) (mode : Nat) (a : Acc) (row col : Nat) : Nat :=
  if w.afmt = 0 then accElem a row col
  else encodeFloat w.afmt.toNat mode (drawBits d mode 0 (64 * row + col)) (w.asat == 1) (decodeFloat 0 (accElem a row col))

/-- MSTORE: rows in ascending order, their bytes written in one step (10 R195; DEDUCED, log 33). -/
def mstoreBody (w : MWord) (s0 : State) : Res :=
  let s := settleStages s0
  let n := fmtWidth w.afmt.toNat / 8
  let off := 64 * w.aoff.toNat
  let pitch := 64 * w.apitch.toNat
  match roundMode s w.arnd.toNat with
  | none => .fail s 0x0102
  | some mode =>
    match pastScratch off pitch 64 (64 * n) with
    | some o => .failAt s 0x0204 (window 0 + o)
    | none =>
      match readAcc s w.cidx.toNat with
      | .error e => .raise e.1 e.2
      | .ok v =>
        let a := readA s.me.regs w.cidx.toNat
        .done ((List.range 64).foldl (fun t m =>
          writeSectors n t (off + pitch * m)
            ((List.range 64).flatMap fun k => bytesOf n (narrow w (drawOf s) mode a m k))) v)

/-- MSTORE (10 R197). -/
def execMstore (w : MWord) (s : State) : Host.Outcome State Fault Refusal := issue (.mstore w) (mstoreBody w) s

/-- MSCALE. -/
def mscaleBody (w : MWord) (s : State) : Res :=
  match roundMode s w.arnd.toNat with
  | none => .fail s 0x0102
  | some mode =>
    match readAcc s w.cidx.toNat with
    | .error e => .raise e.1 e.2
    | .ok v =>
      let a := readA s.me.regs w.cidx.toNat
      let es := (List.range 64).flatMap fun m => (List.range 64).map fun k =>
        BitVec.ofNat 32 (encodeFloat 0 mode (drawBits (drawOf s) mode 0 (64 * m + k)) false
          (numMul (decodeFloat 0 w.fscale.toNat) (decodeFloat 0 (accElem a m k))))
      .done (mapRegs v fun r => writeA r w.cidx.toNat { a with valid := true, err := .clean, elems := es })

/-- MSCALE (10 R198). -/
def execMscale (w : MWord) (s : State) : Host.Outcome State Fault Refusal := issue (.mscale w) (mscaleBody w) s

/-- What MFLAG reads of an accumulator. -/
def flagsOf (a : Acc) : Word := (if a.suspect then 1 else 0) + (if a.valid then 2 else 0)

/-- MFLAG: an x register, in slice form a channel. -/
def mflagBody (w : MWord) (s : State) : Res :=
  let v := flagsOf (readA s.me.regs w.cidx.toNat)
  match s.me.form with
  | .logical => .done (setX s w.xd v)
  | .slices =>
    let n := w.xd.toNat % 16
    if chanRoom s n 1 then .done (chanPush s n (.scalar v)) else .wait s .queue

/-- MFLAG (10 R199). -/
def execMflag (w : MWord) (s : State) : Host.Outcome State Fault Refusal := issue (.mflag w) (mflagBody w) s

end Sys2Proof.Machine
end

