-- ==== Sys2Proof/Machine/Records.lean ====
section
/-! DEFINITION. Launch records and their checks, the walk of a loop nest, hierarchies and crews (02 R24-R31, 15 R294, R295,
R300). -/

namespace Sys2Proof.Machine

/-! Fields (15 R294). -/

/-- Bytes of a launch record. -/
def recordBytes : Nat := 896

/-- The little-endian number of `n` bytes at an offset. -/
def fieldN (bs : List Byte) (off n : Nat) : Nat := natOf ((bs.drop off).take n)

/-- Whether `n` bytes at an offset are zero. -/
def zeroN (bs : List Byte) (off n : Nat) : Bool := ((bs.drop off).take n).all (· == 0)

/-- A number written into a list of bytes at an offset. -/
def putN (bs : List Byte) (off n v : Nat) : List Byte := bs.take off ++ bytesOf n v ++ bs.drop (off + n)

/-- A template at an offset, none where it breaks a limit. -/
def readTemplate (bs : List Byte) (off ndim : Nat) : Option Template :=
  let k := fieldN bs (off + 32) 1
  let base := fieldN bs off 8
  if k < 12 ∨ 22 < k ∨ zeroN bs (off + 33) 15 = false ∨ base % 2 ^ k ≠ 0 ∨ base / 2 ^ 56 ≠ 0xF4 ∨ 2 ^ 52 ≤ base % 2 ^ 56
      ∨ zeroN bs (off + 8 + 4 * ndim) (4 * (6 - ndim)) = false then none
  else some { base := BitVec.ofNat 64 base,
              coef := (List.range ndim).map fun d => signedOf 32 (fieldN bs (off + 8 + 4 * d) 4), k := k }

/-- `n` templates from an offset on; the rest of the eight are zero. -/
def readTemplates (bs : List Byte) (off n ndim : Nat) : Option (List Template) :=
  if zeroN bs (off + 48 * n) (48 * (8 - n)) = false then none
  else (List.range n).mapM fun j => readTemplate bs (off + 48 * j) ndim

/-- The dimensions of a mask. -/
def maskDims (m : Nat) : List Nat := (List.range 6).filter fun d => m / 2 ^ d % 2 == 1

/-- A work hierarchy of `ndim` dimensions is well formed (02 R25, R26); a level is its domain and mask, widest first. -/
def levelsOk (l : List (Nat × Nat)) (ndim : Nat) : Bool :=
  let doms := l.map Prod.fst
  let strict := (doms.zip doms.tail).all fun p => decide (p.2 < p.1)
  let held := l.flatMap fun v => if 1 ≤ v.1 ∧ v.1 ≤ 5 then maskDims v.2 else []
  strict && doms.contains 1 && (l.all fun v => (1 ≤ v.1 && v.1 ≤ 5) || v.2 == 0) && held.length == ndim
    && (List.range ndim).all fun d => held.contains d

/-- The fields of a record that a launch needs, none where a field limit is broken or a reserved field is not zero
(15 R294, R295; 02 R24, R26). -/
def readRecord (bs : List Byte) : Option LaunchRec :=
  let ndim := fieldN bs 56 1
  let flags := fieldN bs 57 1
  let order := fieldN bs 60 4
  let dims := (List.range ndim).map fun k => order / 2 ^ (3 * k) % 8
  let nlevel := fieldN bs 78 1
  let level i := fieldN bs (80 + 2 * i) 2
  let levels := (List.range nlevel).map fun i => (level i % 8, level i / 16 % 64)
  let extents := (List.range ndim).map fun d => fieldN bs (32 + 4 * d) 4 + 1
  let ok := bs.length == recordBytes && fieldN bs 0 8 % 64 == 0 && 1 ≤ ndim && ndim ≤ 6
    && zeroN bs (32 + 4 * ndim) (4 * (6 - ndim)) && extents.foldl (· * ·) 1 ≤ 2 ^ 48 && flags < 16
    && (flags / 8 == 0 || flags % 4 == 0) && fieldN bs 58 1 ≤ 8 && fieldN bs 59 1 ≤ 8
    && order / 2 ^ (3 * ndim) == 0 && ((List.range ndim).all fun d => dims.contains d) && fieldN bs 70 2 == 0
    && fieldN bs 76 2 < 4 && 1 ≤ nlevel && nlevel ≤ 8 && zeroN bs 79 1
    && ((List.range nlevel).all fun i => level i / 8 % 2 == 0 && level i / 2 ^ 10 == 0)
    && zeroN bs (80 + 2 * nlevel) (2 * (8 - nlevel)) && levelsOk levels ndim && fieldN bs 104 2 < 256 && zeroN bs 106 22
  if ok = false then none
  else
    match readTemplates bs 128 (fieldN bs 58 1) ndim, readTemplates bs 512 (fieldN bs 59 1) ndim with
    | some r, some w =>
      some { kernel := BitVec.ofNat 64 (fieldN bs 0 8), gotbase := BitVec.ofNat 64 (fieldN bs 8 8),
             seed := BitVec.ofNat 64 (fieldN bs 16 8), pblock := BitVec.ofNat 64 (fieldN bs 24 8), extents := extents,
             cls := flags % 4, serp := flags / 4 % 2 == 1, pre := flags / 8 == 1, order := dims,
             place := BitVec.ofNat 48 (fieldN bs 64 6), limit := fieldN bs 72 4 + 1, policy := fieldN bs 76 2,
             levels := levels, after := fieldN bs 96 8, evvec := fieldN bs 104 2, rtiles := r, wtiles := w }
    | _, _ => none

/-! The walk (02 R30, 15 R300). -/

/-- Extent of a dimension. -/
def extentOf (r : LaunchRec) (d : Nat) : Nat := r.extents.getD d 1

/-- The index of each dimension of a walk at position `n`, innermost dimension first: under the serpentine flag a dimension
counts down where the dimensions outside it have taken an odd number of steps. -/
def walkDims (r : LaunchRec) (inner : List Nat) (n : Nat) : List (Nat × Nat) :=
  match inner with
  | [] => []
  | d :: rest =>
    let e := extentOf r d
    (d, if r.serp && n / e % 2 == 1 then e - 1 - n % e else n % e) :: walkDims r rest (n / e)

/-- The six indices of the task with serial `n`; those of undeclared dimensions are 0. -/
def walkAt (r : LaunchRec) (n : Nat) : List Nat :=
  (List.range 6).map fun d => (assoc (walkDims r r.order.reverse n) d).getD 0

/-- The tile name of a template at given indices. -/
def templateName (t : Template) (idx : List Nat) : Nat :=
  (((t.base.toNat : Int) + 2 ^ t.k * ((t.coef.zip idx).map fun (p : Int × Nat) => p.1 * (p.2 : Int)).sum) % 2 ^ 64).toNat

/-- The corners of a loop nest. -/
def corners (extents : List Nat) : List (List Nat) :=
  match extents with
  | [] => [[]]
  | e :: rest => (corners rest).flatMap fun c => [0 :: c, (e - 1) :: c]

/-- Every template stays in the tile window's pools over the nest (15 R295). -/
def templatesOk (r : LaunchRec) : Bool :=
  (r.rtiles ++ r.wtiles).all fun t => (corners r.extents).all fun c => (tileName (templateName t c)).isSome

/-! Placement (02 R27, R28; 15 R302). -/

/-- Whether a core is live at the current map version. -/
def coreLive (s : State) (g : Nat) : Bool := s.rmap.cores.getLsbD g

/-- The live cores of a cluster. -/
def liveIn (s : State) (c : Nat) : List Nat := ((List.range 8).map (8 * c + ·)).filter (coreLive s)

/-- Whether a cluster is placed: named, owned by the partition, live (15 R302). -/
def placed (s : State) (part : Nat) (r : LaunchRec) (c : Nat) : Bool :=
  r.place.getLsbD c && (((partOf s part).map fun p => p.cfg.clusters.getLsbD c).getD false) && !(liveIn s c).isEmpty

/-- Whether a launch declares a CREW level. -/
def hasCrew (r : LaunchRec) : Bool := r.levels.any fun v => v.1 == 2

/-- The crew size: one without a CREW level (02 R28). -/
def crewSize (r : LaunchRec) : Nat :=
  if hasCrew r then
    ((r.levels.filter fun v => v.1 == 1).flatMap fun v => maskDims v.2).foldl (fun n d => n * extentOf r d) 1
  else 1

/-- Whether the placement has a cluster with room for a crew (02 R28). -/
def roomFor (s : State) (part : Nat) (r : LaunchRec) : Bool :=
  (List.range 48).any fun c => placed s part r c && crewSize r ≤ (liveIn s c).length

/-- The indices that name a task's instance of a domain: those of every level at least as wide (02 R27). -/
def instanceKey (r : LaunchRec) (domain : Nat) (idx : List Nat) : List Nat :=
  (r.levels.filter fun v => domain ≤ v.1).flatMap fun v => (maskDims v.2).map fun d => idx.getD d 0

/-- The indices that name a task's crew; a task of a launch without a CREW level has its own. -/
def crewKey (r : LaunchRec) (idx : List Nat) : List Nat := if hasCrew r then instanceKey r 2 idx else idx

/-- Whether a launch ID has been issued in a partition (15 R295). -/
def issued (p : Partition) (id : Nat) : Bool :=
  1 ≤ id % 2 ^ 56 && id % 2 ^ 56 ≤ (assoc p.seqs (id / 2 ^ 56)).getD 0

/-- The checks of a record in a partition (15 R295): the record, or its code. `grant`: its source may set PRE. -/
def checkRecord (s : State) (part : Nat) (bs : List Byte) (grant : Bool) : Except Nat LaunchRec :=
  match readRecord bs with
  | none => .error 0x0A11
  | some r =>
    if (!s.kernels.any fun k => k.part == part && k.addr == r.kernel.toNat) || (r.pre && r.cls != 0)
        || (r.after != 0 && !((partOf s part).map fun p => issued p r.after).getD false) || !templatesOk r then .error 0x0A11
    else if hasCrew r ∧ (8 < crewSize r ∨ roomFor s part r = false) then .error 0x0A12
    else if r.pre = true ∧ grant = false then .error 0x0A13
    else .ok r

end Sys2Proof.Machine
end

