-- ==== Sys2Proof/Machine/Sched.lean ====
section
/-! DEFINITION. From launch to issue and to the task's end: LAUNCH, acceptance, the walker's binding, dispatch, task start,
TEXIT's end, completion, pre-emption by class 0 and the cycle limit (13 R271, R272, 15 R296-R310, 16 R323, R325). -/

namespace Sys2Proof.Machine

/-! Launches on their way (15 R297, R299). -/

/-- Records the pool holds. -/
def poolCap : Nat := 512

/-- A record put into a partition's launch queue. -/
def submitTo (s : State) (part queue : Nat) (r : LaunchRec) : State :=
  updPart s part fun p =>
    { p with arrivals := p.arrivals + 1, queues := p.queues ++ [{ arrival := p.arrivals, cycle := uncore s, source := queue, record := r }] }

/-- Where the next record of the overflow ring stands (15 R299). -/
def ringSlot (p : Partition) : Nat := (p.cfg.ringBase.toNat + recordBytes * (p.ringNext % max 1 p.cfg.ringSize)) % 2 ^ 64

/-- A record placed by LAUNCH into the pool, or where it must and may into the overflow ring, whose bytes stand in partition memory
(15 R299). (DESIGN CHOICE, log 34.) -/
def placeLaunch (s : State) (part : Nat) (bs : List Byte) (r : LaunchRec) (blocking : Bool) : Option State :=
  match partOf s part with
  | none => none
  | some p =>
    let e : Pending := { arrival := p.arrivals, cycle := uncore s, source := 64, record := r }
    if p.pool.length < poolCap ∧ p.ring.isEmpty = true then
      some (updPart s part fun p => { p with arrivals := p.arrivals + 1, pool := p.pool ++ [e] })
    else if blocking = true ∧ p.ring.length < p.cfg.ringSize then
      some (updPart (writeAt s p (runs (ringSlot p) recordBytes) bs) part fun p =>
        { p with arrivals := p.arrivals + 1, ring := p.ring ++ [e], ringNext := p.ringNext + 1 })
    else none

/-- The record at an address as LAUNCH reads it, at its homes (16 R323). -/
def readRecordAt (s : State) (a : Nat) : State × Except Res (List Byte) :=
  if a % 128 ≠ 0 then (s, .error (.failAt s 0x0203 a))
  else if 2 ^ 52 ≤ a ∧ a / 2 ^ 56 ≠ 0xF3 then (s, .error (.failAt s 0x0204 a))
  else
    match checkRuns s (runs a recordBytes) false with
    | (t, .bad c x) => (t, .error (.failAt t c x))
    | (t, .park v h) => (t, .error (.wait t (.parked v h)))
    | (t, .ok l) => (noteSofts t t.me.task.part (l.map fun r => r.2.2.key), .ok (l.flatMap fun r => cellsGet t.mem r.2.2.key r.2.1))

/-- LAUNCH from its release on: the state with the record placed and the status of the non-blocking form (16 R323). -/
def launchFrom (a : BitVec 6) (blocking : Bool) (s : State) : Except Res (State × Bool) :=
  match readRecordAt (releaseAt s 4) (xOf s a).toNat with
  | (_, .error e) => .error e
  | (t, .ok bs) =>
    match checkRecord t s.me.task.part bs false with
    | .error c => .error (.fail t c)
    | .ok r =>
      match placeLaunch t s.me.task.part bs r blocking with
      | some u => .ok (u, true)
      | none => if blocking then .error (.fail t 0x0704) else .ok (t, false)

/-- LAUNCH (16 R323). -/
def execLaunch (a : BitVec 6) (s : State) : Host.Outcome State Fault Refusal :=
  issue (.launch a) (fun s => match launchFrom a true s with | .ok r => .done r.1 | .error e => e) s

/-- LAUNCH.nb: waits for room in y[n], then appends the status (16 R323). -/
def execLaunchNb (y : BitVec 2) (a : BitVec 6) (s : State) : Host.Outcome State Fault Refusal :=
  issue (.launchNb y a) (fun s =>
    if yCap ≤ (readY s.me.regs y.toNat).length then .wait s (.room y.toNat)
    else
      match launchFrom a false s with
      | .ok r => .done (mapRegs r.1 fun g => writeY g y.toNat (readY g y.toNat ++ [if r.2 then 1 else 0]))
      | .error e => e) s

/-- The event of a launch that ends before it has an ID: refused with a code (15 R295). -/
def refuseEvent (s : State) (part vec code : Nat) : State :=
  { s with events := s.events ++ [{ code := 0, vec := vec, part := part, launch := 0, killed := 0, cancelled := 0,
                                    first := code, lsn := 0, unit := none, time := s.time }] }

/-- A record that the host submits to a launch queue: refused, or queued with the arrival it got (15 R295, R297). -/
def hostSubmit (s : State) (part queue : Nat) (bs : List Byte) : State × Option Nat :=
  match partOf s part with
  | none => (s, none)
  | some p =>
    match checkRecord s part bs (p.cfg.preQueues.getLsbD queue) with
    | .error c => (refuseEvent s part (fieldN bs 104 2) c, none)
    | .ok r => (submitTo s part queue r, some p.arrivals)

/-- LAUNCH_QUEUE_SUBMIT (15 R295). -/
def execLaunchQueueSubmit (part queue : Nat) (record : List Byte) (s : State) : Host.Outcome State Fault Refusal :=
  event (if queue < 64 then (hostSubmit s part queue record).1 else s)

/-! The loader's submissions (04 R68, R70). -/

/-- The launch ID that an arrival of a partition received, once it has been accepted. -/
def idOfArrival (s : State) (part n : Nat) : Option Nat :=
  (s.launches.find? fun l => l.part == part && l.arrival == n && !l.handler).map fun l => l.id % 2 ^ 64

/-- A job's launches submitted in order, up to one whose predecessor is not accepted yet; one whose predecessor was refused is
reported as not submitted (15 R294). -/
def runJob (fuel : Nat) (s : State) (part : Nat) (j : LoadJob) : State × LoadJob :=
  match fuel with
  | 0 => (s, j)
  | n + 1 =>
    match j.todo with
    | [] => (s, j)
    | i :: rest =>
      let go (u : State) (r : Option Nat) := runJob n u part { todo := rest, done := (i.index, r) :: j.done }
      match i.after with
      | none => let r := hostSubmit s part i.queue i.record; go r.1 r.2
      | some a =>
        match (assoc j.done a).getD none with
        | none => go { s with hostOut := s.hostOut ++ [.notSubmitted part i.index] } none
        | some arr =>
          match idOfArrival s part arr with
          | none => (s, j)
          | some id => let r := hostSubmit s part i.queue (putN i.record 96 8 id); go r.1 r.2

/-- Every job of a partition goes on as far as it can. -/
def runJobs (s : State) (part : Nat) : State :=
  let js := ((partOf s part).map Partition.jobs).getD []
  let r := js.foldl (fun (acc : State × List LoadJob) j =>
    let x := runJob (j.todo.length + 1) acc.1 part j
    (x.1, if x.2.todo.isEmpty then acc.2 else acc.2 ++ [x.2])) (s, [])
  updPart r.1 part fun p => { p with jobs := r.2 }

/-! Acceptance (15 R297, 20 R381). -/

/-- The notice at the handler record's PBLOCK (20 R381). -/
def writeNotice (s : State) (part : Nat) : State :=
  match partOf s part with
  | none => s
  | some p =>
    match p.handler with
    | none => s
    | some r => writeAt s p (runs r.pblock.toNat 64)
        (bytesOf 8 s.rmap.version ++ bytesOf 8 p.acked ++ bytesOf 8 p.notice ++ List.replicate 40 0)

/-- A change reaches a context's map-handler, if one is registered (20 R381): it only updates the notice of a live handler
launch, else the handler's record is accepted as if from the pool. -/
def noteHandler (s : State) (part bit : Nat) : State :=
  match (partOf s part).bind Partition.handler with
  | none => s
  | some r =>
    let live : Bool := match (partOf s part).bind Partition.handlerOn with
      | some id => ((launchOf s id).map fun l => !l.done).getD false
      | none => false
    if live then writeNotice (updPart s part fun p => { p with notice := Nat.lor p.notice (2 ^ bit) }) part
    else
      let t := writeNotice (updPart s part fun p => { p with notice := 2 ^ bit }) part
      let n := ((partOf s part).map Partition.arrivals).getD 0
      let a := acceptLaunch t part 64 n r true
      updPart a.1 part fun p => { p with handlerOn := some a.2, arrivals := p.arrivals + 1 }

/-- Whether a chosen sector or die has no live core of the placement left (02 R28). -/
def spotDead (s : State) (l : Launch) (e : Nat × List Nat × Nat) : Bool :=
  !(List.range 48).any fun c => placed s l.part l.record c && (if e.1 = 3 then c / 4 else c / 24) == e.2.2

/-- Launches whose placement has lost its room, or an instance its sector or die: event 0x0703 goes to the map-handler at each such loss
(02 R28, 15 R302). -/
def settleRoom (s : State) : State :=
  s.launches.foldl (fun t l =>
    let open_ := !l.done && l.exited + l.killed + l.cancelled < taskCount l.record
    let lack := open_ && !roomFor s l.part l.record
    let dead := if open_ then l.spots.filter (spotDead s l) else []
    let u := updLaunch t l.id fun k => { k with noRoom := lack, lost := dead }
    if (lack && !l.noRoom) || dead.any (fun e => !l.lost.contains e) then noteHandler u l.part 8 else u) s

/-- LAUNCH_ACCEPT: a partition's launches are accepted in the order in which they arrived, once the uncore cycle of their arrival is over, so
that those of one cycle can be taken in ascending source (15 R297). -/
def execLaunchAccept (part source : Nat) (s : State) : Host.Outcome State Fault Refusal :=
  event (match (partOf s part).bind nextArrival with
    | none => s
    | some e =>
      if e.source ≠ source ∨ uncore s ≤ e.cycle then s
      else
        let t := updPart s part fun p => takeArrival p e
        runJobs (settleRoom (acceptLaunch t part source e.arrival e.record false).1) part)

/-! Binding (13 R271, R272, 15 R300). -/

/-- Tasks a launch binds ahead of its oldest undispatched task. -/
def bindAhead : Nat := 4096

/-- Whether every earlier launch of the partition that declares templates has bound all its tasks. -/
def earlierBound (ls : List Launch) (l : Launch) : Bool :=
  (ls.takeWhile fun k => k.id != l.id).all fun k => k.part != l.part || (k.record.rtiles ++ k.record.wtiles).isEmpty
    || k.next == taskCount k.record

/-- See handles on the current versions of the read templates, by register. -/
def bindReads (s : State) (l : Launch) (idx : List Nat) (ts : List (Template × Nat)) : State × List (Nat × Handle) :=
  match ts with
  | [] => (s, [])
  | (t, j) :: rest =>
    match (tileName (templateName t idx)).bind (currentOf s l.part) with
    | none => bindReads s l idx rest
    | some v =>
      let r := bindReads (updVer s v.id fun w => { w with see := w.see + 1 }) l idx rest
      (r.1, (j, handleOn s v false) :: r.2)

/-- New versions of the write templates, by register, with whether one was not made for its k; none where a quota is full. -/
def bindWrites (s : State) (l : Launch) (idx : List Nat) (ts : List (Template × Nat)) :
    Option (State × List (Nat × Handle) × Bool) :=
  match ts with
  | [] => some (s, [], false)
  | (t, j) :: rest =>
    match tileName (templateName t idx) with
    | none => bindWrites s l idx rest
    | some n =>
      if (versionsOf s l.part n).any fun v => v.k != t.k then
        (bindWrites s l idx rest).map fun r => (r.1, r.2.1, true)
      else if quotaOk s ((partOf s l.part).getD noPart) n t.k = false then none
      else
        let v := newVersion s l.part n t.k (.task l.id l.next)
        (bindWrites v.1 l idx rest).map fun r => (r.1, (8 + j, v.2) :: r.2.1, r.2.2)

/-- TASK_BIND: the walker enumerates and binds the launch's next task, or waits (13 R271, R272, 15 R300). -/
def execTaskBind (launch : Nat) (s : State) : Host.Outcome State Fault Refusal :=
  event (match launchOf s launch with
    | none => s
    | some l =>
      let oldest := ((l.bound.head?).map Bound.serial).getD l.next
      let tiles := !(l.record.rtiles ++ l.record.wtiles).isEmpty
      if taskCount l.record ≤ l.next ∨ oldest + bindAhead ≤ l.next ∨ (tiles = true ∧ earlierBound s.launches l = false) then s
      else
        let idx := walkAt l.record l.next
        let r := bindReads s l idx l.record.rtiles.zipIdx
        match bindWrites r.1 l idx l.record.wtiles.zipIdx with
        | none => s
        | some w =>
          updLaunch w.1 launch fun k =>
            { k with next := k.next + 1,
                     bound := k.bound ++ [{ serial := l.next, handles := r.2 ++ w.2.1, bindErr := w.2.2 }] })

/-! The choice (15 R301-R305). -/

/-- Whether a launch's predecessor lets its tasks dispatch (15 R301). -/
def afterOk (s : State) (l : Launch) : Bool :=
  l.record.after == 0 || (match launchOf s (l.part * 2 ^ 64 + l.record.after) with
    | none => true
    | some p => p.done || p.exited + p.killed + p.cancelled + p.released.length == taskCount p.record)

/-- Whether a launch dispatches nothing: complete, held by its fault policy, without room for a crew, its context suspended or its
partition evicted (02 R28, 15 R296, R302, R308). -/
def heldUp (s : State) (l : Launch) : Bool :=
  l.done || l.held || !roomFor s l.part l.record || (match partOf s l.part with | some p => p.suspended || p.evicted | none => true)

/-- A saved task that waits for a core: pre-empted, or released by the host, and assigned to none. -/
def resumable (v : Saved) : Bool := v.onCore.isNone && (v.cause == .class0 || v.release)

/-- Whether a reservation stands: its launch may dispatch, on a cluster that is placed and has live cores for its crew (15 R304); one that
cannot be served lapses, and the next choice of its crew makes another (DEDUCED, log 35). -/
def standing (s : State) (r : Nat × Nat) : Bool :=
  match launchOf s r.2 with
  | some l => !heldUp s l && placed s l.part l.record r.1 && decide (crewSize l.record ≤ (liveIn s r.1).length)
  | none => false

/-- Whether a cluster is not held for another launch's crew (15 R304). -/
def openTo (s : State) (l : Launch) (c : Nat) : Bool := s.reserved.all fun r => r.1 != c || r.2 == l.id || !standing s r

/-- Whether a core that a pre-empting launch has taken is still its own: the launch may dispatch there (15 R307). -/
def claimed (s : State) (r : Nat × Nat) : Bool :=
  match launchOf s r.2 with
  | some l => !heldUp s l && placed s l.part l.record (coreCluster r.1) && coreLive s r.1
  | none => false

/-- Whether a core has been taken for a launch by pre-emption. -/
def claims (s : State) (l : Launch) (g : Nat) : Bool := s.claims.contains (g, l.id)

/-- Whether a core may take a task of a launch: live, on a die that takes new work, without a task, assigned to no saved task,
taken for it by pre-emption or else neither taken nor held for another launch (15 R302, R304, R307, 20 R382). -/
def freeCore (s : State) (l : Launch) (g : Nat) : Bool :=
  coreLive s g && !(s.quiet.any fun q => q.1 == coreDie g) && (coreOf s g).run == .idle && !(s.saved.any fun v => v.onCore == some g)
    && (claims s l g || (openTo s l (coreCluster g) && s.claims.all fun r => r.1 != g || !claimed s r))

/-- The free cores of a cluster. -/
def freeIn (s : State) (l : Launch) (c : Nat) : List Nat := ((List.range 8).map (8 * c + ·)).filter (freeCore s l)

/-- Whether a cluster keeps the sector and die chosen for a task's instances (02 R27). -/
def spotOk (l : Launch) (idx : List Nat) (c : Nat) : Bool :=
  [3, 4].all fun d =>
    match l.spots.find? fun e => e.1 == d && e.2.1 == instanceKey l.record d idx with
    | some e => e.2.2 == (if d = 3 then c / 4 else c / 24)
    | none => true

/-- What a launch would dispatch next. -/
inductive Pick where
  | resume (vs : List Saved)
  | start (bs : List Bound)
  deriving DecidableEq, Repr

/-- Cores a pick needs. -/
def Pick.size (p : Pick) : Nat := match p with | .resume vs => vs.length | .start bs => bs.length

/-- Saved tasks in ascending serial. -/
def insertSaved (v : Saved) (l : List Saved) : List Saved :=
  match l with
  | [] => [v]
  | w :: rest => if v.core.task.serial ≤ w.core.task.serial then v :: w :: rest else w :: insertSaved v rest

/-- Whether a saved task's crew may resume on a cluster: its members are resumed together, and where some still run the cluster
is theirs (02 R34). -/
def resumeOk (s : State) (l : Launch) (v : Saved) (c : Nat) : Bool :=
  let t := v.core.task
  let mate (u : Task) := u.launch == l.id && u.crew == t.crew
  let there := (allCores s).filter fun k => k.run != .idle && mate k.task
  let halted := s.saved.filter fun w => mate w.core.task && w.onCore.isSome
  placed s l.part l.record c && spotOk l (walkAt l.record t.serial) c
    && (there.all fun k => coreCluster k.id == c) && (halted.all fun w => coreCluster (w.onCore.getD 0) == c)
    && (!there.isEmpty || !halted.isEmpty || s.saved.all fun w => !mate w.core.task || resumable w)

/-- The pre-empted task of a launch that resumes next on a cluster, with its crew (15 R302, item 4). -/
def resumePick (s : State) (l : Launch) (c : Nat) : Option Pick :=
  let mine := s.saved.filter fun v => v.core.task.launch == l.id && resumable v
  ((mine.foldr insertSaved []).find? fun v => resumeOk s l v c).map fun v =>
    .resume (mine.filter fun w => w.core.task.crew == v.core.task.crew)

/-- Whether a task of a launch is of an instance whose sector or die is gone (02 R28). -/
def deadTask (s : State) (l : Launch) (serial : Nat) : Bool :=
  l.spots.any fun e => e.2.1 == instanceKey l.record e.1 (walkAt l.record serial) && spotDead s l e

/-- The next bound task of a launch in walker order, with its crew; those of an instance whose sector or die is gone are held
(02 R28, R31). (DEDUCED, log 38.) -/
def startPick (s : State) (l : Launch) (c : Nat) : Option Pick :=
  if afterOk s l = false then none
  else
    match l.bound.find? fun b => !deadTask s l b.serial with
    | none => none
    | some b =>
      let idx := walkAt l.record b.serial
      let mates := if hasCrew l.record then
          l.bound.filter fun k => crewKey l.record (walkAt l.record k.serial) == crewKey l.record idx else [b]
      if mates.length = crewSize l.record ∧ placed s l.part l.record c = true ∧ spotOk l idx c = true then some (.start mates)
      else none

/-- What a launch would dispatch on a cluster. -/
def pickOn (s : State) (l : Launch) (c : Nat) : Option Pick :=
  if heldUp s l then none else match resumePick s l c with | some p => some p | none => startPick s l c

/-- Whether a launch has a ready task (15 R302). -/
def readyLaunch (s : State) (l : Launch) : Bool :=
  !heldUp s l && ((s.saved.any fun v => v.core.task.launch == l.id && resumable v && !deadTask s l v.core.task.serial)
    || ((l.bound.any fun b => !deadTask s l b.serial) && afterOk s l))

/-- The effective class: `waited` counts 2,000ths of an uncore cycle (15 R303, 20 R381). -/
def effClass (l : Launch) : Nat :=
  if l.handler ∨ l.record.cls = 0 then 0 else max 1 (l.record.cls - l.waited / 2000 / 2 ^ 24)

/-- Whether a partition's virtual time is below another's. -/
def vBelow (p q : Partition) : Bool := p.vnum * q.vden < q.vnum * p.vden

/-- Whether a launch comes before another, its elder in acceptance order, in the order of 15 R302; a map-handler's comes first
within its partition (20 R381). -/
def comesFirst (s : State) (new old : Launch) : Bool :=
  let p := (partOf s new.part).getD noPart
  let q := (partOf s old.part).getD noPart
  if effClass new ≠ effClass old then effClass new < effClass old
  else if new.part = old.part then new.handler && !old.handler
  else if vBelow p q then true
  else if vBelow q p then false
  else new.part < old.part

/-- Whether a launch has taken cores of a cluster by pre-emption. -/
def takenOn (s : State) (l : Launch) (c : Nat) : Bool := s.claims.any fun r => r.2 == l.id && coreCluster r.1 == c && claimed s r

/-- The pick of a launch on a cluster where cores that it has taken are free for it. -/
def takenPick (s : State) (c : Nat) (l : Launch) : Option (Launch × Pick) :=
  if takenOn s l c then ((pickOn s l c).filter fun p => p.size ≤ (freeIn s l c).length).map fun p => (l, p) else none

/-- The choice for a cluster: first the launch that has taken cores there by pre-emption and now has them; else among the launches that the
cluster is not closed to, those that wait for such cores left out (15 R302, R304, R307). -/
def chooseOn (s : State) (c : Nat) : Option (Launch × Pick) :=
  match s.launches.findSome? (takenPick s c) with
  | some x => some x
  | none => s.launches.foldl (fun best l =>
    match (if openTo s l c && s.claims.all (fun r => r.2 != l.id || !claimed s r) then pickOn s l c else none) with
    | none => best
    | some p => match best with
      | none => some (l, p)
      | some b => if comesFirst s l b.1 then some (l, p) else some b) none

/-! Dispatch (15 R302-R304). -/

/-- The sector and die chosen by a task's dispatch on a cluster, where its hierarchy declares them and none is chosen yet. -/
def chooseSpots (l : Launch) (idx : List Nat) (c : Nat) : List (Nat × List Nat × Nat) :=
  l.spots ++ [3, 4].filterMap fun d =>
    let k := instanceKey l.record d idx
    if (l.record.levels.any fun v => v.1 == d) ∧ (l.spots.all fun e => e.1 ≠ d ∨ e.2.1 ≠ k) then
      some (d, k, if d = 3 then c / 4 else c / 24) else none

/-- A task given to a core, its handles in their registers; TASK_START follows (13 R271). -/
def giveTask (s : State) (l : Launch) (crew g : Nat) (b : Bound) : State :=
  let t : Task :=
    { part := l.part, launch := l.id, serial := b.serial, idx := (walkAt l.record b.serial).map (BitVec.ofNat 64), pblock := l.record.pblock,
      limit := l.record.limit, policy := l.record.policy,
      taskid := BitVec.ofNat 64 (l.id % 2 ^ 16 * 2 ^ 48 + b.serial % 2 ^ 48), crew := crew, evvec := l.record.evvec,
      bindErr := b.bindErr, start := s.time }
  let k := coreOf s g
  let regs := b.handles.foldl (fun r h => writeH r h.1 (.held h.2 0)) Regs.clear
  setCore s { Core.idle g with l1 := k.l1, lastCtx := k.lastCtx, defer := k.defer, costs := k.costs, run := .starting,
                               task := t, regs := regs }

/-- A crew, or a task by itself, dispatched onto cores of one cluster. -/
def startOn (s : State) (l : Launch) (c : Nat) (gs : List Nat) (bs : List Bound) : State :=
  let crew : Crew := { id := s.crewNext, launch := l.id, cluster := c, members := bs.map Bound.serial,
                       bars := Vector.replicate 16 .start, cp := 0 }
  let t := (gs.zip bs).foldl (fun u p => giveTask u l s.crewNext p.1 p.2)
    { s with crews := crew :: s.crews, crewNext := s.crewNext + 1 }
  let idx := walkAt l.record (((bs.head?).map Bound.serial).getD 0)
  updLaunch t l.id fun k =>
    { k with bound := k.bound.filter fun b => !bs.contains b, waited := 0, spots := chooseSpots k idx c }

/-- Saved tasks assigned to cores of one cluster; TASK_RESUME follows. -/
def assignOn (s : State) (l : Launch) (c : Nat) (gs : List Nat) (vs : List Saved) : State :=
  let t := { s with saved := s.saved.map fun v =>
    match (vs.zip gs).find? fun p => p.1 == v with | some p => { v with onCore := some p.2 } | none => v }
  let t := match vs.head? with | some v => updCrew t v.core.task.crew fun k => { k with cluster := c } | none => t
  updLaunch t l.id fun k => { k with waited := 0 }

/-- The clusters on which a launch's next pick may stand. -/
def clustersFor (s : State) (l : Launch) : List Nat := (List.range 48).filter fun c => (pickOn s l c).isSome

/-- Whether some cluster takes a launch's next crew at once. -/
def fitsSome (s : State) (l : Launch) : Bool :=
  (clustersFor s l).any fun c => ((pickOn s l c).map Pick.size).getD 9 ≤ (freeIn s l c).length

/-- Whether no launch holds a cluster. -/
def unreserved (s : State) (c : Nat) : Bool := s.reserved.all fun r => r.1 != c || !standing s r

/-- Whether a cluster has live cores for a launch's next pick. -/
def roomIn (s : State) (l : Launch) (c : Nat) : Bool := ((pickOn s l c).map Pick.size).getD 9 ≤ (liveIn s c).length

/-- The cluster reserved for a crew: of those with live cores for it the one with the most free live cores, the lower number on a tie; a
cluster holds one reservation (15 R304). -/
def reserveFor (s : State) (l : Launch) : State :=
  match ((clustersFor s l).filter fun c => unreserved s c && roomIn s l c).foldl (fun best c => match best with
      | none => some c
      | some b => if (freeIn s l b).length < (freeIn s l c).length then some c else some b) none with
  | none => s
  | some c => { s with reserved := (c, l.id) :: s.reserved.filter fun r => r.1 != c && r.2 != l.id }

/-- TASK_DISPATCH: the die's scheduler offers free cores of one cluster, in the order in which a crew's members take them
(15 R302, R304). Nothing happens where the choice does not take exactly these cores, but that a crew no cluster can take
reserves one. -/
def execTaskDispatch (cores : List Nat) (s : State) : Host.Outcome State Fault Refusal :=
  event (match cores with
    | [] => s
    | g :: _ =>
      let c := coreCluster g
      match chooseOn s c with
      | none => s
      | some (l, p) =>
        if cores.length = p.size ∧ (cores.all fun h => coreCluster h == c && freeCore s l h) = true
            ∧ cores.eraseDups = cores then
          let t := { s with reserved := s.reserved.filter fun r => r.2 != l.id, claims := s.claims.filter fun r => r.2 != l.id }
          match p with
          | .start bs => startOn t l c cores bs
          | .resume vs => assignOn t l c cores vs
        else if 1 < p.size ∧ (l.record.cls = 0 ∧ l.record.pre = true) = false ∧ fitsSome s l = false
            ∧ (s.reserved.all fun r => r.2 != l.id || !standing s r) = true then reserveFor s l
        else s)

/-! Task start (02 R32, 03 R52, R54, R58, 11 R225). -/

/-- Scratch of the moving core cleared where it passes to another context (03 R58). -/
def clearScratch (s : State) (ctx : Nat) : State :=
  if s.me.lastCtx = some ctx then s
  else
    let lo := scratchKey s.me.id 0
    { s with mem := cellsClear s.mem lo Config.scratchBytes,
             marks := s.marks.filter fun m => !(lo ≤ 64 * m.1 && 64 * m.1 < lo + Config.scratchBytes),
             soft := s.soft.filter fun n => !(lo ≤ 64 * n && 64 * n < lo + Config.scratchBytes) }

/-- The kernel that a launch runs. -/
def kernelOf (s : State) (part addr : Nat) : Option Loaded := s.kernels.find? fun k => k.part == part && k.addr == addr

/-- A kernel's slices put into a core (14 R279). -/
def loadKernel (s : State) (c : Core) (k : Loaded) : Core :=
  { c with form := .slices, text := k.kernel.units, code := k.sliced.code, anns := k.sliced.anns, map := k.sliced.map,
           absent := s.absentNew, weak := [], slots := k.kernel.slots, emulate := k.kernel.emulate }

/-- x1 to x8 at task start (02 R32). -/
def startRegs (t : Task) (r : Regs) : Regs :=
  let r := (List.range 6).foldl (fun g d => writeX g (BitVec.ofNat 6 (d + 1)) (t.idx.getD d 0)) r
  writeX (writeX r 7 (BitVec.ofNat 64 t.serial)) 8 t.pblock

/-- The CSRs at task start (03 R54). -/
def startCsrs (r : LaunchRec) : Csrs :=
  { Csrs.clear with gotbase := r.gotbase, seed := r.seed, vl := 512, cycleft := r.limit }

/-- A code raised at the frontier of the moving core (18 R342). (DEDUCED, log 52.) -/
def frontierRaise (s : State) (code : Nat) : Raise :=
  let e := frontSlice s.me
  let pc := frontPc s.me
  let bs := bytesAt s.me pc
  { raiseOf { s with me := s.me.turn e } code none with
    lsn := frontier s.me, pc := pc, insn := bs, origin := if s.me.form = .logical then classEngine (natOf (bs.take 4)) else e }

/-- The moving core as its task starts, before its slices are placed. -/
def startedCore (s : State) (l : Launch) : Core :=
  let c := match kernelOf s l.part l.record.kernel.toNat with | some k => loadKernel s s.me k | none => { s.me with form := .slices }
  { c with run := .running, regs := startRegs c.task c.regs, csr := startCsrs l.record, eng := .c, parked := [],
           flow := Flow.entry, lastCtx := (partOf s l.part).map Partition.ctx, task := { c.task with start := s.time } }

/-- 0x0409 at LSN 0 of a task whose write template could not bind (13 R271). -/
def bindRaise (s : State) : Raise := { frontierRaise s 0x0409 with lsn := 0, pc := 0, insn := bytesAt s.me 0 }

/-- The task of the moving core starts. -/
def startTask (s : State) : State :=
  match launchOf s s.me.task.launch with
  | none => s
  | some l =>
    let t := clearScratch s (((partOf s l.part).map Partition.ctx).getD 0)
    let u := acquire { t with me := (startedCore t l).toSlices } 4
    if u.me.task.bindErr then raiseCode u (bindRaise u) else u

/-- The cores of a crew that hold a dispatched task. -/
def startersOf (s : State) (t : Task) : List Core :=
  (allCores s).filter fun c => c.run == .starting && c.task.launch == t.launch && c.task.crew == t.crew

/-- Whether a task of the launch with a lower serial, outside the crew, is dispatched and has not started: it starts first (02 R31). -/
def startsLater (s : State) (t : Task) : Bool :=
  (allCores s).any fun c => c.run == .starting && c.task.launch == t.launch && c.task.crew != t.crew && c.task.serial < t.serial

/-- TASK_START: the tasks of one crew start together, in walker order (02 R31, R32). -/
def execTaskStart (core : Nat) (s : State) : Host.Outcome State Fault Refusal :=
  let c := coreOf s core
  event (if c.run ≠ .starting ∨ startsLater s c.task = true then s
    else (startersOf s c.task).foldl (fun t k => onCore k.id startTask t) s)

/-- GRANULE_ARRIVAL (14 R279). -/
def execGranuleArrival (core : Nat) (eng : Engine) (granule : Nat) (s : State) : Host.Outcome State Fault Refusal :=
  event (onCore core (fun t => { t with me := { t.me with absent := t.me.absent.filter fun a => a != (eng, granule),
                                                          weak := t.me.weak.filter fun e => e.1 != (eng, granule) } }) s)

/-! The end of a task and of a launch (16 R325, 15 R298). -/

/-- The steps of 16 R325 for the moving core's task; it stays while a store through a remote fill handle is unacknowledged
(13 R274). -/
def exitTask (s : State) : State :=
  let t := closeRegion (closeRegion (closeRegion (closeRegion s)))
  let t := (List.range 16).foldl endBinding t
  let t := writeBackAll (drainBoth t)
  if (handlesFrom t.me.regs 0).any fun h => h.fill && h.home != t.fabric && unacked t h then t
  else
    let t := leaveCrew (exitHandles t) t.me.task.crew t.me.task.serial
    let t := leaveLaunch t t.me.task.launch t.me.task.serial fun l => { l with exited := l.exited + 1 }
    dropPosts { t with me := t.me.vacate } s.me.id

/-- TASK_EXIT (16 R325). -/
def execTaskExit (core : Nat) (s : State) : Host.Outcome State Fault Refusal :=
  event (onCore core (fun t => if t.me.run = .exiting then exitTask t else t) s)

/-- Whether every task of a launch has ended (15 R298). -/
def launchOver (l : Launch) : Bool := !l.done && l.exited + l.killed + l.cancelled == taskCount l.record

/-- A launch that is over completes: its completion event (15 R298, 21 R391). -/
def completeLaunch (s : State) (l : Launch) : State :=
  let e : EventMsg := { code := 0, vec := l.record.evvec, part := l.part, launch := l.id % 2 ^ 64, killed := l.killed,
                        cancelled := l.cancelled, first := (l.first.map Prod.fst).getD 0,
                        lsn := (l.first.map Prod.snd).getD 0, unit := none, time := s.time }
  let t := match l.record1 with | some r => tellImage s r | none => s
  updLaunch { t with events := t.events ++ [e] } l.id fun k => { k with done := true }

/-- LAUNCH_COMPLETE (15 R298). -/
def execLaunchComplete (launch : Nat) (s : State) : Host.Outcome State Fault Refusal :=
  event (match launchOf s launch with
    | none => s
    | some l => if launchOver l then completeLaunch s l else s)

/-! Pre-emption by class 0 (15 R307). -/

/-- A victim: the cores of one crew, or of a task by itself. -/
structure Victim where
  cores  : List Nat
  launch : Launch
  index  : Nat
  start  : Nat
  deriving DecidableEq, Repr

/-- Whether a victim is taken before another (15 R307, item 1). (DEDUCED, log 35.) -/
def takenFirst (s : State) (a b : Victim) : Bool :=
  let p := (partOf s a.launch.part).getD noPart
  let q := (partOf s b.launch.part).getD noPart
  if a.launch.record.cls ≠ b.launch.record.cls then b.launch.record.cls < a.launch.record.cls
  else if vBelow q p then true
  else if vBelow p q then false
  else if a.index ≠ b.index then b.index < a.index
  else b.start < a.start

/-- Victims in the order in which they are taken. -/
def insertVictim (s : State) (v : Victim) (l : List Victim) : List Victim :=
  match l with
  | [] => [v]
  | w :: rest => if takenFirst s v w then v :: w :: rest else w :: insertVictim s v rest

/-- Whether a core holds a task that a debugger halt keeps there. -/
def isHalted (c : Core) : Bool := match c.run with | .halted _ _ => true | _ => false

/-- The victims on a cluster: tasks of class 1 to 3, crews whole; a crew with a halted member is none (DEDUCED, log 35). -/
def victimsOn (s : State) (c : Nat) : List Victim :=
  let here := (allCores s).filter fun k => k.run != .idle && coreCluster k.id == c
  let crews := (here.map fun k => k.task.crew).eraseDups
  (crews.filterMap fun n =>
    let ks := here.filter fun k => k.task.crew == n
    match ks.head?.bind fun k => launchOf s k.task.launch with
    | none => none
    | some l =>
      if effClass l = 0 ∨ l.record.cls = 0 ∨ ks.any isHalted = true then none
      else some { cores := ks.map Core.id, launch := l, index := s.launches.findIdx fun k => k.id == l.id,
                  start := (ks.map fun k => k.task.start).foldl max 0 }).foldr (insertVictim s) []

/-- All choices of victims, those with earlier victims first. -/
def choices (l : List Victim) : List (List Victim) :=
  match l with
  | [] => [[]]
  | v :: rest => (choices rest).map (v :: ·) ++ choices rest

/-- Cores that a choice frees. -/
def freed (l : List Victim) : Nat := (l.map fun v => v.cores.length).sum

/-- The better of two choices: fewer victims, then the first victim by their order. -/
def betterChoice (s : State) (a b : List Victim) : Bool :=
  if freed a ≠ freed b then freed a < freed b
  else match a, b with | v :: _, w :: _ => takenFirst s v w | _, _ => false

/-- Cores that a launch's next pick on a cluster lacks. -/
def lacks (s : State) (l : Launch) (c : Nat) : Nat := ((pickOn s l c).map Pick.size).getD 9 - (freeIn s l c).length

/-- The fewest victims on a cluster that free enough cores for a launch's next task or crew. -/
def victimsFor (s : State) (l : Launch) (c : Nat) : Option (List Victim) :=
  let need := lacks s l c
  ((choices (victimsOn s c)).filter fun v => need ≤ freed v).foldl (fun best v => match best with
    | none => some v
    | some b => if freed v < freed b then some v else some b) none

/-- Whether a launch has already taken the cores of its next pick: where all of them stay live, those on their way to it are enough. -/
def served (s : State) (l : Launch) : Bool :=
  (clustersFor s l).any fun c =>
    let mine := s.claims.filter fun r => r.2 == l.id && coreCluster r.1 == c && claimed s r
    !mine.isEmpty && ((pickOn s l c).map Pick.size).getD 9 ≤ mine.length

/-- Whether a class-0 launch with PRE finds no free core for its next task or crew and has taken none yet; a map-handler has no right to
pre-empt (20 R381). -/
def mayPreempt (s : State) (l : Launch) : Bool :=
  l.record.cls == 0 && l.record.pre && !l.handler && !(clustersFor s l).isEmpty && !fitsSome s l && !served s l

/-- Whether an older such launch, accepted in the same cycle, chooses first (15 R307). -/
def choosesLater (s : State) (l : Launch) : Bool :=
  (s.launches.takeWhile fun k => k.id != l.id).any fun k => k.accepted == l.accepted && mayPreempt s k

/-- CLASS0_PREEMPTION (15 R307): the stops are asked for on any placed cluster, one reserved for another crew too, and the victims' cores, with
the free ones that the crew needs beside them, are the launch's before any other choice is made. (DEDUCED, log 35.) -/
def execClass0Preemption (launch : Nat) (s : State) : Host.Outcome State Fault Refusal :=
  event (match launchOf s launch with
    | none => s
    | some l =>
      if mayPreempt s l = false ∨ choosesLater s l = true then s
      else
        let cs := (clustersFor s l).filterMap fun c => (victimsFor s l c).map fun v => (c, v)
        match cs.foldl (fun best x => match best with
            | none => some x
            | some b => if betterChoice s x.2 b.2 then some x else some b) none with
        | none => s
        | some (c, vs) =>
          let gs := vs.flatMap Victim.cores
          let mine := (gs ++ freeIn s l c).take (max gs.length (((pickOn s l c).map Pick.size).getD 9))
          gs.foldl (fun t g => askStop t g .class0)
            { s with claims := mine.map (·, launch) ++ s.claims.filter fun r => r.2 != launch && !mine.contains r.1 })

/-! The cycle limit (15 R310). -/

/-- 0x0701 at the frontier once CYCLEFT is 0, and the frontier has passed every word whose gated act is done (02 R43). -/
def expireLimit (s : State) : State :=
  if s.me.run = .running ∧ s.me.csr.cycleft = 0 ∧ s.me.gate ≤ frontier s.me then takeFault s (frontierRaise s 0x0701) false else s

/-- CYCLE_LIMIT_EXPIRY (15 R310). -/
def execCycleLimitExpiry (core : Nat) (s : State) : Host.Outcome State Fault Refusal := event (onCore core expireLimit s)

end Sys2Proof.Machine
end

