-- ==== Sys2Proof/Machine/Recovery.lean ====
section
/-! DEFINITION. Forced stops applied, saved tasks resumed, the debugger, evictions and kills by the host (13 R273, 15 R296, R307-R309,
18 R347, R353, R354, R360, R361). -/

namespace Sys2Proof.Machine

/-! Forced stops (15 R308, R309, 18 R361). -/

/-- The cause in an image of a forced stop. -/
def stopOf (c : StopCause) : SaveCause :=
  match c with | .class0 => .class0 | .suspend => .suspended | .evict => .evicted | .debug => .debugger

/-- The rebuild of the moving core: a fault whose step the other slices have reached is taken; then a cycle limit that has
expired with the stop, and the stop itself, if it is the first asked for (15 R309). -/
def rebuildCore (s : State) (cause : StopCause) : State :=
  let t := settleFault s
  if t.me.stops.head? = some (stopOf cause) then forceStop (expireLimit t) else t

/-- REBUILD (18 R347). -/
def execRebuild (core : Nat) (cause : StopCause) (s : State) : Host.Outcome State Fault Refusal :=
  event (onCore core (fun t => rebuildCore t cause) s)

/-! Saved tasks. -/

/-- The saved task of a launch's serial. -/
def savedOf (s : State) (launch serial : Nat) : Option Saved :=
  s.saved.find? fun v => v.core.task.launch == launch && v.core.task.serial == serial

/-- Update a saved task. -/
def updSaved (s : State) (launch serial : Nat) (f : Saved → Saved) : State :=
  { s with saved := s.saved.map fun v => if v.core.task.launch = launch ∧ v.core.task.serial = serial then f v else v }

/-- Without a saved task. -/
def dropSaved (s : State) (launch serial : Nat) : State :=
  { s with saved := s.saved.filter fun v => !(v.core.task.launch == launch && v.core.task.serial == serial) }

/-- The registers of a task changed, where it runs or as it is saved. -/
def updTaskRegs (s : State) (launch serial : Nat) (f : Regs → Regs) : State :=
  match coreOfTask s launch serial with
  | some c => onCore c.id (fun t => mapRegs t f) s
  | none => updSaved s launch serial fun v => { v with core := { v.core with regs := f v.core.regs } }

/-- An image written back into core `g`, scratch after its clearing, before its slices are placed (18 R353, items 1 to 3). -/
def restoreImage (s : State) (v : Saved) (g : Nat) : State :=
  let lo := scratchKey g 0
  let k := coreOf s g
  let mem := cellsPut (cellsClear s.mem lo Config.scratchBytes) lo v.scratch
  let marks := (s.marks.filter fun m => !(lo ≤ 64 * m.1 && 64 * m.1 < lo + Config.scratchBytes))
    ++ v.poison.map fun n => (n + lo / 64, Mark.poison)
  let c : Core := { v.core with id := g, run := .running, task := { v.core.task with place := none }, l1 := k.l1, defer := k.defer, costs := k.costs,
                                lastCtx := (partOf s v.core.task.part).map Partition.ctx, absent := if v.core.form = .slices then s.absentNew else [], weak := [] }
  let soft := s.soft.filter fun n => !(lo ≤ 64 * n && 64 * n < lo + Config.scratchBytes)
  setCore { s with mem := mem, marks := marks, soft := soft } c

/-- A saved task resumes on core `g` (18 R353): its slices are placed; a core takes it as after an acquire of module scope
(11 R225). A held code whose delivery the host ordered is routed from item 4 on (18 R354). An image whose PC is no instruction or
whose header is not R351's is refused with 0x0A01 and stays saved. (DEDUCED, log 36.) -/
def resumeOn (s : State) (v : Saved) (g : Nat) : State :=
  let l := v.core.task.launch
  let n := v.core.task.serial
  if isFirst v.core v.core.flow.pc.toNat = false ∨ v.sound = false then
    updSaved { s with hostOut := s.hostOut ++ [.refused 0x0A01] } l n fun w => { w with onCore := none, release := false }
  else
    onCore g (fun t =>
      let u := acquire t 4
      match v.deliver, v.raised with
      | true, some r => let q := routeOf u r.code true; takeRoute u { r with code := q.2 } q.1 false
      | _, _ => { u with me := u.me.toSlices }) (restoreImage (dropSaved s l n) v g)

/-- Whether a saved task may still resume on a core: its launch dispatches, on a cluster that is its partition's (15 R302, R308). -/
def mayResume (s : State) (v : Saved) (g : Nat) : Bool :=
  match launchOf s v.core.task.launch with
  | some l => !heldUp s l && placed s l.part l.record (coreCluster g)
  | none => true

/-- Whether a saved task stands ready on the core that dispatch assigned to it. -/
def resumesNow (s : State) (v : Saved) : Bool :=
  (v.cause == .class0 || v.release) && (match v.onCore with | some g => (coreOf s g).run == .idle | none => false)

/-- A saved task resumes on its assigned core, or loses the assignment where its launch no longer dispatches there. -/
def resumeOne (s : State) (v : Saved) : State :=
  match v.onCore with
  | some g => if mayResume s v g then resumeOn s v g else updSaved s v.core.task.launch v.core.task.serial fun w => { w with onCore := none }
  | none => s

/-- TASK_RESUME: a released or pre-empted task on the core that dispatch assigned to it, the assigned members of its crew together
(18 R353, 16 R322). -/
def execTaskResume (launch serial core : Nat) (s : State) : Host.Outcome State Fault Refusal :=
  event (match savedOf s launch serial with
    | some v =>
      if v.onCore = some core ∧ resumesNow s v = true then
        (s.saved.filter fun w => w.core.task.launch == launch && w.core.task.crew == v.core.task.crew && resumesNow s w).foldl resumeOne s
      else s
    | none => s)

/-- HOST_FAULT_RESUME: a task held for 0x0201 becomes ready, with its code to be delivered if the host orders so (18 R354). -/
def execHostFaultResume (launch serial : Nat) (deliver : Bool) (s : State) : Host.Outcome State Fault Refusal :=
  event (updSaved s launch serial fun v =>
    if v.cause = .systemFault then { v with release := true, deliver := deliver } else v)

/-! The debugger (18 R360). -/

/-- DEBUG_HALT. -/
def execDebugHalt (core : Nat) (s : State) : Host.Outcome State Fault Refusal := event (askStop s core .debugger)

/-- The moving core's halted task goes on where it stands; an image whose PC is no instruction or whose header is not R351's is refused
with 0x0A01 and stays. -/
def unhalt (step : Bool) (s : State) : State :=
  match s.me.run with
  | .halted _ sound =>
    if isFirst s.me s.me.flow.pc.toNat = false ∨ sound = false then { s with hostOut := s.hostOut ++ [.refused 0x0A01] }
    else
      let c := { s.me with run := .running, task := { s.me.task with place := none }, stepTo := if step then some (s.me.flow.lsn + 1) else none }
      acquire { s with me := c.toSlices } 4
  | _ => s

/-- A halted task goes on, on its reserved core, or when that core has failed on any that dispatch finds (20 R383). -/
def releaseHalt (s : State) (launch serial : Nat) (step : Bool) : State :=
  match coreOfTask s launch serial with
  | some c => onCore c.id (unhalt step) s
  | none => updSaved s launch serial fun v =>
      if v.cause ≠ .debugger then v
      else { v with release := true, core := { v.core with stepTo := if step then some (v.core.flow.lsn + 1) else none } }

/-- DEBUG_SINGLE_STEP. -/
def execDebugSingleStep (launch serial : Nat) (s : State) : Host.Outcome State Fault Refusal :=
  event (releaseHalt s launch serial true)

/-- DEBUG_RELEASE. -/
def execDebugRelease (launch serial : Nat) (s : State) : Host.Outcome State Fault Refusal :=
  event (releaseHalt s launch serial false)

/-- Whether a change concerns the PC or a header field other than FLAGS[0]. (DEDUCED, log 23.) -/
def headerEdit (e : ImageEdit) : Bool :=
  match e with
  | .pc _ => true | .lsn _ => true | .rho _ => true | .emu _ => true | .erls _ => true | .taskid _ => true | .xvalid _ => true
  | .vvalid _ => true | .pvalid _ => true | .avalid _ => true | .asusp _ => true | .header _ => true | _ => false

/-- A q register whose image takes other fields; an index list that the image only locates stays as it was read. -/
def editQ (g : QReg) (base strides counts mode : Word) (done : Nat) (pair : Word) : QReg :=
  let m := mode.toNat
  { g with base := base, strides := strides, counts := counts, dims := m % 4 + 1, out := m / 4 % 2 = 1, width := m / 32 % 4,
           kind := match m / 8 % 4 with | 0 => .unbound | 1 => .sbind | 2 => .sgather | _ => .sscatter, done := done, pair := pair }

/-- The valid bits or suspect flags of the accumulators set. -/
def editAccs (r : Regs) (f : Nat → Acc → Acc) : Regs := { r with acc := Vector.ofFn fun i => f i.val (readA r i.val) }

/-- The state of a task in its image with a change made; scratch and header stand beside it. -/
def editCore (c : Core) (e : ImageEdit) : Core :=
  let r (g : Regs) : Core := { c with regs := g }
  let k (x : Csrs) : Core := { c with csr := x }
  match e with
  | .x i w => r (writeX c.regs i w)
  | .p i w => r (writeP c.regs i.toNat w)
  | .t i w => r (writeT c.regs i.toNat w)
  | .lc i w =>
    let l := c.flow.loops.getD i.toNat .none
    { c with flow := { c.flow with loops := c.flow.loops.setIfInBounds i.toNat { l with count := w } } }
  | .v i w => r (writeV c.regs i.toNat w)
  | .s i w => r { c.regs with sem := c.regs.sem.setIfInBounds i.toNat w }
  | .ck i w => r (writeCk c.regs i.toNat w)
  | .acc i n w =>
    let a := readA c.regs i.toNat
    r (writeA c.regs i.toNat { a with valid := true, elems := (if a.valid then a.elems else List.replicate 4096 0).set n w })
  | .scratch _ _ => c
  | .rmode w => k { c.csr with rmode := w }
  | .vl w => k { c.csr with vl := w }
  | .trapvec w => k { c.csr with trapvec := w }
  | .emuvec w => k { c.csr with emuvec := w }
  | .faultrec w => k { c.csr with faultrec := w }
  | .hdl b => { c with hdl := b }
  | .emu b => { c with emu := b }
  | .pc w => { c with flow := { c.flow with pc := w } }
  | .lsn n => { c with flow := { c.flow with lsn := n } }
  | .rho n => { c with rho := n }
  | .h i w => r (writeH c.regs i.toNat (match w with | some x => .held x 0 | none => .empty))
  | .y i l => r (writeY c.regs i.toNat (l.take 8))
  | .q i b st n m d p =>
    let g := { editQ (c.str.q.getD i.toNat .unbound) b st n m d p with hands := heldHandles c.regs }
    { c with str := { c.str with q := c.str.q.setIfInBounds i.toNat g } }
  | .mq i l =>
    let g : MqReg := { runs := (l.take 4).map fun x => { addr := x.1, count := x.2.1, popped := x.2.2, hands := heldHandles c.regs }, fifo := [], part := [] }
    { c with str := { c.str with mq := c.str.mq.setIfInBounds i.toNat g } }
  | .erls b => { c with erls := b }
  | .taskid w => { c with task := { c.task with taskid := w } }
  | .xvalid w => r { c.regs with xv := w }
  | .vvalid w => r { c.regs with vv := w }
  | .pvalid w => r { c.regs with pv := w }
  | .avalid w => r (editAccs c.regs fun n a =>
      { a with valid := w.getLsbD n, elems := if w.getLsbD n ∧ a.valid = false then List.replicate 4096 0 else a.elems })
  | .asusp w => r (editAccs c.regs fun n a => { a with suspect := w.getLsbD n })
  | .header _ => c
  | .gotbase w => k { c.csr with gotbase := w }
  | .seed w => k { c.csr with seed := w }
  | .cycle n => k { c.csr with cycle := n }
  | .cycleft n => k { c.csr with cycleft := n }
  | .regions l => { c with regions := (l.take 4).map fun g => { handler := g.1, opened := g.2 } }
  | .depth i d => r (match readH c.regs i.toNat with | .held h _ => writeH c.regs i.toNat (.held h (min d 4)) | _ => c.regs)
  | .loopState i b n st e =>
    let l := c.flow.loops.map fun m => { m with rank := loopRank c.flow.loops m }
    let m : LoopCtr := { l.getD i.toNat .none with active := b, rank := n % 4, start := st % 2 ^ 32, stop := e % 2 ^ 32 }
    { c with flow := { c.flow with loops := l.setIfInBounds i.toNat m } }

/-- A saved image with a change made. -/
def editImage (v : Saved) (e : ImageEdit) : Saved :=
  match e with
  | .scratch o b => { v with scratch := if o < Config.scratchBytes then cellSet v.scratch o b else v.scratch }
  | .header b => { v with sound := b }
  | _ => { v with core := editCore v.core e }

/-- The moving core's halted task with a change made to its image. -/
def editHalted (e : ImageEdit) (s : State) : State :=
  match s.me.run, e with
  | .halted _ _, .scratch o b => if o < Config.scratchBytes then { s with mem := cellSet s.mem (scratchKey s.me.id o) b } else s
  | .halted tag _, .header b => { s with me := { s.me with run := .halted tag b } }
  | .halted _ _, _ => { s with me := editCore s.me e }
  | _, _ => s

/-- The bytes of a saved task's image written anew. -/
def rewriteImage (s : State) (launch serial : Nat) : State :=
  match savedOf s launch serial with | some v => writeImage s v | none => s

/-- The bytes of the moving core's halted task's image written anew. -/
def rewriteHalted (s : State) : State :=
  match s.me.run with | .halted tag sound => writeImage s (imageOf s s.me .debugger none tag sound) | _ => s

/-- DEBUG_IMAGE_EDIT: refused with 0x0A01 for the PC or a header field while the image holds transit entries. -/
def execDebugImageEdit (launch serial : Nat) (edit : ImageEdit) (s : State) : Host.Outcome State Fault Refusal :=
  let no : State := { s with hostOut := s.hostOut ++ [.refused 0x0A01] }
  event (match coreOfTask s launch serial, savedOf s launch serial with
    | some c, _ =>
      if isHalted c ∧ headerEdit edit = true ∧ noTransit c = false then no else onCore c.id (fun t => rewriteHalted (editHalted edit t)) s
    | none, some v =>
      if v.cause ≠ .debugger then s
      else if headerEdit edit ∧ noTransit v.core = false then no
      else rewriteImage (updSaved s launch serial fun w => editImage w edit) launch serial
    | none, none => s)

/-! Evictions and releases (13 R273, 15 R308). -/

/-- A forced stop meets a task saved before: an eviction ends its handles and holds it; under a debugger halt it waits for the
release of the halt (18 R361). -/
def evictSaved (s : State) (v : Saved) : State :=
  let l := v.core.task.launch
  let n := v.core.task.serial
  if v.cause = .debugger ∧ v.release = false then
    updSaved s l n fun w => { w with core := { w.core with stops := insertStop .evicted w.core.stops } }
  else
    let t := asTask v.core.task (fun u => (handlesFrom v.core.regs 0).foldl killHandle u) s
    let t := updSaved t l n fun w =>
      { w with core := { w.core with regs := clearHandles w.core.regs 0 .stale }, cause := .evicted, release := false,
               onCore := none }
    rewriteImage t l n

/-- Every running task of a partition is asked to stop, and no saved one keeps the core that dispatch assigned to it (15 R308). -/
def stopAll (s : State) (part : Nat) (cause : SaveCause) : State :=
  let t := (allCores s).foldl (fun t c => if c.run != .idle && c.task.part == part then askStop t c.id cause else t) s
  { t with saved := t.saved.map fun v => if v.core.task.part = part then { v with onCore := none } else v }

/-- PARTITION_EVICTION. -/
def execPartitionEviction (part : Nat) (s : State) : Host.Outcome State Fault Refusal :=
  event (match partOf s part with
    | none => s
    | some _ =>
      let t := stopAll (updPart s part fun p => { p with evicted := true }) part .evicted
      (t.saved.filter fun v => v.core.task.part == part).foldl evictSaved t)

/-- The host's release of a cause: its saved tasks become ready, stops not yet applied are withdrawn. -/
def releaseCause (s : State) (part : Nat) (cause : SaveCause) : State :=
  let drop (c : Core) : Core :=
    if c.task.part = part ∧ c.run ≠ .idle then { c with stops := c.stops.filter fun x => x != cause } else c
  { s with me := drop s.me, others := s.others.map drop,
           saved := s.saved.map fun v =>
             if v.core.task.part = part then
               { v with core := drop v.core, release := v.release || v.cause == cause } else v }

/-- HOST_RELEASE: an evicted partition's tasks become ready; those of a suspended context stay held until the host acknowledges the current map
version for it, which releases them (15 R308, 20 R380). -/
def execHostRelease (part : Nat) (s : State) : Host.Outcome State Fault Refusal :=
  event (match partOf s part with
    | none => s
    | some p =>
      if p.evicted then releaseCause (updPart s part fun q => { q with evicted := false }) part .evicted else s)

/-! Kills by the host (13 R273). -/

/-- One task is killed, wherever it stands: on a core, saved, or bound and not dispatched (then it counts as cancelled,
13 R272). -/
def killTask (s : State) (launch serial : Nat) : State :=
  match coreOfTask s launch serial with
  | some c => onCore c.id killNow s
  | none =>
    match savedOf s launch serial with
    | some v => killSaved s v
    | none =>
      match launchOf s launch with
      | none => s
      | some l =>
        match l.bound.find? fun b => b.serial == serial with
        | none => s
        | some b =>
          let t := asTask { Task.none with part := l.part, launch := launch }
            (fun u => (b.handles.map Prod.snd).foldl killHandle u) s
          updLaunch t launch fun k => { k with bound := k.bound.filter fun x => x.serial != serial, cancelled := k.cancelled + 1 }

/-- A launch is killed: its running and saved tasks are killed, the rest cancelled. -/
def killLaunch (s : State) (launch : Nat) : State :=
  let t := (allCores s).foldl (fun u c =>
    if c.run != .idle && c.task.launch == launch then onCore c.id killNow u else u) s
  let t := (t.saved.filter fun v => v.core.task.launch == launch).foldl killSaved t
  cancelRest t launch

/-- HOST_KILL (13 R273). -/
def execHostKill (target : KillTarget) (s : State) : Host.Outcome State Fault Refusal :=
  event (match target with
    | .task l n => killTask s l n
    | .launch l => match launchOf s l with | some k => if k.done then s else killLaunch s l | none => s
    | .context p => killContext s p)

/-- HELD_LAUNCH_RESUME: a launch held by fault policy 2 dispatches again, its saved task first (15 R296). -/
def execHeldLaunchResume (launch : Nat) (s : State) : Host.Outcome State Fault Refusal :=
  event (updLaunch { s with saved := s.saved.map fun v =>
    if v.core.task.launch = launch ∧ v.cause = .policy2 then { v with release := true } else v } launch fun l => { l with held := false })

end Sys2Proof.Machine
end

