-- ==== Sys2Proof/Machine/Slicer.lean ====
section
/-! DEFINITION. The Sufen slicer with the rewriter: from the logical text of a kernel its four slice texts, their annotations and its
slice map, or the code that refuses the kernel (05 R100-R103, 14 R278, R282-R291, R423). -/

namespace Sys2Proof.Machine

/-! The logical text. -/

/-- A word of a logical text: its unit offset, its units, its bits, and its instruction, none where it is no instruction. -/
structure LWord where
  off   : Nat
  units : Nat
  raw   : Nat
  ins   : Option Instr
  deriving DecidableEq, Repr

/-- The words of a logical text in order; a last word that the text cuts off keeps the units it has (05 R81). -/
def logicalWords (fuel off : Nat) (text : List (BitVec 32)) : List LWord :=
  match fuel, text with
  | 0, _ => []
  | _, [] => []
  | n + 1, u :: rest =>
    let k := unitsOf u.toNat
    let us := text.take k
    { off := off, units := us.length, raw := us.foldl (fun a x => a * 2 ^ 32 + x.toNat) 0,
      ins := match decode (us.flatMap fun x => bytesOf 4 x.toNat) with | .ok r => some r.1 | .error _ => none }
      :: logicalWords n (off + k) (rest.drop (k - 1))

/-- The class of a word, from its first stored unit (02 R36). -/
def LWord.eng (w : LWord) : Engine := classEngine (w.raw / 2 ^ (32 * (w.units - 1)))

/-- The top byte of a C32 word; 0xFF for a longer one. -/
def LWord.op (w : LWord) : Nat := if w.units = 1 ∧ w.eng = .c then w.raw / 2 ^ 24 else 0xFF

/-- Bits [lo + n - 1 : lo] of a word. -/
def LWord.bits (w : LWord) (lo n : Nat) : Nat := w.raw / 2 ^ lo % 2 ^ n

/-- Whether a word is a LOOP. -/
def LWord.isLoop (w : LWord) : Bool := w.op == 0x54 || w.op == 0x55

/-- Whether a word is a BR. -/
def LWord.isBr (w : LWord) : Bool := w.op == 0x52

/-- Bits [lo + n - 1 : lo] of a number replaced. -/
def putBits (w lo n v : Nat) : Nat := w - w / 2 ^ lo % 2 ^ n * 2 ^ lo + v % 2 ^ n * 2 ^ lo

/-! What a logical text may not hold (02 R38, 05 R103). -/

/-- The semaphore a word names, if any. -/
def LWord.sem (w : LWord) : Option Nat :=
  if w.op = 0x60 ∨ w.op = 0x61 ∨ w.op = 0x62 then some (w.bits 16 8)
  else if w.op = 0x63 then some (w.bits 6 2 * 64 + w.bits 18 6)
  else if w.eng = .c ∧ w.units = 2 ∧ (w.bits 52 9 = 2 ∨ w.bits 52 9 = 3) then some (w.bits 44 8)
  else none

/-- Whether a word is a slice-only form (05 R103). A last word that the text cuts off is tested on the bits it has, so it may be refused here
(DESIGN CHOICE, log 63). -/
def LWord.sliceOnly (w : LWord) : Bool :=
  match w.eng with
  | .c => w.op == 0x56 || w.op == 0x57 || (w.op ≤ 0x12 && w.bits 0 6 != 0)
  | .m => w.bits 181 8 == 0x10 || w.bits 181 8 == 0x11 || w.bits 5 19 != 0
  | _ => w.bits 84 9 == 0x1E0 || w.bits 84 9 == 0x1E1 || w.bits 5 19 != 0

/-! Prepared targets: which PBR a BR takes its target from (14 R284). -/

/-- Which PBR word prepares which register at the entry of an instruction: (instruction, register, PBR), with register 8 for
"control comes here". -/
abbrev Prepared := List (Nat × Nat × Nat)

/-- Whether the word of an instruction is a PBR of t[n]. -/
def isPbr (w : Nat × Nat) (n : Nat) : Bool := w.2 / 2 ^ 24 == 0x50 && w.2 / 2 ^ 21 % 8 == n

/-- The instructions that may follow a word when its branch goes where the PBR words that reach it say. -/
def followsOf (ws : List (Nat × Nat)) (f : Prepared) (w : Nat × Nat) : List Nat :=
  let isBr := w.2 / 2 ^ 24 == 0x52 || w.2 / 2 ^ 24 == 0x53
  if isBr then
    (flowsTo (ws.filter fun x => x.2 / 2 ^ 24 != 0x50 && x.2 / 2 ^ 24 != 0x51) w.1)
      ++ f.filterMap fun e =>
        if e.1 = w.1 ∧ e.2.1 = w.2 / 2 ^ 13 % 8 then
          (ws.find? fun x => x.1 == e.2.2).map fun x => dispUnit x.1 (x.2 % 2 ^ 21)
        else none
  else flowsTo ws w.1

/-- One round: what holds at an instruction holds at those that follow it, but a PBR replaces the one before. -/
def prepareStep (ws : List (Nat × Nat)) (f : Prepared) : Prepared :=
  (f ++ f.flatMap fun e =>
    match ws.find? fun x => x.1 == e.1 with
    | none => []
    | some w =>
      let next := followsOf ws f w
      if e.2.1 = 8 then
        next.flatMap fun j => (j, 8, 0) :: ((List.range 8).filter (isPbr w)).map fun n => (j, n, w.1)
      else if isPbr w e.2.1 then [] else next.map fun j => (j, e.2)).eraseDups

/-- Rounds until nothing is added. -/
def prepareAll (fuel : Nat) (ws : List (Nat × Nat)) (f : Prepared) : Prepared :=
  match fuel with
  | 0 => f
  | n + 1 =>
    let g := prepareStep ws f
    if g.length = f.length then f else prepareAll n ws g

/-- What is prepared where in a text that has a BR or a CALL. -/
def preparedIn (text : List (BitVec 32)) : Prepared :=
  let ws := textWords text 0 0
  if ws.any fun w => w.2 / 2 ^ 24 == 0x52 || w.2 / 2 ^ 24 == 0x53 then prepareAll (9 * ws.length * ws.length + 1) ws [(0, 8, 0)] else []

/-- The PBR words that reach the BR or CALL at a unit. -/
def pbrsAt (f : Prepared) (w : LWord) : List Nat :=
  f.filterMap fun e => if e.1 = w.off ∧ e.2.1 = w.bits 13 3 then some e.2.2 else none

/-- Whether two different PBR words of its register can reach one BR (14 R284). -/
def ambiguousBr (ws : List LWord) (f : Prepared) : Bool := ws.any fun w => w.isBr && decide (1 < (pbrsAt f w).length)

/-- Whether a text has a word of the stream, vector or matrix class. -/
def hasSliceWork (ws : List LWord) : Bool := ws.any fun w => w.eng != .c

/-- Whether a kernel with work for another slice breaks a limit of slicing that its words show (14 R284). -/
def unsliceable (ws : List LWord) (f : Prepared) : Bool :=
  hasSliceWork ws && ((ws.any fun w => w.op == 0x51 || w.op == 0x53) || ambiguousBr ws f)

/-- Whether a text holds a return word whose COND3 is not always (18 R358). -/
def badReturn (text : List (BitVec 32)) (ws : List LWord) : Bool :=
  ws.any fun w => w.isBr && w.bits 13 3 == 7 && w.bits 16 3 != 0 && returnAt text w.off

/-! The control structure (08 R155, R156, 14 R284, R285). -/

/-- A logical LOOP by instruction numbers: the LOOP, the last instruction of its body, its counter. -/
structure LoopSpan where
  at_  : Nat
  last : Nat
  ctr  : Nat
  deriving DecidableEq, Repr

/-- Whether an instruction lies in a loop's body. -/
def LoopSpan.holds (l : LoopSpan) (i : Nat) : Bool := l.at_ < i && i ≤ l.last

/-- The number of the instruction whose last unit stands at a unit offset, at or after number `k`. -/
def lastUnitAt (ws : List LWord) (k off : Nat) : Option Nat :=
  ((ws.zipIdx.filter fun p => k ≤ p.2 && p.1.off + p.1.units - 1 == off).head?).map Prod.snd

/-- The loops of a text; a LOOP whose END is no last unit faults where it is reached and starts none (08 R155). -/
def loopSpans (ws : List LWord) : List LoopSpan :=
  ws.zipIdx.filterMap fun p =>
    if p.1.isLoop then
      (lastUnitAt ws (p.2 + 1) (p.1.off + 1 + p.1.bits 0 14)).map fun e => { at_ := p.2, last := e, ctr := p.1.bits 22 2 }
    else none

/-- A BR by instruction numbers: the BR and its target, none where that is no instruction. -/
structure BrSpan where
  at_    : Nat
  target : Option Nat
  deriving DecidableEq, Repr

/-- The branches of a text but return words, which have no replica (18 R358). A BR that no PBR reaches finds its register as the
task's start left it, 0 (03 R46). -/
def brSpans (text : List (BitVec 32)) (ws : List LWord) (f : Prepared) : List BrSpan :=
  ws.zipIdx.filterMap fun p =>
    if p.1.isBr ∧ (p.1.bits 13 3 = 7 ∧ returnAt text p.1.off = true) = false then
      let unit := match (pbrsAt f p.1).head? with
        | some b => match ws.find? fun w => w.off == b with | some w => dispUnit b (w.bits 0 21) | none => 0
        | none => 0
      some { at_ := p.2, target := ((ws.zipIdx.find? fun q => q.1.off == unit).map Prod.snd) }
    else none

/-- The number of the instruction whose first unit stands where a PBR or a CROPEN says. -/
def labelAt (ws : List LWord) (w : LWord) : Option Nat :=
  (ws.zipIdx.find? fun q => q.1.off == dispUnit w.off (w.bits 0 21)).map Prod.snd

/-- The instructions control enters: where the PBR words that reach a BR or a CALL lead, and the handlers that CROPEN words name (14 R290,
19 R364). Where a PBRX stands a branch may lead to any instruction (18 R358; DESIGN CHOICE, log 8). -/
def entryPoints (ws : List LWord) (f : Prepared) : List Nat :=
  if ws.any fun w => w.op == 0x51 then List.range ws.length
  else ws.flatMap fun w =>
    if w.op = 0x68 then (labelAt ws w).toList
    else if w.op = 0x52 ∨ w.op = 0x53 then
      (pbrsAt f w).filterMap fun b => (ws.find? fun x => x.off == b).bind (labelAt ws)
    else []

/-- A kernel's text with its control structure. -/
structure Shape where
  ws    : List LWord
  slots : List SlotDecl
  loops : List LoopSpan
  brs   : List BrSpan
  entry : List Nat
  cuts  : List Nat
  deriving DecidableEq, Repr

/-- Number of instructions. -/
def Shape.size (k : Shape) : Nat := k.ws.length

/-- The word of an instruction. -/
def Shape.word (k : Shape) (i : Nat) : LWord := k.ws.getD i { off := 0, units := 1, raw := 0, ins := none }

/-- Whether a slice holds an instruction of the kernel; the control slice always stands (14 R284). -/
def Shape.used (k : Shape) (e : Engine) : Bool := e == .c || k.ws.any fun w => w.eng == e

/-- Whether control reaches an instruction otherwise than from the one before it: a target or a handler, an instruction after a
branch, or a body of a loop that crosses another. -/
def Shape.joint (k : Shape) (i : Nat) : Bool :=
  k.entry.contains i || (k.brs.any fun b => b.target == some i || b.at_ + 1 == i) || (k.ws.getD (i - 1) (k.word i)).isBr && 0 < i
    || k.loops.any fun l => (l.at_ + 1 == i || l.last + 1 == i)
        && k.loops.any fun m => (l.at_ < m.at_ && m.at_ ≤ l.last && l.last < m.last) || (m.at_ < l.at_ && l.at_ ≤ m.last && m.last < l.last)

/-- Whether an instruction is a point of 14 R285 other than a TEXIT, or a handler that a CROPEN names (19 R364). -/
def Shape.point (k : Shape) (i : Nat) : Bool :=
  i == 0 || (k.loops.any fun l => l.at_ + 1 == i || l.last + 1 == i) || (k.brs.any fun b => b.target == some i)
    || k.entry.contains i || (0 < i && ((k.word (i - 1)).isBr || (k.word (i - 1)).op == 0x53))

/-- Whether an instruction begins a segment (14 R290); the end of the text counts as one. -/
def Shape.opens (k : Shape) (i : Nat) : Bool := k.point i || i == k.size || k.cuts.contains (k.word i).off

/-- The last instruction at or before `i` that begins a segment. -/
def Shape.leader (k : Shape) (i : Nat) : Nat := ((List.range (i + 1)).filter k.opens).getLastD 0

/-- The instructions that may follow one. -/
def Shape.next (k : Shape) (i : Nat) : List Nat :=
  let w := k.word i
  (if w.op = 0x58 ∨ (w.isBr ∧ w.bits 16 3 = 0) then [] else [i + 1])
    ++ (k.brs.filterMap fun b => if b.at_ = i then b.target else none)
    ++ (k.loops.filterMap fun l => if l.last = i then some (l.at_ + 1) else if l.at_ = i then some (l.last + 1) else none)

/-- The instructions reached from `todo`. -/
def Shape.reach (k : Shape) (fuel : Nat) (todo seen : List Nat) : List Nat :=
  match fuel with
  | 0 => seen
  | f + 1 =>
    match todo with
    | [] => seen
    | i :: rest => if seen.contains i then k.reach f rest seen else k.reach f (k.next i ++ rest) (i :: seen)

/-- Whether control can go from `a` to `b`. -/
def Shape.leads (k : Shape) (a b : Nat) : Bool := (k.reach ((k.size + 2) * (k.size + 2)) (k.next a) []).contains b

/-! Operands (14 R282, R286). -/

/-- The lowest bits of the fields that may name x sources, in the order of the sources. -/
def sourceLows (e : Engine) : List Nat := match e with | .s => [78, 72, 66] | .v => [68, 60, 52] | _ => []

/-- Whether a word is one the logical form admits. -/
def LWord.sound (w : LWord) : Bool := match w.ins with | some i => i.wfIn false | none => false

/-- Whether a word reads ck into its XA (05 R97). -/
def LWord.isCkRead (w : LWord) : Bool := match w.ins with | some (.ckrdRead _) => true | _ => false

/-- The x register that the source field at `lo` names: any field but a zero one of a stream word, a broadcast of a vector word. -/
def LWord.sourceAt (w : LWord) (lo : Nat) : Option Nat :=
  match w.eng with
  | .s => if w.bits lo 6 = 0 ∨ w.isCkRead = true then none else some (w.bits lo 6)
  | .v => if w.bits (lo + 6) 2 = 2 then some (w.bits lo 6) else none
  | _ => none

/-- The x registers a stream or vector word reads, each once, in the order of its fields. -/
def LWord.sources (w : LWord) : List Nat :=
  if w.sound then ((sourceLows w.eng).filterMap w.sourceAt).eraseDups else []

/-- The x register a stream, vector or matrix word writes, with its field's lowest bit. -/
def LWord.dest (w : LWord) : Option (Nat × Nat) :=
  if w.sound = false then none
  else match w.eng with
    | .c => none
    | .s => if w.isCkRead then some (w.bits 78 6, 78) else none
    | .v => if w.bits 82 2 = 2 then some (w.bits 76 6, 76) else none
    | .m => match w.ins with | some (.mflag _) => some (w.bits 64 6, 64) | _ => none

/-- Entries a word pops from or pushes onto a channel: one for each repetition of a vector word (09 R164). -/
def LWord.entries (w : LWord) : Nat := if w.eng = .v then w.bits 32 4 + 1 else 1

/-! Channels (14 R423). A word that reads several registers takes a channel for each, since namings of one channel in one word
share one entry (03 R53) (DESIGN CHOICE, log 8). -/

/-- The kinds of traffic: the `j`-th register read by a word of a slice, the registers written by one, the counts of one. -/
inductive Traffic where
  | read (e : Engine) (j : Nat)
  | write (e : Engine)
  | count (e : Engine)
  deriving DecidableEq, Repr

/-- The slices that have a replica of the kernel's control structure, in order. -/
def Shape.others (k : Shape) : List Engine := [.s, .v, .m].filter k.used

/-- The traffic pushed at an instruction, in order. -/
def Shape.traffic (k : Shape) (i : Nat) : List Traffic :=
  let w := k.word i
  ((List.range w.sources.length).map (.read w.eng)) ++ (if w.dest.isSome then [.write w.eng] else [])
    ++ if k.loops.any fun l => l.at_ == i then k.others.map .count else []

/-- The kernel's traffic by channel: kinds in the order of their first push. -/
def Shape.channels (k : Shape) : List Traffic := ((List.range k.size).flatMap k.traffic).eraseDups

/-- The channel of a kind of traffic. -/
def chanNo (chs : List Traffic) (t : Traffic) : Nat := chs.idxOf t

/-! Rewriting a word's operands (14 R282). -/

/-- The channel code of a register in a source field: a stream word's pop (05 R96), or a vector word's operand (05 R91). -/
def channelCode (e : Engine) (c : Nat) : Nat := match e with | .s => 32 + c | _ => c

/-- A word with its x operands replaced by channel codes. A vector word that only slice text would admit keeps a nonzero reserved
bit where it names an x register, so that it faults as it does in logical form. -/
def LWord.rewrite (w : LWord) (chs : List Traffic) : Nat :=
  let r := (sourceLows w.eng).foldl (fun a lo =>
    match w.sourceAt lo with
    | some x =>
      if w.sound then putBits a lo 6 (channelCode w.eng (chanNo chs (.read w.eng (w.sources.idxOf x))))
      else if w.eng = .v then putBits a lo 6 63 else a
    | none => a) w.raw
  match w.dest with
  | some d => putBits r d.2 6 (channelCode w.eng (chanNo chs (.write w.eng)))
  | none => if w.sound = false ∧ w.eng = .v ∧ w.bits 82 2 = 2 then putBits r 76 6 63 else r

/-! Storage named by words (10 R189, R195, 14 R288). -/

/-- An access of an instruction to a slot stage (slot, stage) or an accumulator. -/
inductive Store where
  | stage (slot stage : Nat)
  | acc (n : Nat)
  deriving DecidableEq, Repr

/-- Whether rows of scratch meet the bytes [lo, hi). -/
def rowsMeet (x : Nat × Nat × Nat × Nat) (lo hi : Nat) : Bool :=
  (List.range x.2.2.1).any fun m => x.1 + x.2.1 * m < hi && lo < x.1 + x.2.1 * m + x.2.2.2

/-- The declared stages that rows of scratch overlap. -/
def stagesMet (slots : List SlotDecl) (xs : List (Nat × Nat × Nat × Nat)) : List Store :=
  slots.flatMap fun d => (List.range d.stages).filterMap fun g =>
    let lo := d.off + g * d.size
    if xs.any fun x => rowsMeet x lo (lo + d.size) then some (.stage d.slot g) else none

/-- The rows of an MLOAD or MSTORE (10 R197). -/
def moveRegion (w : MWord) : Nat × Nat × Nat × Nat :=
  (64 * w.aoff.toNat, 64 * w.apitch.toNat, 64, 8 * fmtWidth w.afmt.toNat)

/-- What a word of the matrix class reads and writes of tile steps. -/
def stepUses (slots : List SlotDecl) (w : MWord) (half : Bool) : List (Store × Bool × Bool) :=
  ((stagesMet slots ((List.range (w.rep.toNat + 1)).flatMap (repRegions w (mmaStep w half)))).map fun t => (t, true, false))
    ++ (if w.asrc = 1 then [(.acc (w.aoff.toNat / 1024), true, false)] else [])
    ++ [(.acc w.cidx.toNat, w.acc2 != 0, true)]

/-- The stages and accumulators an instruction reads (first flag) and writes (second). -/
def LWord.uses (slots : List SlotDecl) (w : LWord) : List (Store × Bool × Bool) :=
  match w.ins with
  | some (.sld v) => [(.stage v.slot.toNat v.stage.toNat, false, true)]
  | some (.sst v) => [(.stage v.slot.toNat v.stage.toNat, true, false)]
  | some (.vaccrd v) => [(.acc (v.sa.toNat % 16), true, false)]
  | some (.vaccwr v) => [(.acc (v.dst.toNat % 16), false, true)]
  | some (.mma v) => stepUses slots v false
  | some (.mmas v) => stepUses slots v false
  | some (.mma16 v) => stepUses slots v true
  | some (.mzero v) => [(.acc v.cidx.toNat, false, true)]
  | some (.mload v) => (stagesMet slots [moveRegion v]).map (fun t => (t, true, false)) ++ [(.acc v.cidx.toNat, false, true)]
  | some (.mstore v) => (stagesMet slots [moveRegion v]).map (fun t => (t, false, true)) ++ [(.acc v.cidx.toNat, true, false)]
  | some (.mscale v) => [(.acc v.cidx.toNat, true, true)]
  | some (.mflag v) => [(.acc v.cidx.toNat, true, false)]
  | _ => []

/-- A word's access to one store: its number, its slice, whether it writes. -/
structure Access where
  idx : Nat
  eng : Engine
  wr  : Bool
  deriving DecidableEq, Repr

/-- The stores that words of the kernel name. -/
def Shape.stores (k : Shape) : List Store := (k.ws.flatMap fun w => (w.uses k.slots).map Prod.fst).eraseDups

/-- The accesses to a store, in logical order. -/
def Shape.accesses (k : Shape) (t : Store) : List Access :=
  k.ws.zipIdx.filterMap fun p =>
    let us := (p.1.uses k.slots).filter fun u => u.1 == t
    if us.isEmpty then none else some { idx := p.2, eng := p.1.eng, wr := us.any fun u => u.2.2 }

/-- Whether two accesses depend on one another: classes differ and one of them writes (14 R288). -/
def depend (a b : Access) : Bool := a.eng != b.eng && (a.wr || b.wr)

/-! Posts and waits (14 R288). -/

/-- A post or a wait of a pair: on which slice, at which instruction's position, whether on a filler before the word of that position
instead of on the word, and whether a post is at the frontier. -/
structure Mark19 where
  eng  : Engine
  idx  : Nat
  pre  : Bool
  post : Bool
  late : Bool
  deriving DecidableEq, Repr

/-- A pair that takes one semaphore: a dependence with its marks, or the first or second pair of the PFENCE at an instruction
(14 R289). -/
inductive Pair where
  | dep (marks : List Mark19)
  | fence (idx : Nat) (back : Bool)
  deriving DecidableEq, Repr

/-- The innermost loop whose body holds both instructions. -/
def Shape.common (k : Shape) (a b : Nat) : Option LoopSpan :=
  (k.loops.filter fun l => l.holds a && l.holds b).foldl
    (fun best l => match best with | none => some l | some m => if m.at_ < l.at_ then some l else some m) none

/-- The outermost loop whose body holds `a` and not `b`. -/
def Shape.outer (k : Shape) (a b : Nat) : Option LoopSpan :=
  (k.loops.filter fun l => l.holds a && !l.holds b).foldl
    (fun best l => match best with | none => some l | some m => if l.at_ < m.at_ then some l else some m) none

/-- Where the post for an access stands towards one outside its loop: on the word, or on the filler after the loop's end (DESIGN CHOICE,
log 8). -/
def Shape.postPlace (k : Shape) (a b : Nat) : Nat × Bool :=
  match k.outer a b with | none => (a, false) | some l => (l.last + 1, true)

/-- Where the wait for an access stands: on the word, or on the replica of the loop that does not enclose the producer. -/
def Shape.waitPlace (k : Shape) (a b : Nat) : Nat := match k.outer b a with | none => b | some l => l.at_

/-- Whether control goes from a post's place to a wait's place in logical order only. -/
def Shape.straight (k : Shape) (p w : Nat) : Bool := (List.range (w + 1)).all fun i => !(p < i && k.joint i)

/-- Whether a loop's passes follow one another and nothing else enters or leaves its body; the instruction after its end is
reached only from there. -/
def Shape.plain (k : Shape) (l : LoopSpan) : Bool :=
  k.straight l.at_ (l.last + 1) && !k.loops.any fun m => m.last == l.last && m.at_ < l.at_

/-- The pair of a dependence within one pass. -/
def Shape.forwardPair (k : Shape) (a b : Access) : Pair :=
  let p := k.postPlace a.idx b.idx
  .dep [{ eng := a.eng, idx := p.1, pre := p.2, post := true, late := b.wr },
        { eng := b.eng, idx := k.waitPlace a.idx b.idx, pre := false, post := false, late := false }]

/-- The pair of a dependence that a loop carries into its next pass: primed on the waiting slice's replica, balanced after the loop. -/
def Shape.carriedPair (k : Shape) (l : LoopSpan) (a b : Access) : Pair :=
  let p := k.postPlace a.idx b.idx
  .dep [{ eng := b.eng, idx := l.at_, pre := false, post := true, late := false },
        { eng := a.eng, idx := p.1, pre := p.2, post := true, late := b.wr },
        { eng := b.eng, idx := k.waitPlace a.idx b.idx, pre := false, post := false, late := false },
        { eng := b.eng, idx := l.last + 1, pre := true, post := false, late := false }]

/-- The pair of a dependence along paths that branches make: the wait stands on the consumer, the post on a filler where the consumer's segment
begins, which every path to it passes once (DESIGN CHOICE, log 8). -/
def Shape.leaderPair (k : Shape) (a b : Access) : Pair :=
  let d := k.leader b.idx
  .dep [{ eng := a.eng, idx := d, pre := true, post := true, late := b.wr },
        { eng := b.eng, idx := b.idx, pre := false, post := false, late := false }]

/-- The pairs an access needs towards the accesses of one class: the last one before it, and the last one of each loop that comes round
to it. -/
def Shape.pairsOf (k : Shape) (l : List Access) (b : Access) (e : Engine) : List Pair :=
  let as_ := l.filter fun a => a.eng == e && depend a b
  let near (a : Access) := k.straight (k.postPlace a.idx b.idx).1 (k.waitPlace a.idx b.idx)
  let before := as_.filter fun a => a.idx < b.idx
  let fwd := match before.getLast? with
    | none => []
    | some a =>
      if near a then
        if l.any fun c => c.eng == b.eng && depend a c && a.idx < c.idx && c.idx < b.idx then [] else [k.forwardPair a b]
      else if before.any fun a => k.leads a.idx b.idx then [k.leaderPair a b] else []
  let after := as_.filter fun a => b.idx < a.idx
  let back := after.flatMap fun a =>
    match k.common a.idx b.idx with
    | some g =>
      if k.plain g then
        let last := (after.filter fun c => k.common c.idx b.idx == some g).getLast?
        if last ≠ some a then []
        else if l.any fun c => g.at_ < c.idx && c.idx < b.idx && ((c.eng == e && depend c b) || (c.eng == b.eng && depend a c)) then []
        else if (k.postPlace a.idx b.idx).1 ≤ g.last then [k.carriedPair g a b] else [k.leaderPair a b]
      else if k.leads a.idx b.idx then [k.leaderPair a b] else []
    | none => if k.leads a.idx b.idx then [k.leaderPair a b] else []
  fwd ++ back

/-- The first word of a pair, by instruction number. -/
def Pair.first (p : Pair) : Nat :=
  match p with | .dep ms => (ms.map Mark19.idx).foldl min ((ms.map Mark19.idx).headD 0) | .fence i _ => i

/-- A pair put behind those whose first word is no later. -/
def insertPair (p : Pair) (l : List Pair) : List Pair :=
  match l with | [] => [p] | q :: rest => if p.first < q.first then p :: l else q :: insertPair p rest

/-- The kernel's pairs, in the logical order of their first words; the `n`-th takes s[192 + n]. Of pairs with one first word those of an earlier
store and access come first, a PFENCE's last (DESIGN CHOICE, log 8). -/
def Shape.pairs (k : Shape) : List Pair :=
  let deps := k.stores.flatMap fun t => (k.accesses t).flatMap fun b => [Engine.s, .v, .m].flatMap (k.pairsOf (k.accesses t) b)
  let fences := if k.used .s then
      k.ws.zipIdx.flatMap fun p => if p.1.op = 0x4F then [.fence p.2 false, .fence p.2 true] else []
    else []
  (deps.eraseDups ++ fences).foldl (fun l p => insertPair p l) []

/-- The semaphores posted or waited for at a place of a slice, in order, with whether a post is at the frontier. -/
def marksAt (ps : List Pair) (e : Engine) (i : Nat) (pre post : Bool) : List (Nat × Bool) :=
  ps.zipIdx.flatMap fun p => match p.1 with
    | .dep ms => ms.filterMap fun m =>
        if m.eng = e ∧ m.idx = i ∧ m.pre = pre ∧ m.post = post then some (192 + p.2, m.late) else none
    | .fence _ _ => []

/-- The semaphore of a PFENCE's pair. -/
def fenceSem (ps : List Pair) (i : Nat) (back : Bool) : Nat := 192 + ps.idxOf (.fence i back)

/-! The words of a slice (14 R283-R289). -/

/-- Where a flow word leads: round a body that ends with an instruction, or to an instruction. -/
inductive Lead where
  | straight
  | body (last : Nat)
  | to (target : Option Nat)
  deriving DecidableEq, Repr

/-- A placed word: the number of the instruction at whose position it stands, its bits but for a displacement or BODY14, its
units, whether it is FILL, where it leads. -/
structure Placed where
  idx   : Nat
  raw   : Nat
  units : Nat
  fill  : Bool
  lead  : Lead
  deriving DecidableEq, Repr

/-- Units of a word of a slice. -/
def engUnits (e : Engine) : Nat := match e with | .c => 1 | .m => 6 | _ => 3

/-- The NOP of a slice. -/
def nopRaw (e : Engine) : Nat :=
  match e with
  | .c => 0x5B * 2 ^ 24
  | .s => 4 * 2 ^ 93 + 0x1E3 * 2 ^ 84
  | .v => 5 * 2 ^ 93 + 0x1E3 * 2 ^ 84
  | .m => 6 * 2 ^ 189 + 0x12 * 2 ^ 181

/-- SYNC19 of a wait and a post, in place (05 R93). -/
def syncRaw (wait : Option (Nat × Bool)) (post : Option (Nat × Bool)) : Nat :=
  32 * ((match wait with | some w => 2 ^ 18 + w.1 * 2 ^ 10 | none => 0)
    + match post with | some p => 2 ^ 9 + (if p.2 then 2 ^ 8 else 0) + p.1 | none => 0)

/-- A filler with a wait or a post; a post of the stream slice is a marked SNOP's, which stands for every older command (14 R289). -/
def filler (e : Engine) (i : Nat) (wait post : Option (Nat × Bool)) : Placed :=
  { idx := i, raw := nopRaw e + syncRaw wait post + (if e = .s ∧ post.isSome = true then 1 else 0), units := engUnits e, fill := true,
    lead := .straight }

/-- The replica of a LOOP or a BR in a slice, or the slice's own word. -/
def Shape.ownWord (k : Shape) (chs : List Traffic) (e : Engine) (i : Nat) : Option Placed :=
  let w := k.word i
  let flowLow := match e with | .m => 157 | _ => 60
  let flowRaw (op v : Nat) := nopRaw e - (match e with | .m => 0x12 * 2 ^ 181 | _ => 0x1E3 * 2 ^ 84)
    + op * 2 ^ (match e with | .m => 181 | _ => 84) + v * 2 ^ flowLow
  if w.eng = e then some { idx := i, raw := w.rewrite chs, units := w.units, fill := false, lead := .straight }
  else
    match k.loops.find? fun l => l.at_ == i with
    | some l => some { idx := i, raw := flowRaw (match e with | .m => 0x10 | _ => 0x1E0) (l.ctr * 2 ^ 22 + chanNo chs (.count e) * 2 ^ 18),
                       units := engUnits e, fill := false, lead := .body l.last }
    | none =>
      match k.brs.find? fun b => b.at_ == i with
      | some b =>
        let depth := (k.loops.filter fun l => l.holds i).length
        some { idx := i, raw := flowRaw (match e with | .m => 0x11 | _ => 0x1E1) (depth % 4 * 2 ^ 22 + 2 ^ 21),
               units := engUnits e, fill := false, lead := .to b.target }
      | none => none

/-- The words of the stream, vector or matrix slice at the position of an instruction: posts and waits that stand before it, the
word with its own, further ones beside it; a bare filler where the point needs one and has none. -/
def Shape.wordsAt (k : Shape) (chs : List Traffic) (ps : List Pair) (e : Engine) (i : Nat) : List Placed :=
  let posts := (marksAt ps e i true true).map fun p => filler e i none (some p)
  let waits := (marksAt ps e i true false).map fun w => filler e i (some w) none
  let fence := if e = .s ∧ (k.word i).op = 0x4F then
      [filler e i none (some (fenceSem ps i false, true)), filler e i (some (fenceSem ps i true, false)) none] else []
  let ws := marksAt ps e i false false
  let qs := marksAt ps e i false true
  let own := if i < k.size then k.ownWord chs e i else none
  let more := ws.tail.map fun w => filler e i (some w) none
  let extra := qs.tail.map fun p => filler e i none (some p)
  let ahead := posts ++ waits ++ fence ++ more ++ match own with | some o => if o.lead = .straight then [] else extra | none => []
  let point := k.point i || i == k.size || (k.word i).op == 0x58
  let entry := if point && ahead.isEmpty && (i == k.size || (k.word i).eng != e) then [filler e i none none] else []
  entry ++ ahead ++ match own with
    | none => []
    | some o => { o with raw := o.raw + syncRaw ws.head? qs.head? } :: if o.lead = .straight then extra else []

/-- Whether the position after an instruction is reached otherwise too, or ends the text. -/
def Shape.rejoined (k : Shape) (i : Nat) : Bool := k.joint (i + 1) || (k.loops.any fun l => l.last == i) || i + 1 == k.size

/-- The joins of the control slice that pop what an instruction's word pushed for an x register (14 R286), at a position. -/
def Shape.popJoins (k : Shape) (chs : List Traffic) (i pos : Nat) : List Placed :=
  match (k.word i).dest with
  | none => []
  | some d => List.replicate (k.word i).entries
      { idx := pos, raw := 0x03 * 2 ^ 24 + d.1 * 2 ^ 18 + 48 + chanNo chs (.write (k.word i).eng), units := 1, fill := true, lead := .straight }

/-- The words of the control slice at the position of an instruction: pops of what the word before pushed; pushes of what a
word of another slice reads, the decision of a BR, the wait of a PFENCE; the word itself; the post of a PFENCE; and where the
position after is reached otherwise too, the pops of what this instruction's word pushed. Where no slice but C stands, a BR takes no decision
push (DESIGN CHOICE, log 8). -/
def Shape.controlAt (k : Shape) (chs : List Traffic) (ps : List Pair) (i : Nat) : List Placed :=
  let w := k.word i
  let c (raw : Nat) : Placed := { idx := i, raw := raw, units := 1, fill := true, lead := .straight }
  let pops := if 0 < i ∧ k.rejoined (i - 1) = false then k.popJoins chs (i - 1) i else []
  let pushes := w.sources.zipIdx.flatMap fun x =>
    List.replicate w.entries (c (0x03 * 2 ^ 24 + x.1 * 2 ^ 12 + 32 + chanNo chs (.read w.eng x.2)))
  let br := k.brs.any fun b => b.at_ == i
  let depth := (k.loops.filter fun l => l.holds i).length
  let dpush := if br && !k.others.isEmpty then [c (0x56 * 2 ^ 24 + w.bits 16 8 * 2 ^ 16 + depth % 4 * 2 ^ 14)] else []
  let fence := w.op == 0x4F && k.used .s
  let wait := if fence then [c (0x60 * 2 ^ 24 + fenceSem ps i false * 2 ^ 16 + 1)] else []
  let own : List Placed := if w.eng = .c then
      [{ idx := i, raw := w.raw, units := w.units, fill := false,
         lead := match k.loops.find? fun l => l.at_ == i with | some l => .body l.last | none => .straight }] else []
  let post := if fence then [c (0x62 * 2 ^ 24 + fenceSem ps i true * 2 ^ 16 + 1)] else []
  let late := if k.rejoined i then k.popJoins chs i i else []
  let all := pops ++ pushes ++ dpush ++ wait ++ own ++ post ++ late
  if (k.point i || w.op == 0x58) && w.eng != .c && all.isEmpty then [c (nopRaw .c)] else all

/-- Gaps longer than 16,383 split with FILL words (14 R285). -/
def splitGaps (fuel : Nat) (e : Engine) (l : List Placed) : List Placed :=
  match fuel, l with
  | f + 1, a :: b :: rest =>
    if a.idx + 16383 < b.idx then a :: splitGaps f e (filler e (a.idx + 16383) none none :: b :: rest)
    else a :: splitGaps f e (b :: rest)
  | _, l => l

/-- The words of a slice in order. Another slice's text that does not end with a TEXIT's filler takes one for the position after the
text, since it never fetches past its last word (14 R280) (DESIGN CHOICE, log 8). -/
def Shape.slice (k : Shape) (chs : List Traffic) (ps : List Pair) (e : Engine) : List Placed :=
  if e = .c then splitGaps (2 * k.size + 2) e ((List.range k.size).flatMap (k.controlAt chs ps))
  else if k.used e = false then []
  else
    let n := if (k.word (k.size - 1)).op = 0x58 then k.size else k.size + 1
    let l := (List.range n).flatMap (k.wordsAt chs ps e)
    splitGaps (l.length + k.size + 2) e l

/-- The units before each word, with the word. -/
def offsets (off : Nat) (l : List Placed) : List (Nat × Placed) :=
  match l with | [] => [] | p :: rest => (off, p) :: offsets (off + p.units) rest

/-- A word with its displacement or BODY14, in units of its slice's text (14 R282). -/
def resolveLead (e : Engine) (l : List (Nat × Placed)) (off : Nat) (p : Placed) : Nat :=
  let low := match e with | .c => 0 | .m => 157 | _ => 60
  match p.lead with
  | .straight => p.raw
  | .body last =>
    let stop := (((l.filter fun q => off < q.1 && q.2.idx ≤ last).getLast?).map fun q => q.1 + q.2.units - 1).getD off
    putBits p.raw low 14 (stop - (off + p.units))
  | .to target =>
    let dest := ((target.bind fun t => l.find? fun q => t ≤ q.2.idx).map Prod.fst).getD off
    p.raw + ((((dest : Int) - (off : Int)) % 2 ^ 21).toNat) * 2 ^ low

/-- A word of a finished slice text: its unit offset, its instruction number, its units, its annotation. -/
structure SliceWord where
  off   : Nat
  idx   : Nat
  units : List (BitVec 32)
  ann   : BitVec 16
  deriving DecidableEq, Repr

/-- The annotation of a word (05 R100): END where the segment's words end, FILL, DELTA to the next word, 0 where the slice ends. -/
def Shape.annotate (k : Shape) (p : Placed) (next : Option Placed) : BitVec 16 :=
  let texit := p.idx == k.size || (k.word p.idx).op == 0x58
  match next with
  | none => BitVec.ofNat 16 (2 ^ 15 + (if p.fill then 2 ^ 14 else 0) + if texit then 0 else k.size - p.idx)
  | some q =>
    let ends := p.idx != q.idx && ((List.range (q.idx - p.idx)).any fun d => k.opens (p.idx + d + 1) || texit)
    BitVec.ofNat 16 ((if ends then 2 ^ 15 else 0) + (if p.fill then 2 ^ 14 else 0) + if texit then 0 else q.idx - p.idx)

/-- The stored units of a word: the highest first (05 R80). -/
def rawUnits (n raw : Nat) : List (BitVec 32) := (List.range n).map fun j => BitVec.ofNat 32 (raw / 2 ^ (32 * (n - 1 - j)))

/-- The finished words of a slice. -/
def Shape.finish (k : Shape) (e : Engine) (l : List Placed) : List SliceWord :=
  let os := offsets 0 l
  (os.zip ((l.tail.map some) ++ [none])).map fun p =>
    { off := p.1.1, idx := p.1.2.idx, units := rawUnits p.1.2.units (resolveLead e os p.1.1 p.1.2), ann := k.annotate p.1.2 p.2 }

/-! The slice map (14 R290, R291). -/

/-- The field of a resume row for a slice: the distance to its next word at or after an instruction, above that word's offset. -/
def resumeField (l : List SliceWord) (i : Nat) : BitVec 32 :=
  match l.find? fun w => i ≤ w.idx with
  | some w => BitVec.ofNat 32 ((w.idx - i) * 2 ^ 18 + w.off)
  | none => BitVec.allOnes 32

/-- The resume table: a row for each unit; one that begins no instruction names no word. -/
def Shape.resumeRows (k : Shape) (sl : Engine → List SliceWord) : List ResumeRow :=
  k.ws.zipIdx.flatMap fun p =>
    { c := resumeField (sl .c) p.2, s := resumeField (sl .s) p.2, v := resumeField (sl .v) p.2, m := resumeField (sl .m) p.2 }
      :: List.replicate (p.1.units - 1)
        { c := BitVec.allOnes 32, s := BitVec.allOnes 32, v := BitVec.allOnes 32, m := BitVec.allOnes 32 }

/-- The segments: first instruction and the one after the last. -/
def Shape.segments (k : Shape) : List (Nat × Nat) :=
  let starts := (List.range k.size).filter k.opens
  starts.zip (starts.tail ++ [k.size])

/-- Units before an instruction. -/
def Shape.unitOf (k : Shape) (i : Nat) : Nat :=
  if i < k.size then (k.word i).off else (k.ws.getLast?.map fun w => w.off + w.units).getD 0

/-- Where the words a slice issues in a segment end: at its end, or behind a TEXIT, where the slice ends. -/
def Shape.stopOf (k : Shape) (g : Nat × Nat) : Nat :=
  match (List.range k.size).find? fun i => g.1 ≤ i && i < g.2 && (k.word i).op == 0x58 with
  | some i => i + 1
  | none => g.2

/-- The row of a segment: where it stands, and per slice the count of the words it issues there and their signature. -/
def Shape.segRow (k : Shape) (sl : Engine → List SliceWord) (g : Nat × Nat) : SegRow :=
  let here (e : Engine) := (sl e).filter fun w => g.1 ≤ w.idx && w.idx < k.stopOf g
  { start := 4 * k.unitOf g.1, len := k.unitOf g.2 - k.unitOf g.1,
    count := [Engine.c, .s, .v, .m].map fun e => (here e).length,
    sig := [Engine.c, .s, .v, .m].map fun e =>
      crc32c 0 ((here e).flatMap fun w => w.units.flatMap fun u => bytesOf 4 u.toNat) }

/-- The loop table: per LOOP its PC and the channels of its replicas. -/
def Shape.loopRows (k : Shape) (chs : List Traffic) : List (Nat × BitVec 32) :=
  k.ws.zipIdx.filterMap fun p =>
    if p.1.isLoop then
      let field (e : Engine) (lo : Nat) : Nat :=
        if k.used e && k.loops.any fun l => l.at_ == p.2 then (16 + chanNo chs (.count e)) * 2 ^ lo else 0
      some (4 * p.1.off, BitVec.ofNat 32 (field .s 0 + field .v 5 + field .m 10))
    else none

/-- The granules of 2 KiB of a slice text, each with the number of the instruction at which the slice first fetches it
(14 R279). -/
def granulesOf (e : Engine) (l : List SliceWord) : List (Nat × Engine × Nat) :=
  let n := (l.map fun w => w.units.length).sum
  (List.range ((n + 511) / 512)).map fun g =>
    (((l.find? fun w => 512 * g < w.off + w.units.length).map SliceWord.idx).getD 0, e, g)

/-- A granule put behind those that are fetched no later; of granules first fetched at one instruction C's comes first, then S's, V's and M's
(DESIGN CHOICE, log 8). -/
def insertGranule (x : Nat × Engine × Nat) (l : List (Nat × Engine × Nat)) : List (Nat × Engine × Nat) :=
  match l with | [] => [x] | y :: rest => if x.1 < y.1 then x :: l else y :: insertGranule x rest

/-- The control structure of a kernel. -/
def shapeOf (k : Kernel) (ws : List LWord) (f : Prepared) : Shape :=
  { ws := ws, slots := k.slots, loops := loopSpans ws, brs := brSpans k.units ws f, entry := entryPoints ws f, cuts := k.breaks }

/-- The four slices of a shape. -/
def Shape.sliced (k : Shape) (ps : List Pair) : Sliced :=
  let chs := k.channels
  let c := k.finish .c (k.slice chs ps .c)
  let s := k.finish .s (k.slice chs ps .s)
  let v := k.finish .v (k.slice chs ps .v)
  let m := k.finish .m (k.slice chs ps .m)
  let sl (e : Engine) : List SliceWord := match e with | .c => c | .s => s | .v => v | .m => m
  let text (l : List SliceWord) := l.flatMap SliceWord.units
  let anns (l : List SliceWord) := l.flatMap fun w => w.ann :: List.replicate (w.units.length - 1) 0
  { code := #v[text c, text s, text v, text m], anns := #v[anns c, anns s, anns v, anns m],
    map := { resume := k.resumeRows sl, segs := k.segments.map (k.segRow sl), loops := k.loopRows chs },
    granules := (([Engine.c, .s, .v, .m].flatMap fun e => granulesOf e (sl e)).foldl (fun a x => insertGranule x a) []).map Prod.snd }

/-- Bytes of four slice texts. -/
def slicedBytes (d : Sliced) : Nat := 4 * (d.code.toList.map List.length).sum

/-- A kernel sliced, or the code that refuses it, in the order of the table (14 R278); a return word that is not always taken breaks
a limit of slicing (18 R358). Which of two codes refuses a text that meets two conditions the spec leaves open (DESIGN CHOICE,
log 8). -/
def sliceKernel (k : Kernel) : Except Nat Sliced :=
  let ws := logicalWords k.units.length 0 k.units
  if ws.any fun w => match w.sem with | some n => 192 ≤ n | none => false then .error 0x0A03
  else if ws.any LWord.sliceOnly then .error 0x0A04
  else
    let f := preparedIn k.units
    if unsliceable ws f || badReturn k.units ws then .error 0x0A05
    else
      let g := shapeOf k ws f
      let ps := g.pairs
      if 64 < ps.length then .error 0x0A05
      else
        let d := g.sliced ps
        if 131072 < slicedBytes d then .error 0x0A06 else .ok d

end Sys2Proof.Machine
end

