-- ==== Sys2Proof/Machine/Loader.lean ====
section
/-! DEFINITION. LOAD_CODE_OBJECT: the loader's checks, the placing of data, the GOT, kernels and launches (04 R64-R70, 13 R256,
14 R277-R281, R291). -/

namespace Sys2Proof.Machine

/-! The code object (14 R277). -/

/-- The fields of a code object's header. -/
structure ObjHeader where
  magic     : Nat
  objver    : Nat
  nkern     : Nat
  gotn      : Nat
  nlaunch   : Nat
  diroff    : Nat
  dataoff   : Nat
  launchoff : Nat
  reserved  : Bool
  deriving DecidableEq, Repr

/-- The header at the start of an object. -/
def objHeader (bs : List Byte) : ObjHeader :=
  { magic := fieldN bs 0 4, objver := fieldN bs 4 2, nkern := fieldN bs 6 2, gotn := fieldN bs 8 4, nlaunch := fieldN bs 12 4,
    diroff := fieldN bs 16 8, dataoff := fieldN bs 24 8, launchoff := fieldN bs 32 8, reserved := !zeroN bs 40 24 }

/-- Whether a range lies in an object. -/
def inObject (o : CodeObject) (off n : Nat) : Bool := off + n ≤ o.image.length

/-- Whether every offset and length of an object stays in it, and its counts are those of what it holds (14 R277, R278). -/
def objectWhole (o : CodeObject) : Bool :=
  let h := objHeader o.image
  inObject o 0 64 && inObject o h.diroff 0 && inObject o h.dataoff 0 && inObject o h.launchoff (896 * h.nlaunch)
    && h.nkern == o.dir.length && h.gotn == o.got.length && h.nlaunch == o.launches.length
    && 1 ≤ h.nkern && h.nkern ≤ 4096 && h.gotn ≤ 4096
    && (o.dir.all fun k => inObject o k.off (4 * k.len)) && o.data.all fun d => inObject o (h.dataoff + d.off) d.len

/-- The code with which the loader refuses an object (14 R278). -/
def objectCode (o : CodeObject) : Option Nat :=
  let h := objHeader o.image
  if h.magic ≠ 0x314F594B ∨ h.reserved = true ∨ objectWhole o = false then some 0x0A01
  else if h.objver ≠ 1 then some 0x0A02 else none

/-- The little-endian units of a run of bytes. -/
def unitsAt (bs : List Byte) (off len : Nat) : List (BitVec 32) := (List.range len).map fun j => BitVec.ofNat 32 (fieldN bs (off + 4 * j) 4)

/-- A kernel of an object. -/
def kernelAt (o : CodeObject) (k : KernelEntry) : Kernel :=
  { name := k.name, units := unitsAt o.image k.off k.len, slots := k.slots, breaks := k.breaks, emulate := k.emulate }

/-- The bytes of a data object of an object. -/
def dataBytes (o : CodeObject) (d : DataObj) : List Byte := (o.image.drop ((objHeader o.image).dataoff + d.off)).take d.len

/-- The record of a launch of an object. -/
def launchBytes (o : CodeObject) (i : Nat) : List Byte := (o.image.drop ((objHeader o.image).launchoff + 896 * i)).take 896

/-- The kernels of an object by number in the order in which they are placed: that of their first use by a launch, then those that no
launch uses (14 R277; DESIGN CHOICE, log 9). -/
def kernelOrder (o : CodeObject) : List Nat :=
  ((o.launches.map ObjLaunch.kernel).filter (· < o.dir.length) ++ List.range o.dir.length).eraseDups

/-! Placing (04 R64, R70, 13 R256). -/

/-- A number rounded up to a multiple. -/
def alignUp (n a : Nat) : Nat := (n + a - 1) / a * a

/-- Whether every run of a global range is mapped to memory of the partition. -/
def allMapped (s : State) (p : Partition) (rs : List (Nat × Nat)) : Bool :=
  rs.all fun r => match (translate s p r.1 false).2 with | .ok _ => true | .error _ => false

/-- Bytes put at a mapped global address by the loader. -/
def putGlobal (s : State) (p : Partition) (rs : List (Nat × Nat)) (bs : List Byte) : State :=
  match rs with
  | [] => s
  | (a, n) :: rest =>
    let t := match translate s p a false with | (u, .ok k) => homeWrite u p.cfg.part k (bs.take n) | (u, .error _) => u
    putGlobal t p rest (bs.drop n)

/-- Room for `n` bytes of the partition's GDDR-7: the next free address so aligned, taken if its pages are mapped (DESIGN CHOICE, log 9). -/
def takeGlobal (s : State) (part n align : Nat) : State × Option Nat :=
  match partOf s part with
  | none => (s, none)
  | some p =>
    let a := alignUp p.globTop align
    if a + n < 2 ^ 52 ∧ allMapped s p (runs a n) = true then
      (updPart s part fun q => { q with globTop := a + n }, some a)
    else (s, none)

/-- Room for `n` bytes of the partition's stack window, die 0 first (DESIGN CHOICE, log 9). -/
def takeStack (s : State) (part n align : Nat) : State × Option Nat :=
  match partOf s part with
  | none => (s, none)
  | some p =>
    let a0 := alignUp p.stackTop0 align
    let a1 := alignUp p.stackTop1 align
    if a0 + n ≤ (banksOn p 0).length * Config.bankBytes then
      (updPart s part fun q => { q with stackTop0 := a0 + n }, some (window 3 + a0))
    else if a1 + n ≤ (banksOn p 1).length * Config.bankBytes then
      (updPart s part fun q => { q with stackTop1 := a1 + n }, some (window 3 + 2 ^ 32 + a1))
    else (s, none)

/-- Whether a name of 2^k bytes meets a version of the partition. -/
def nameUsed (s : State) (part n k : Nat) : Bool :=
  s.versions.any fun v => v.part == part && v.name < n + 2 ^ k && n < v.name + 2 ^ v.k

/-- The lowest free name of 2^k bytes in a pool on a die: at the start, or after some version (13 R256). -/
def lowestName (s : State) (part pool die k : Nat) : Option Nat :=
  let base := pool * 2 ^ 50 + die * 2 ^ 49
  let ends := (s.versions.filter fun v => v.part == part && v.pool == pool && v.die == die).map fun v => alignUp (v.name + 2 ^ v.k) (2 ^ k)
  (sortAsc (base :: ends)).find? fun n => base ≤ n && n + 2 ^ k ≤ base + 2 ^ 49 && !nameUsed s part n k

/-- log2 of a size rounded up, at least 12. -/
def tileK (n : Nat) : Nat := max 12 (if n = 0 then 0 else log2Up n)

/-- A tile object becomes version 0 of a name, SEALED and current (13 R256). -/
def takeTile (s : State) (part pool : Nat) (bs : List Byte) : State × Option Nat :=
  let k := tileK bs.length
  let p := (partOf s part).getD noPart
  let on (die : Nat) : Option Nat :=
    if quotaOk s p (pool * 2 ^ 50 + die * 2 ^ 49) k then lowestName s part pool die k else none
  match (match on 0 with | some n => some n | none => on 1) with
  | none => (s, none)
  | some n =>
    let v : Version := { id := s.verNext, part := part, pool := pool, die := nameDie n, name := n, k := k, num := 0,
                         state := .sealed, see := 0, seen := [], holder := .none, cur := true }
    ({ s with versions := v :: s.versions, verNext := s.verNext + 1, mem := cellsSet s.mem (versionKey v.id 0) bs },
     some (window 4 + n))

/-- Room for a data object, with its address. -/
def placeObj (s : State) (part : Nat) (o : CodeObject) (d : DataObj) : State × Option Nat :=
  match d.place with
  | .global => takeGlobal s part d.len d.align
  | .params => takeGlobal s part d.len 128
  | .stack => takeStack s part d.len d.align
  | .tileGlobal => takeTile s part 0 (dataBytes o d)
  | .tileStack => takeTile s part 1 (dataBytes o d)

/-- Every data object placed in order; the address of each. -/
def placeObjs (s : State) (part : Nat) (o : CodeObject) : State × List (Option Nat) :=
  o.data.foldl (fun acc d => let r := placeObj acc.1 part o d; (r.1, acc.2 ++ [r.2])) (s, [])

/-! Slice maps and slice images in partition memory (14 R279, R291). -/

/-- The bytes of a kernel's slice map. -/
def mapBytes (k : Kernel) (d : Sliced) : List Byte :=
  let m := d.map
  let rt := 64
  let st := rt + 16 * m.resume.length
  let lt := st + 40 * m.segs.length
  bytesOf 8 k.units.length ++ bytesOf 4 m.segs.length ++ bytesOf 4 m.loops.length ++ bytesOf 8 rt ++ bytesOf 8 st ++ bytesOf 8 lt
    ++ (d.code.toList.flatMap fun t => bytesOf 4 t.length) ++ bytesOf 8 0
    ++ (m.resume.flatMap fun r => bytesOf 4 r.c.toNat ++ bytesOf 4 r.s.toNat ++ bytesOf 4 r.v.toNat ++ bytesOf 4 r.m.toNat)
    ++ (m.segs.flatMap fun r => bytesOf 4 r.start ++ bytesOf 4 r.len
      ++ (List.range 4).flatMap fun i => bytesOf 4 (r.count.getD i 0) ++ bytesOf 4 (r.sig.getD i 0).toNat)
    ++ m.loops.flatMap fun l => bytesOf 4 l.1 ++ bytesOf 4 l.2.toNat

/-- The bytes of a kernel's slice image: the granules of the four texts in the order of their first fetch, each of 2 KiB. -/
def granuleBytes (d : Sliced) : List Byte :=
  d.granules.flatMap fun g =>
    let us : List (BitVec 32) := ((d.code.toList.getD (engIdx g.1) []).drop (512 * g.2)).take 512
    (us ++ List.replicate (512 - us.length) (0#32)).flatMap fun u => bytesOf 4 u.toNat

/-- A kernel sliced and put where its slice map stands, its slice image behind the map; or its refusal, 0 where the partition has no
room for it (DESIGN CHOICE, log 9). -/
def placeKernel (s : State) (part : Nat) (k : Kernel) : State × Except Nat Nat :=
  match sliceKernel k with
  | .error c => (s, .error c)
  | .ok d =>
    let bs := mapBytes k d ++ granuleBytes d
    match takeGlobal s part bs.length 64 with
    | (t, some a) =>
      let u := putGlobal t ((partOf t part).getD noPart) (runs a bs.length) bs
      ({ u with kernels := { part := part, addr := a, kernel := k, sliced := d } :: u.kernels }, .ok a)
    | (t, none) => (t, .error 0)

/-- The kernels of an object placed in their order; the address of each, or its code, by number. -/
def placeKernels (s : State) (part : Nat) (o : CodeObject) : State × List (Nat × Except Nat Nat) :=
  (kernelOrder o).foldl (fun acc n =>
    let r := placeKernel acc.1 part (kernelAt o (o.dir.getD n { name := 0, off := 0, len := 0, slots := [], breaks := [], emulate := false }))
    (r.1, acc.2 ++ [(n, r.2)])) (s, [])

/-- What became of a kernel. -/
def kernelDone (ks : List (Nat × Except Nat Nat)) (n : Nat) : Except Nat Nat :=
  ((ks.find? fun k => k.1 == n).map Prod.snd).getD (.error 0x0A01)

/-! Symbols. -/

/-- The value of a symbol. -/
def symVal (objs : List (Option Nat)) (kers : List (Nat × Except Nat Nat)) (r : SymRef) : Nat :=
  match r with
  | .data o off => (((objs.getD o none).map fun a => a + off).getD 0) % 2 ^ 64
  | .kernel k => match kernelDone kers k with | .ok a => a | .error _ => 0

/-- Bytes with symbol values added to the doublewords at given offsets. -/
def resolve (objs : List (Option Nat)) (kers : List (Nat × Except Nat Nat)) (refs : List (Nat × SymRef)) (bs : List Byte) : List Byte :=
  refs.foldl (fun l r => putN l r.1 8 ((fieldN l r.1 8 + symVal objs kers r.2) % 2 ^ 64)) bs

/-- A placed object's bytes written where it stands. -/
def fillObj (s : State) (part : Nat) (a : Nat) (o : DataObj) (bs : List Byte) : State :=
  let p := (partOf s part).getD noPart
  match o.place with
  | .global => putGlobal s p (runs a bs.length) bs
  | .params => putGlobal s p (runs a bs.length) bs
  | .stack => writeAt s p (runs a bs.length) bs
  | _ => match s.versions.find? fun v => v.part == part && window 4 + v.name == a with
    | some v => { s with mem := cellsSet s.mem (versionKey v.id 0) bs }
    | none => s

/-- The record of a launch of the object as the loader submits it: KERNEL, GOTBASE, PBLOCK and template bases filled in. -/
def finishRecord (objs : List (Option Nat)) (kers : List (Nat × Except Nat Nat)) (got : Nat) (record : List Byte) (l : ObjLaunch) :
    List Byte :=
  let bs := putN (putN record 0 8 (symVal objs kers (.kernel l.kernel))) 8 8 got
  let bs := match l.pblock with | some o => putN bs 24 8 (symVal objs kers (.data o 0)) | none => bs
  resolve objs kers (l.tiles.map fun t => (t.1, .data t.2 0)) bs

/-- The launches of an object taken into a job: one whose kernel was refused gets that code in its completion event. -/
def addLaunch (part : Nat) (o : CodeObject) (objs : List (Option Nat)) (kers : List (Nat × Except Nat Nat)) (got : Nat)
    (acc : State × LoadJob) (x : ObjLaunch × Nat) : State × LoadJob :=
  let record := launchBytes o x.2
  match kernelDone kers x.1.kernel with
  | .error c => (refuseEvent acc.1 part (fieldN record 104 2) c, { acc.2 with done := (x.2, none) :: acc.2.done })
  | .ok _ =>
    let item : LoadItem :=
      { index := x.2, queue := x.1.queue, after := x.1.after, record := finishRecord objs kers got record x.1 }
    (acc.1, { acc.2 with todo := acc.2.todo ++ [item] })

/-- The loader's work on an accepted object (04 R70): data, GOT, kernels, then the launches in order. Without room for some data
object, parameter block or the GOT it submits none of the launches and reports the object, the GOT as the one after the last
(13 R256; DESIGN CHOICE, log 9, for any but a tile object). -/
def loadObject (s : State) (part : Nat) (o : CodeObject) : State :=
  let d := placeObjs s part o
  let g := takeGlobal d.1 part (8 * o.got.length) 64
  match (d.2 ++ [g.2]).findIdx? Option.isNone, g.2 with
  | none, some got =>
    let ks := placeKernels g.1 part o
    let t := (o.data.zip d.2).foldl (fun u p =>
      match p.2 with | some a => fillObj u part a p.1 (resolve d.2 ks.2 p.1.refs (dataBytes o p.1)) | none => u) ks.1
    let gb := o.got.flatMap fun r => bytesOf 8 (symVal d.2 ks.2 r)
    let t := putGlobal t ((partOf t part).getD noPart) (runs got gb.length) gb
    let j := o.launches.zipIdx.foldl (addLaunch part o d.2 ks.2 got) (t, { todo := [], done := [] })
    runJobs (updPart j.1 part fun p => { p with jobs := p.jobs ++ [j.2] }) part
  | i, _ => { g.1 with hostOut := g.1.hostOut ++ [.notPlaced part (i.getD o.data.length)] }

/-- LOAD_CODE_OBJECT (04 R70, 14 R278). -/
def execLoadCodeObject (part : Nat) (obj : CodeObject) (s : State) : Host.Outcome State Fault Refusal :=
  event (match partOf s part with
    | none => s
    | some _ =>
      match objectCode obj with
      | some c =>
        (List.range obj.launches.length).foldl (fun t i => refuseEvent t part (fieldN (launchBytes obj i) 104 2) c)
          { s with hostOut := s.hostOut ++ [.refused c] }
      | none => loadObject s part obj)

end Sys2Proof.Machine
end

