-- ==== Sys2Proof/Machine/Homes.lean ====
section
/-! DEFINITION. Packets accepted at their destination (17 R338, 21 R388-R390), and parameter homes: Damask programs, blocks,
steps, publication, mirrors (12 R248, 21 R393-R402). -/

namespace Sys2Proof.Machine

/-! Acceptance of a packet. -/

/-- Age in TIME at which a copy of a packet is discarded (21 R390). -/
def packetLife : Nat := 2000000

/-- The partition registered under a fabric partition ID (17 R338). -/
def partByFpid (s : State) (f : BitVec 16) : Option Partition := s.parts.find? fun q => q.cfg.fpid == f

/-- Whether the header of a packet stands: its type, its reserved fields, its age. -/
def headerOk (s : State) (p : Packet) : Bool :=
  p.ptype == typeOf p.body && !p.reserved && decide (s.time ≤ p.stamp + packetLife)

/-- Whether the key tag of a packet matches: it was made under the key that the receiver's slot holds. What this module sends to itself
passes no port and needs no key (17 R338; DEDUCED, log 30). -/
def tagMatches (s : State) (q : Partition) (p : Packet) : Bool := p.src == s.fabric || (p.tagOk && slotKey q p.epoch == some p.key)

/-- The partition that a packet reaches, none where it is discarded. -/
def accepted (s : State) (p : Packet) : Option Partition :=
  if headerOk s p then (partByFpid s p.fpid).filter fun q => tagMatches s q p else none

/-- A packet arrives: discarded and counted at host level, or taken by `f` with its partition. One for another module goes on
its way, unless it is too old or its header does not stand (21 R389, R390). -/
def arrive (s : State) (p : Packet) (f : State → Partition → State) : Host.Outcome State Fault Refusal :=
  event (if p.dst ≠ s.fabric then (if headerOk s p then { s with outbox := s.outbox ++ [p] } else hostBump s 0)
    else match accepted s p with | some q => f s q | none => hostBump s 0)

/-! Accesses of the F path and the D path: at the home, in queue order, past L1 and remote views (11 R226). -/

/-- The key of a partition's global or stack address, or the code that refuses it. -/
def resolveAt (s : State) (p : Partition) (a : Nat) (wr : Bool) : State × Except Nat Nat :=
  if a < 2 ^ 52 then translate s p a wr
  else if a / 2 ^ 56 = 0xF3 ∧ a % 2 ^ 56 / 2 ^ 32 < 2 then
    match (banksOn p (a % 2 ^ 56 / 2 ^ 32))[a % 2 ^ 32 / Config.bankBytes]? with
    | some b => (s, .ok (stackKey b (a % Config.bankBytes)))
    | none => (s, .error 0x0204)
  else (s, .error 0x0204)

/-- The keys of runs of addresses, none where one is refused. -/
def resolveRuns (s : State) (p : Partition) (rs : List (Nat × Nat)) (wr : Bool) : State × Option (List (Nat × Nat)) :=
  match rs with
  | [] => (s, some [])
  | (a, n) :: rest =>
    match resolveAt s p a wr with
    | (t, .error _) => (t, none)
    | (t, .ok k) => let r := resolveRuns t p rest wr; (r.1, r.2.map fun l => (k, n) :: l)

/-- Bytes read at their homes: none where an address is refused or a sector's condition is met, which is counted. -/
def pathRead (s : State) (p : Partition) (a n : Nat) : State × Option (List Byte) :=
  match resolveRuns s p (runs a n) false with
  | (t, none) => (t, none)
  | (t, some ks) =>
    match ks.find? fun k => (markOf t k.1).isSome with
    | some k => (match markOf t k.1 with | some m => countMark t p.cfg.part k.1 m | none => t, none)
    | none => (noteSofts t p.cfg.part (ks.map Prod.fst), some (ks.flatMap fun k => cellsGet t.mem k.1 k.2))

/-- Bytes written at resolved keys. -/
def writeKeys (s : State) (part : Nat) (ks : List (Nat × Nat)) (bs : List Byte) : State :=
  match ks with
  | [] => s
  | (k, n) :: rest => writeKeys (homeWrite s part k (bs.take n)) part rest (bs.drop n)

/-- Bytes written at their homes, or nothing where an address is refused. -/
def pathWrite (s : State) (p : Partition) (a : Nat) (bs : List Byte) : State × Bool :=
  match resolveRuns s p (runs a bs.length) true with
  | (t, none) => (t, false)
  | (t, some ks) => (writeKeys t p.cfg.part ks bs, true)

/-! Damask programs (21 R396-R398). -/

/-- Bits `lo` to `lo + n - 1` of a program word. -/
def wordBits (w : Word) (lo n : Nat) : Nat := w.toNat / 2 ^ lo % 2 ^ n

/-- The formats a VCVT may name, and with `wide` FP32 among them. -/
def damaskFmt (wide : Bool) (f : Nat) : Bool := f == 1 || f == 2 || (fmtB8 f && f != 0x22) || (wide && f == 0)

/-- Whether a program word is accepted (21 R396). -/
def damaskOk (w : Word) : Bool :=
  let op := wordBits w 60 4
  let useB := op ≤ 4 || op == 7
  let useC := op == 3 || op == 7
  decide (op ≤ 8) && (useB || wordBits w 46 5 == 0) && (useC || wordBits w 41 5 == 0) && decide (wordBits w 38 3 ≤ 4)
    && (op != 7 || wordBits w 38 3 == 0)
    && (if op = 8 then damaskFmt true (wordBits w 31 6) else wordBits w 31 7 == 0) && wordBits w 0 31 == 0

/-- The 16 bits of an rs rounding (21 R398). -/
def damaskBits (seed : Word) (t i j : Nat) : Nat :=
  (philoxRounds 10 (t % 2 ^ 32, t / 2 ^ 32 % 2 ^ 32, i % 2 ^ 32, j * 2 ^ 16) (seed.toNat % 2 ^ 32) (seed.toNat / 2 ^ 32)).1 % 2 ^ 16

/-- Whether an FP32 value is greater than +0. -/
def above0 (c : Nat) : Bool :=
  match decodeFloat 0 c with | .nan => false | .inf n => !n | .fin n m _ _ => !n && m != 0

/-- DamaskOp (21 R397): the FP32 result of a word on FP32 operands. -/
def damaskOp (w : Word) (u a b c : Nat) : Nat :=
  let rnd := wordBits w 38 3
  let f (x : FNum) := encodeFloat 0 rnd u false x
  let x := decodeFloat 0 a
  let y := decodeFloat 0 b
  match wordBits w 60 4 with
  | 0 => f (numAdd (rnd == 2) x y)
  | 1 => f (numAdd (rnd == 2) x (numNeg y))
  | 2 => f (numMul x y)
  | 3 => f (numAdd (rnd == 2) (numMul x y) (decodeFloat 0 c))
  | 4 => f (numDiv x y)
  | 5 => f (numSqrt x)
  | 6 => f (numRsq x)
  | 7 => if above0 c then a else b
  | _ =>
    let fmt := wordBits w 31 6
    encodeFloat 0 0 0 false (decodeFloat fmt (encodeFloat fmt rnd u (wordBits w 37 1 == 1) x))

/-- The program from word `j` on, on the registers e of element `i` with the scalars k. -/
def damaskRun (seed : Word) (t i j : Nat) (k : List Nat) (prog : List Word) (e : List Nat) : List Nat :=
  match prog with
  | [] => e
  | w :: rest =>
    let reg (n : Nat) := if n < 16 then e.getD n 0 else k.getD (n - 16) 0
    let r := damaskOp w (damaskBits seed t i j) (reg (wordBits w 51 5)) (reg (wordBits w 46 5)) (reg (wordBits w 41 5))
    damaskRun seed t i (j + 1) k rest (e.set (wordBits w 56 4) r)

/-! Homes. -/

/-- Elements of a block. -/
def blockElems : Nat := 16384

/-- Bytes of a published element. -/
def pubBytes (d : HomeDesc) : Nat := fmtWidth d.pfmt.toNat / 8

/-- Tiles of the publication run (21 R394). -/
def pubTiles (d : HomeDesc) : Nat := (blockElems * d.nblk * pubBytes d + 2 ^ d.pk - 1) / 2 ^ d.pk

/-- The scalars k0 to k15 of a home. -/
def scalarsOf (h : ParamHome) : List Nat :=
  (List.range 8).map (fun n => (h.desc.consts.getD n 0).toNat) ++ h.scalars.map BitVec.toNat

/-- The elements of a block from element `i` on: new masters, moments and published bytes (21 R397). -/
def blockRun (h : ParamHome) (fuel i : Nat) (w m v g : List Byte) : List Byte × List Byte × List Byte × List Byte :=
  match fuel with
  | 0 => ([], [], [], [])
  | n + 1 =>
    let e := damaskRun h.desc.seed h.step i 0 (scalarsOf h) h.program
      ([natOf (w.take 4), natOf (m.take 4), natOf (v.take 4), natOf (g.take 4)] ++ List.replicate 12 0)
    let pub := encodeFloat h.desc.pfmt.toNat 0 0 h.desc.psat (decodeFloat 0 (e.getD 14 0))
    let r := blockRun h n (i + 1) (w.drop 4) (m.drop 4) (v.drop 4) (g.drop 4)
    (bytesOf 4 (e.getD 0 0) ++ r.1, bytesOf 4 (e.getD 1 0) ++ r.2.1, bytesOf 4 (e.getD 2 0) ++ r.2.2.1,
     bytesOf (pubBytes h.desc) pub ++ r.2.2.2)

/-- The home of a partition on a die. -/
def homeOf (s : State) (part die : Nat) : Option ParamHome :=
  s.homes.find? fun h => h.desc.part == part && h.desc.die == die

/-- A home replaced. -/
def setHome (s : State) (h : ParamHome) : State :=
  { s with homes := s.homes.map fun k => if k.desc.part = h.desc.part ∧ k.desc.die = h.desc.die then h else k }

/-- Published bytes of offset `off` written into the publication versions, sector by sector (21 R394, R399). -/
def publish64 (fuel : Nat) (s : State) (h : ParamHome) (off : Nat) (bs : List Byte) : State :=
  match fuel with
  | 0 => s
  | n + 1 =>
    if bs.isEmpty then s
    else
      let t := match h.versions[off / 2 ^ h.desc.pk]? with
        | some v => homeWrite s h.desc.part (versionKey v (off % 2 ^ h.desc.pk)) (bs.take 64)
        | none => s
      publish64 n t h (off + 64) (bs.drop 64)

/-- The offset of a block's published bytes. -/
def pubOff (d : HomeDesc) (b : Nat) : Nat := blockElems * b * pubBytes d

/-- Whether a name may get a version of a home's: its versions have the home's k, and the quotas have room (13 R256, R259). -/
def tileFits (s : State) (d : HomeDesc) (n : Nat) : Bool :=
  ((versionsOf s d.part n).all fun v => v.k == d.pk) && quotaOk s ((partOf s d.part).getD noPart) n d.pk

/-- The publication versions of the current step, FILLING, held by the home (21 R399); where a quota is full or a name has versions of another
k none is opened, and the home tries again as its next block is applied or its step completes (DESIGN CHOICE, log 70). -/
def openTiles (s : State) (h : ParamHome) : State × ParamHome :=
  let base := (tileName h.desc.ptile.toNat).getD 0
  let r := (List.range (pubTiles h.desc)).foldl (fun (acc : Option (State × List Nat)) j =>
    match acc with
    | none => none
    | some (t, l) =>
      let n := base + j * 2 ^ h.desc.pk
      if tileFits t h.desc n then
        let v := newVersion t h.desc.part n h.desc.pk (.home h.desc.part h.desc.die)
        some (v.1, l ++ [v.2.ver])
      else none) (some (s, []))
  match r with
  | some (t, l) => (t, { h with versions := l })
  | none => (s, { h with versions := [] })

/-- The published bytes of every applied block copied from the shadow run (21 R400, R402). -/
def copyShadow (s : State) (p : Partition) (h : ParamHome) : State :=
  h.applied.foldl (fun t b =>
    let n := blockElems * pubBytes h.desc
    match pathRead t p (h.desc.shadow.toNat + pubOff h.desc b) n with
    | (u, some bs) => publish64 (n / 64 + 1) u h (pubOff h.desc b) bs
    | (u, none) => u) s

/-- A step becomes current (21 R394, R399): its scalars are read; a home, unlike a mirror, opens its versions. -/
def openStep (s : State) (p : Partition) (h : ParamHome) : State × ParamHome :=
  let r := pathRead s p (h.desc.scal.toNat + 32 * (h.step % max 1 h.desc.nscal)) 32
  let sc := (r.2.map fun bs => (List.range 8).map fun n => BitVec.ofNat 32 (natOf ((bs.drop (4 * n)).take 4))).getD []
  let h : ParamHome := { h with since := s.time, applied := [], versions := [], scalars := sc }
  if h.role = 1 then (r.1, h) else openTiles r.1 h

/-- Whether a block can be applied now: its step's scalars are there and its runs are mapped and sound; its bytes then. (DEDUCED, log 43.) -/
def blockReads (s : State) (p : Partition) (h : ParamHome) (b : Nat) : State × Option (List (List Byte)) :=
  if h.scalars.isEmpty then (s, none)
  else
    [h.desc.waddr, h.desc.maddr, h.desc.vaddr].foldl (fun (acc : State × Option (List (List Byte))) a =>
      match acc.2 with
      | none => acc
      | some l => let r := pathRead acc.1 p (a.toNat + 4 * blockElems * b) (4 * blockElems); (r.1, r.2.map fun x => l ++ [x]))
      (s, some [])

/-- A home without versions opens new ones, with what its shadow run holds (21 R400). -/
def reopened (s : State) (p : Partition) (h : ParamHome) : State × ParamHome :=
  if h.role ≠ 1 ∧ h.versions.isEmpty then
    let q := openTiles s h
    (copyShadow q.1 p q.2, q.2)
  else (s, h)

/-- A block applied once (21 R397, R400): masters, moments and shadow run are written, and where versions are open its published
bytes; a home whose versions a deadline took opens new ones first. -/
def applyBlock (s : State) (p : Partition) (h : ParamHome) (b : Nat) (g : List Byte) : State × Option ParamHome :=
  match blockReads s p h b with
  | (t, none) => (t, none)
  | (t, some l) =>
    let o := reopened t p h
    let r := blockRun o.2 blockElems (blockElems * b) (l.getD 0 []) (l.getD 1 []) (l.getD 2 []) g
    let put (u : State) (a : Word) (n : Nat) (bs : List Byte) := (pathWrite u p (a.toNat + n) bs).1
    let d := h.desc
    let u := put (put (put o.1 d.waddr (4 * blockElems * b) r.1) d.maddr (4 * blockElems * b) r.2.1) d.vaddr
      (4 * blockElems * b) r.2.2.1
    let u := put u d.shadow (pubOff d b) r.2.2.2
    let u := publish64 (r.2.2.2.length / 64 + 1) u o.2 (pubOff d b) r.2.2.2
    (u, some { o.2 with applied := h.applied ++ [b] })

/-- Module and die of the acting home: of a mirror its peer. -/
def actingHome (s : State) (h : ParamHome) : Nat × Nat := if h.role = 1 then (h.desc.peer, h.desc.peerDie) else (s.fabric, h.desc.die)

/-- The status word (21 R402). -/
def writeStat (s : State) (p : Partition) (h : ParamHome) : State :=
  let a := actingHome s h
  (pathWrite s p h.desc.stat.toNat (bytesOf 8 h.step ++ bytesOf 2 (a.1 % 2 ^ 12 + a.2 % 2 * 2 ^ 12) ++ bytesOf 1 h.role
    ++ List.replicate 53 0)).1

/-- An acknowledgement of a block to its sender, with the mirror that a home has. -/
def ackBlock (s : State) (h : ParamHome) (tag : Nat) (sender : Nat × Nat) (mirror rejected : Bool) : State :=
  sendFrom s h.desc.die h.desc.part (2 ^ 128) sender.1 sender.2 tag
    (.gradAck tag mirror (h.desc.mirrored && h.role == 0) rejected h.desc.peer h.desc.peerDie)

/-- A block with its commit record sent to the mirror (21 R401). -/
def toMirror (s : State) (h : ParamHome) (step block order tag : Nat) (sender : Nat × Nat) (bs : List Byte) : State :=
  if h.desc.mirrored && h.role == 0 then
    sendFrom s h.desc.die h.desc.part (2 ^ 128) h.desc.peer h.desc.peerDie tag (.publication step block order bs tag sender.1 sender.2)
  else s

/-- The full step of a block's 32 bits (21 R395). -/
def fullStep (t low : Nat) : Int := t + signedOf 32 ((low + 2 ^ 32 - t % 2 ^ 32) % 2 ^ 32)

/-- A block that is applied, acknowledged and sent on; without its reads it stays with its sender. -/
def takeBlock (s : State) (p : Partition) (h : ParamHome) (b tag : Nat) (sender : Nat × Nat) (bs : List Byte) : State :=
  match applyBlock s p h b bs with
  | (t, none) => t
  | (t, some k) => toMirror (ackBlock (setHome t k) k tag sender false false) k k.step b h.applied.length tag sender bs

/-- The commit order of a block in a past step, if it was applied there (21 R401). -/
def pastOrder (h : ParamHome) (step b : Nat) : Option Nat := (assoc h.past step).bind fun l => l.findIdx? fun x => x == b

/-- A gradient block at its home (21 R395). A stale one goes to the mirror, with its place in its step, as long as its sender asks for it. -/
def gradientAt (s : State) (p : Partition) (h : ParamHome) (low b tag : Nat) (sender : Nat × Nat) (bs : List Byte) : State :=
  let st := fullStep h.step low
  if h.desc.nblk ≤ b ∨ (h.step : Int) + 2 ≤ st then ackBlock s h tag sender false true
  else if st < h.step then
    let t := ackBlock s h tag sender false false
    match pastOrder h st.toNat b with | some n => toMirror t h st.toNat b n tag sender bs | none => t
  else if st = h.step then
    match h.applied.findIdx? fun x => x == b with
    | some n => toMirror (ackBlock s h tag sender false false) h h.step b n tag sender bs
    | none => takeBlock s p h b tag sender bs
  else if h.ahead.length < 256 ∧ (h.ahead.all fun x => x.block != b) = true then
    setHome s { h with ahead := h.ahead ++ [{ block := b, tag := tag, sender := sender, bytes := bs }] }
  else s

/-- GRADIENT_BLOCK (21 R395). -/
def execGradientBlock (p : Packet) (s : State) : Host.Outcome State Fault Refusal :=
  arrive s p fun s q =>
    match p.body with
    | .gradient step b die bs =>
      match homeOf s q.cfg.part die with
      | some h => if h.role = 1 ∨ bs.length ≠ 4 * blockElems then s else gradientAt s q h step b p.xid (p.src, p.srcDie) bs
      | none => s
    | _ => hostBump s 0

/-- A block and its commit record at the mirror (21 R401): applied in commit order, acknowledged to the sender. -/
def publicationAt (s : State) (p : Partition) (h : ParamHome) (step b order tag : Nat) (sender : Nat × Nat) (bs : List Byte) :
    State :=
  if step < h.step ∨ (step = h.step ∧ h.applied.contains b = true) then ackBlock s h tag sender true false
  else if step = h.step ∧ order = h.applied.length then
    match applyBlock s p h b bs with
    | (t, none) => t
    | (t, some k) => ackBlock (setHome t k) k tag sender true false
  else s

/-- WEIGHT_PUBLICATION (21 R401). -/
def execWeightPublication (p : Packet) (s : State) : Host.Outcome State Fault Refusal :=
  arrive s p fun s q =>
    match p.body with
    | .publication step b order bs tag m d =>
      match homeOf s q.cfg.part p.dstDie with
      | some h => if h.role = 1 then publicationAt s q h step b order tag (m, d) bs else s
      | none => s
    | _ => hostBump s 0

/-- Whether every block of a home's step is durable. -/
def stepDone (h : ParamHome) : Bool := h.applied.length == h.desc.nblk

/-- A step completes (21 R399): the versions are sealed, the counter rises, STAT is written, the next step opens and takes the
blocks held for it. -/
def completeStep (s : State) (p : Partition) (h : ParamHome) : State :=
  let t := h.versions.foldl sealVer s
  let k := { h with step := h.step + 1, ahead := [], past := (h.step, h.applied) :: h.past }
  let t := if h.role = 1 then t else writeStat t p k
  let r := openStep t p k
  h.ahead.foldl (fun u a => match homeOf u h.desc.part h.desc.die with
    | some g => takeBlock u p g a.block a.tag a.sender a.bytes
    | none => u) (setHome r.1 r.2)

/-- A complete step is taken leave of once its versions are open: a home that had no room for them publishes it from its shadow run then. -/
def finishStep (s : State) (p : Partition) (h : ParamHome) : State :=
  let q := reopened s p h
  if q.2.role ≠ 1 ∧ q.2.versions.isEmpty = true then s else completeStep q.1 p q.2

/-- Whether a home's step can be completed now. -/
def stepReady (s : State) (h : ParamHome) : Bool :=
  stepDone h && (h.role == 1 || !h.versions.isEmpty || !(openTiles s h).2.versions.isEmpty)

/-- STEP_COMPLETE (21 R399). -/
def execStepComplete (part die : Nat) (s : State) : Host.Outcome State Fault Refusal :=
  event (match partOf s part, homeOf s part die with
    | some p, some h => if stepDone h then finishStep s p h else s
    | _, _ => s)

/-- Whether a home's deadline has passed with its step incomplete (21 R400). -/
def deadlinePast (s : State) (h : ParamHome) : Bool :=
  h.role != 1 && !stepDone h && decide (h.since + 1000 * h.desc.deadline ≤ s.time)

/-- STEP_DEADLINE_EXPIRY: the FILLING versions are abandoned; the next deadline counts from the one that has passed (21 R400; DEDUCED, log 43). -/
def execStepDeadlineExpiry (part die : Nat) (s : State) : Host.Outcome State Fault Refusal :=
  event (match homeOf s part die with
    | some h =>
      if deadlinePast s h then setHome (h.versions.foldl abandonVer s) { h with versions := [], since := h.since + 1000 * h.desc.deadline } else s
    | none => s)

/-- Whether a run starts on a die. -/
def startsOn (s : State) (p : Partition) (a : Word) (die : Nat) : Bool :=
  decide (a.toNat < 2 ^ 52) && (match (translate s p a.toNat true).2 with | .ok k => keyDie k == die | .error _ => false)

/-- Whether the names of a descriptor's publication tiles have no version of another k (13 R256). -/
def tilesAgree (s : State) (d : HomeDesc) : Bool :=
  s.versions.all fun v => v.part != d.part || v.k == d.pk
    || (match tileName d.ptile.toNat with
        | some n => !(decide (n ≤ v.name) && decide (v.name < n + pubTiles d * 2 ^ d.pk) && v.name % 2 ^ d.pk == 0)
        | none => true)

/-- Whether a descriptor keeps its limits (21 R393). -/
def descOk (s : State) (p : Partition) (d : HomeDesc) : Bool :=
  !d.reserved && decide (d.die < 2) && decide (1 ≤ d.nblk) && decide (d.nblk ≤ 2 ^ 19) && damaskFmt false d.pfmt.toNat
    && decide (12 ≤ d.pk) && decide (d.pk ≤ 22) && decide (1 ≤ d.plen) && decide (d.plen ≤ 64)
    && (match tileName d.ptile.toNat with
        | some n => n % 2 ^ d.pk == 0 && decide (n % 2 ^ 49 + pubTiles d * 2 ^ d.pk ≤ 2 ^ 49)
        | none => false)
    && decide (1 ≤ d.deadline) && decide (d.deadline < 2 ^ 32) && decide (d.peer < 2 ^ 12) && decide (d.peerDie < 2)
    && d.prog.toNat % 8 == 0 && decide (1 ≤ d.nscal) && decide (d.nscal ≤ 65536) && d.shadow.toNat % 64 == 0
    && ([d.waddr, d.shadow].all fun a => startsOn s p a d.die) && tilesAgree s d

/-- PARAM_HOME_CREATE (21 R393, R396): refused with 0x0A01, or created with its program copied into the engine. -/
def createHome (s : State) (d : HomeDesc) : State :=
  let no (t : State) : State := { t with hostOut := t.hostOut ++ [.refused 0x0A01] }
  match partOf s d.part with
  | none => no s
  | some p =>
    if descOk s p d = false ∨ (homeOf s d.part d.die).isSome = true ∨ s.rmap.damask.getLsbD d.die = false then no s
    else
      match pathRead s p d.prog.toNat (8 * d.plen) with
      | (t, none) => no t
      | (t, some bs) =>
        let prog : List Word := (List.range d.plen).map fun j => BitVec.ofNat 64 (natOf ((bs.drop (8 * j)).take 8))
        if prog.all damaskOk = false then no t
        else
          let h : ParamHome := { desc := d, program := prog, step := d.step, since := t.time, applied := [], ahead := [],
                                 scalars := [], versions := [], role := if d.isMirror then 1 else 0, past := [] }
          let r := openStep t p h
          { r.1 with homes := r.2 :: r.1.homes }

/-- PARAM_HOME_CREATE. -/
def execParamHomeCreate (d : HomeDesc) (s : State) : Host.Outcome State Fault Refusal := event (createHome s d)

/-! The sender's side (12 R248, 21 R395, R401). -/

/-- The first member of a list replaced by others. -/
def replaceFirst {α : Type} [DecidableEq α] (a : α) (by_ : List α) (l : List α) : List α :=
  match l with
  | [] => []
  | e :: rest => if e = a then by_ ++ rest else e :: replaceFirst a by_ rest

/-- A retained block as an acknowledgement leaves it: its copy is kept until home and mirror have acknowledged it as durable; then s93 is
posted to the task that sent it. (DEDUCED, log 51.) -/
def settleBlock (s : State) (old r : Retained) : State :=
  let done : Bool := match r.home with | some mirrored => !mirrored || r.mirror | none => false
  if done then updTaskRegs { s with retained := replaceFirst old [] s.retained } r.launch r.serial fun g => postS g 93 1
  else { s with retained := replaceFirst old [r] s.retained }

/-- The copy that an acknowledgement of a tag is for: the first that still lacks it, as a block sent twice under one tag is acknowledged twice
(21 R395); without one the first. -/
def copyFor (s : State) (part tag : Nat) (mirror : Bool) : Option Retained :=
  let mine := s.retained.filter fun r => r.tag == tag && r.part == part
  match mine.find? fun r => if mirror then !r.mirror else r.home.isNone with
  | some r => some r
  | none => mine.head?

/-- An acknowledgement of a gradient block. A rejected block's copy is discarded, event 0x0803 is raised (21 R395). -/
def gradAckAt (s : State) (part tag : Nat) (mirror mirrored rejected : Bool) (src : Nat × Nat) (peer : Nat × Nat) : State :=
  match copyFor s part tag mirror with
  | none => s
  | some r =>
    if rejected then postEvent { s with retained := replaceFirst r [] s.retained } 0x0803 part r.launch 0 tag
    else if mirror then settleBlock s r { r with mirror := true }
    else
      let t := if mirrored then
          { s with mirrorsAt := ((part, src.1, src.2), peer) :: s.mirrorsAt.filter fun e => e.1 != (part, src.1, src.2) }
        else s
      settleBlock t r { r with home := some mirrored }

/-- GRADIENT_BLOCK_RESEND: the retained copy is sent again (12 R248). -/
def execGradientBlockResend (tag : Nat) (s : State) : Host.Outcome State Fault Refusal :=
  event (match s.retained.find? fun r => r.tag == tag with
    | none => s
    | some r =>
      let t := sendFrom s r.die r.part r.launch r.dest.1 r.dest.2 tag
        (.gradient (tag % 2 ^ 32) (tag / 2 ^ 32 % 2 ^ 19) r.dest.2 r.bytes)
      { t with retained := t.retained.map fun x => if x.tag = tag then { x with tried := s.time } else x })

/-! A home that fails (21 R402). -/

/-- A mirror becomes the home: versions of its step with what its shadow run holds. -/
def promote (s : State) (h : ParamHome) : State :=
  match partOf s h.desc.part with
  | none => s
  | some p =>
    let k := { h with role := 2, desc := { h.desc with mirrored := false } }
    let q := openTiles s k
    let t := copyShadow q.1 p q.2
    setHome t { q.2 with since := s.time }

/-- A retained block whose home has failed: durable where the mirror has it, else redirected to the mirror. -/
def redirectBlock (s : State) (r : Retained) : State :=
  if r.mirror then settleBlock s r { r with home := some true }
  else
    match s.mirrorsAt.find? fun e => e.1 == (r.part, r.dest.1, r.dest.2) with
    | some e => settleBlock s r { r with dest := e.2, home := none }
    | none => s

/-- A home whose mirror was lost goes on alone. -/
def aloneAfter (m die : Nat) (h : ParamHome) : ParamHome :=
  if h.role = 0 ∧ h.desc.peer = m ∧ h.desc.peerDie = die then { h with desc := { h.desc with mirrored := false } } else h

/-- The status word of every descriptor that is left (21 R402). -/
def writeStats (s : State) : State :=
  s.homes.foldl (fun t h => match partOf t h.desc.part with | some p => writeStat t p h | none => t) s

/-- A Damask engine of a module has left the map: its homes are gone, with their FILLING versions; mirrors whose peer it was
are promoted, homes whose mirror it was go on alone, each surviving descriptor's STAT is written, and retained blocks go to the mirror. -/
def engineLost (s : State) (m die : Nat) : State :=
  let gone (h : ParamHome) : Bool := m == s.fabric && h.desc.die == die
  let t := (s.homes.filter gone).foldl (fun u h => h.versions.foldl abandonVer u) s
  let t := { t with homes := (t.homes.filter fun h => !gone h).map (aloneAfter m die) }
  let t := writeStats ((t.homes.filter fun h => h.role == 1 && h.desc.peer == m && h.desc.peerDie == die).foldl promote t)
  (t.retained.filter fun r => r.dest == (m, die)).foldl redirectBlock t

end Sys2Proof.Machine
end

