-- ==== Sys2Proof/Machine/Map.lean ====
section
/-! DEFINITION. The resource map: its record, MAPRD and MAPACK, publication, the acknowledgement window, failures and servicing
(01 R16, R22, R23, 13 R275, 20 R374-R383). -/

namespace Sys2Proof.Machine

/-! The record (20 R374, R375). -/

/-- Bits `lo` to `lo + n - 1` of a number. -/
def bitsN (v lo n : Nat) : Nat := v / 2 ^ lo % 2 ^ n

/-- CLUSTERS: a cluster is live while any of its cores is. -/
def clustersOf (m : RMap) : Nat :=
  ((List.range 48).map fun c => if bitsN m.cores.toNat (8 * c) 8 = 0 then 0 else 2 ^ c).sum

/-- The fields of the record below HOMES other than CAPS: offset, size, value. -/
def mapFields (m : RMap) : List (Nat × Nat × Nat) :=
  [(0x00, 8, m.version), (0x08, 8, m.time), (0x10, 1, m.cause), (0x18, 8, (m.unit.map UnitBits).getD 0),
   (0x20, 48, m.cores.toNat), (0x50, 8, clustersOf m), (0x58, 8, bitsN m.l2.toNat 0 48), (0x60, 8, bitsN m.l2.toNat 48 48),
   (0x68, 2, m.rdc.toNat), (0x70, 8, bitsN m.banks.toNat 0 48), (0x78, 8, bitsN m.banks.toNat 48 48),
   (0x80, 24, m.channels.toNat), (0x98, 4, m.ports.toNat), (0x9C, 2, m.bridge.toNat), (0x9E, 1, m.damask.toNat),
   (0x9F, 1, m.mgmt.toNat), (0xA0, 4, m.aclk), (0xA4, 4, m.aclk / 2)]

/-- LAT of a core and a slice: 0xFF where either end is not live. -/
def latOf (m : RMap) (g j : Nat) : Byte :=
  if m.cores.getLsbD g && m.l2.getLsbD j then m.lat.getD (96 * g + j) 0xFF else 0xFF

/-- A byte of the record. -/
def mapByte (m : RMap) (o : Nat) : Byte :=
  if 0x4000 ≤ o then if o < 0x4000 + 36864 then latOf m ((o - 0x4000) / 96) ((o - 0x4000) % 96) else 0
  else if 0x1000 ≤ o then if o < 0x3000 then m.homes.getD (o - 0x1000) 0 else 0
  else if 0x100 ≤ o ∧ o < 0x180 then m.caps.getD (o - 0x100) 0
  else match (mapFields m).find? fun f => f.1 ≤ o && o < f.1 + f.2.1 with
    | some f => BitVec.ofNat 8 (f.2.2 / 2 ^ (8 * (o - f.1)))
    | none => 0

/-- The 8-byte word at an offset of the record. -/
def mapWord (m : RMap) (o : Nat) : Word := BitVec.ofNat 64 (natOf ((List.range 8).map fun i => mapByte m (o + i)))

/-- MAPRD (20 R377). (DEDUCED, log 39.) -/
def maprdBody (d a : BitVec 6) (s : State) : Res :=
  let o := (xOf s a).toNat
  if 2 ^ 16 ≤ o then .fail s 0x0102
  else if o % 8 ≠ 0 then .fail s 0x0203
  else .done (setX s d (mapWord s.rmap o))

/-- MAPRD. -/
def execMaprd (d a : BitVec 6) (s : State) : Host.Outcome State Fault Refusal := issue (.maprd d a) (maprdBody d a) s

/-- A context's acknowledged version becomes `v`; one that reaches MAPVER stops the window (20 R378, R380). -/
def ackMap (s : State) (part v : Nat) : State :=
  updPart s part fun p =>
    if v ≤ p.acked then p else { p with acked := v, window := if s.rmap.version ≤ v then none else p.window }

/-- MAPACK (20 R378). -/
def execMapack (a : BitVec 6) (s : State) : Host.Outcome State Fault Refusal :=
  issue (.mapack a) (fun s =>
    if s.rmap.version < (xOf s a).toNat then .fail s 0x0102 else .done (ackMap s s.me.task.part (xOf s a).toNat)) s

/-! Changes of the map. -/

/-- A bit set or cleared. -/
def putBit {n : Nat} (v : BitVec n) (i : Nat) (b : Bool) : BitVec n := if b then v ||| (1#n <<< i) else v &&& ~~~(1#n <<< i)

/-- The cores of a die. -/
def dieMask (die : Nat) : BitVec 384 := BitVec.ofNat 384 ((2 ^ 192 - 1) * 2 ^ (192 * die))

/-- HOMES entries that name a slice that leaves, given in turn to the live slices that remain (20 R375). -/
def rehome (live : List Nat) (out n : Nat) (l : List Byte) : List Byte :=
  match l with
  | [] => []
  | b :: rest =>
    if b.toNat = out ∧ live ≠ [] then BitVec.ofNat 8 (live.getD (n % live.length) 0) :: rehome live out (n + 1) rest
    else b :: rehome live out n rest

/-- The live slices of a die. -/
def liveSlices (l2 : BitVec 96) (die : Nat) : List Nat := (List.range 48).filter fun j => l2.getLsbD (48 * die + j)

/-- The map with a slice live or not. -/
def setSlice (m : RMap) (die j : Nat) (b : Bool) : RMap :=
  let l2 := putBit m.l2 (48 * die + j) b
  if b then { m with l2 := l2 }
  else
    let h (d : Nat) := (m.homes.drop (4096 * d)).take 4096
    let r := rehome (liveSlices l2 die) j 0 (h die)
    { m with l2 := l2, homes := if die = 0 then r ++ h 1 else h 0 ++ r }

/-- The map after a change; the cores that a die's return brings back are those that left with it. -/
def changeMap (s : State) (c : MapChange) : RMap :=
  let m := s.rmap
  match c with
  | .core g b => { m with cores := putBit m.cores g b }
  | .l2 die j b => setSlice m die j b
  | .rdc n b => { m with rdc := putBit m.rdc n b }
  | .bank die n b => { m with banks := putBit m.banks (48 * die + n) b }
  | .channel die n b => { m with channels := putBit m.channels (96 * die + n) b }
  | .port n b => { m with ports := putBit m.ports n b }
  | .bridge n b => { m with bridge := putBit m.bridge n b }
  | .damask die b => { m with damask := putBit m.damask die b }
  | .mgmt n b => { m with mgmt := putBit m.mgmt n b }
  | .clock f => { m with aclk := f }
  | .clusters die b =>
    if b then { m with cores := m.cores ||| ((s.quiet.find? fun q => q.1 == die).map Prod.snd).getD 0 }
    else { m with cores := m.cores &&& ~~~dieMask die }
  | .cap die n t => { m with caps := m.caps.set (64 * die + n) (BitVec.ofNat 8 t) }
  | .module f j => { m with gone := if j then m.gone.filter (· != f) else f :: m.gone.filter (· != f) }
  | .none => m

/-- The change of a unit's liveness (18 R343). -/
def changeOf (u : UnitId) (live : Bool) : MapChange :=
  match u.kind with
  | 1 => .core (u.index / 4) live
  | 2 => .l2 u.die u.index live
  | 3 => .rdc (8 * u.die + u.index) live
  | 4 => .bank u.die u.index live
  | 5 => .channel u.die u.index live
  | 6 => .port (u.index / 4) live
  | 7 => .bridge u.index live
  | 8 => .damask u.die live
  | 9 => .mgmt (4 * u.die + u.index) live
  | _ => .none

/-- Whether a unit ID names a unit that exists (01 R8, R9, 18 R343). -/
def unitExists (u : UnitId) : Bool :=
  decide (u.die < 2) && (match u.kind with
    | 1 => decide (u.index / 4 < 384) && u.index / 4 / 192 == u.die
    | 2 => decide (u.index < 48)
    | 3 => decide (u.index < 8)
    | 4 => decide (u.index < 48)
    | 5 => decide (u.index < 96)
    | 6 => decide (u.index / 4 < 24)
    | 7 => decide (u.index < 16) && u.die == 0
    | 8 => u.index == 0
    | 9 => decide (u.index < 4)
    | 0x0A => u.index == 0
    | 0x0B => u.index == 0
    | _ => false)

/-- The valid entries of the first `n` of a partition's table at a physical address. -/
def tableEntries (s : State) (p : Partition) (pa n : Nat) : List Nat :=
  match partKey p pa with
  | none => []
  | some k =>
    (((cellsSlice s.mem k (8 * n)).map fun c => c.1 / 8).eraseDups.map fun i => natOf (cellsGet s.mem (k + 8 * i) 8)).filter fun e => e % 2 == 1

/-- Whether a page of `n` bytes at a partition physical address has bytes in a GDDR-7 range. -/
def pageIn (p : Partition) (r pa n : Nat) : Bool :=
  (partKey p pa).map (· / Config.rangeBytes) == some r || (partKey p (pa + n - 1)).map (· / Config.rangeBytes) == some r

/-- Whether a table of a partition, or a page that its tables map, has bytes in a GDDR-7 range (17 R329, R330). -/
def mappedIn (s : State) (r : Nat) (p : Partition) : Bool :=
  (p.cfg.ptroot != 0 && pageIn p r p.cfg.ptroot (2 ^ 13))
    || (tableEntries s p p.cfg.ptroot 1024).any fun e0 => pageIn p r (entryPA e0) (2 ^ 16)
      || (tableEntries s p (entryPA e0) 8192).any fun e1 =>
        if e1 / 8 % 2 = 1 then pageIn p r (entryPA e1) (2 ^ 29)
        else pageIn p r (entryPA e1) (2 ^ 16) || (tableEntries s p (entryPA e1) 8192).any fun e2 => pageIn p r (entryPA e2) (2 ^ 16)

/-- Whether a GDDR-7 channel still holds a page (01 R23). -/
def holdsPage (s : State) (r : Nat) : Bool := s.parts.any (mappedIn s r)

/-- Whether a change moves the unit it names: the unit exists (01 R8, R9) and is not as the change leaves it. -/
def moves (s : State) (c : MapChange) : Bool :=
  let m := s.rmap
  match c with
  | .core g b => decide (g < 384) && m.cores.getLsbD g != b
  | .l2 die j b => decide (die < 2) && decide (j < 48) && m.l2.getLsbD (48 * die + j) != b
  | .rdc n b => decide (n < 16) && m.rdc.getLsbD n != b
  | .bank die n b => decide (die < 2) && decide (n < 48) && m.banks.getLsbD (48 * die + n) != b
  | .channel die n b => decide (die < 2) && decide (n < 96) && m.channels.getLsbD (96 * die + n) != b
  | .port n b => decide (n < 24) && m.ports.getLsbD n != b
  | .bridge n b => decide (n < 16) && m.bridge.getLsbD n != b
  | .damask die b => decide (die < 2) && m.damask.getLsbD die != b
  | .mgmt n b => decide (n < 8) && m.mgmt.getLsbD n != b
  | .clock f => decide (1000 ≤ f) && decide (f ≤ 4000) && (f == m.aclk + 250 || f + 250 == m.aclk)
  | .clusters _ _ => false
  | .cap die n t => decide (die < 2) && decide (n < 64) && decide (t < 256)
  | .module f j => decide (f < 4096) && f != s.fabric && m.gone.contains f == j
  | .none => false

/-! A unit that fails (20 R383). -/

/-- A task dispatched and not started returns to ready as an image of its start. -/
def unstart (s : State) : State :=
  match launchOf s s.me.task.launch with
  | none => { s with me := s.me.vacate }
  | some l =>
    let c := startedCore s l
    let err := c.task.bindErr
    let v : Saved := { core := { c with l1 := [] }, cause := .class0,
                       raised := if err then some (bindRaise { s with me := c }) else none, tag := 0, scratch := [], poison := [],
                       release := false, deliver := err, onCore := none, sound := true }
    { s with me := s.me.vacate, saved := s.saved ++ [v] }

/-- The task of a failed core takes 0x0601 under the fault policy, with the core named in UNIT; no slice is its origin. -/
def killFailed (s : State) (u : UnitId) : State :=
  let r := { frontierRaise s 0x0601 with unit := some u }
  let rec_ := { mkRec s r (readT s.me.regs 7) false with slice := 7 }
  faultPolicy (tellImage s rec_) r true rec_

/-- A core that fails: what only its L1 held is lost and poisoned where it was bound; its task is killed, or returns to ready if
it had not started; a task halted on it stays saved, and a saved task assigned to it is free again. -/
def failCore (s : State) (g : Nat) (u : UnitId) : State :=
  let t := { s with saved := s.saved.map fun v => if v.onCore = some g then { v with onCore := none } else v }
  onCore g (fun t =>
    let d := dirtySectors t
    let t := d.foldl (fun x sec => setMark x (64 * sec) .poison) t
    let t := { t with me := { t.me with l1 := [], lqC := [], sqC := [], sqS := [], posts := [] } }
    match t.me.run with
    | .idle => t
    | .starting => unstart t
    | .halted tag sound => { t with me := t.me.vacate, saved := t.saved ++ [imageOf t t.me .debugger none tag sound] }
    | _ => killFailed t u) t

/-- A port is out: its replay buffer and what it was sending are discarded (21 R386). -/
def dropPort (s : State) (n : Nat) : State := { s with ports := unassoc s.ports n }

/-- What stops before the record is written (20 R379, item 1). -/
def withdraw (s : State) (c : MapChange) (u : UnitId) : State :=
  match c with
  | .channel die n false => { s with failing := putBit s.failing (96 * die + n) false }
  | .core g false => failCore s g u
  | .port n false => dropPort s n
  | _ => s

/-! A module that leaves (13 R275). -/

/-- A version without what a lost module held of it. -/
def unseen (m : Nat) (v : Version) : Version :=
  { v with see := v.see - (assoc v.seen m).getD 0, seen := unassoc v.seen m }

/-- Another module has left the map: fills it held are abandoned, sees it held are dropped, versions homed on it are lost for every handle
held here, homes on it fail over. -/
def moduleLost (s : State) (m : Nat) : State :=
  let t := (s.versions.filter fun v => v.holder == .away m).foldl (fun u v => abandonVer u v.id) s
  let t := freeVersions { t with versions := t.versions.map (unseen m), eras := reassoc t.eras m (eraOf t m + 1),
                                 lostAt := reassoc t.lostAt m t.time, known := t.known.filter fun e => e.1.1 != m }
  engineLost (engineLost t m 0) m 1

/-- The modules of the mirrors and homes of an engine's homes are told that it has left (21 R389, R402). (DEDUCED, log 46.) -/
def tellPeers (s : State) (die : Nat) : State :=
  (s.homes.filter fun h => h.desc.die == die && h.desc.peer != s.fabric && (h.desc.mirrored || h.role == 1)).foldl (fun t h =>
    sendFrom t die h.desc.part (2 ^ 128) h.desc.peer h.desc.peerDie 0 (.mapNotice (.damask die false))) s

/-- What a version of the map brings about. -/
def follow (s : State) (c : MapChange) : State :=
  match c with
  | .damask die false => engineLost (tellPeers s die) s.fabric die
  | .module f false => moduleLost s f
  | .rdc _ false => rvTrim s
  | _ => s

/-! Publication (20 R379-R381). -/

/-- A version published: the record, MAPVER of every context, the windows that do not run already, the map-handlers. -/
def publish (s : State) (cause : Nat) (unit : Option UnitId) (m : RMap) : State :=
  let v := s.rmap.version + 1
  let t : State := { s with rmap := { m with version := v, time := s.time, cause := cause, unit := unit } }
  let t : State := { t with parts := t.parts.map fun p =>
    if p.acked < v ∧ p.window = none then { p with window := some (1000 * Config.ackWindow) } else p }
  settleRoom (t.parts.foldl (fun u p => noteHandler u p.cfg.part cause) t)

/-- The unit that a change concerns; none for clocks and caps. (DEDUCED, log 40.) -/
def unitOfChange (s : State) (c : MapChange) (u : Option UnitId) : Option UnitId :=
  match c with
  | .clock _ => none
  | .cap _ _ _ => none
  | .module f _ => some { kind := 0, module := f, die := 0, index := 0 }
  | .clusters die _ => some { kind := 0, module := s.fabric, die := die, index := 0 }
  | _ => u

/-- A change made and published. -/
def publishChange (s : State) (cause : Nat) (u : Option UnitId) (c : MapChange) : State :=
  let t := withdraw s c (u.getD { kind := 0, module := s.fabric, die := 0, index := 0 })
  follow (publish t cause (unitOfChange s c u) (changeMap t c)) c

/-- Whether something of a partition depends on a unit taken out for service (20 R383). -/
def inUse (s : State) (c : MapChange) : Bool :=
  match c with
  | .core g _ => (coreOf s g).run != .idle || s.saved.any fun v => v.onCore == some g
  | .l2 die j _ => s.parts.any fun p => (p.cfg.staging.any fun w => w.1 == 48 * die + j) || p.cfg.banks.contains (48 * die + j)
  | .bank die n _ => s.parts.any fun p => p.cfg.banks.contains (48 * die + n)
  | .channel die n _ => s.parts.any fun p => p.cfg.ranges.contains (96 * die + n)
  | .port n _ => match assoc s.ports n with | some p => !p.replay.isEmpty || !p.sending.isEmpty | none => false
  | .damask die _ => s.homes.any fun h => h.desc.die == die
  | _ => false

/-- Whether a change may be published for a cause (20 R374). -/
def causeOk (s : State) (cause : Nat) (u : Option UnitId) (c : MapChange) : Bool :=
  moves s c && u.all unitExists && (match cause with
    | 1 => (u.map fun x => changeOf x false) == some c && (match c with | .channel die n _ => !holdsPage s (96 * die + n) | _ => true)
    | 2 => (u.map fun x => changeOf x false) == some c && !inUse s c
    | 3 => (u.map fun x => changeOf x true) == some c
    | 4 => match c with | .clock _ => true | _ => false
    | 5 => match c with | .cap _ _ _ => true | _ => false
    | 6 => match c with | .module _ _ => true | _ => false
    | _ => false)

/-- A port that returns has come out of training: it holds no credit and grants its whole buffer (21 R387). (DEDUCED, log 44.) -/
def trained : Port :=
  { next := 0, got := BitVec.allOnes 12, nak := false, owes := false, replay := [], credit := 0, grant := 512, sending := [] }

/-- A unit that returns is ready for use. -/
def returned (s : State) (c : MapChange) : State :=
  match c with | .port n true => { s with ports := reassoc s.ports n trained } | _ => s

/-- MAP_PUBLISH (20 R379). -/
def execMapPublish (cause : Nat) (unit : Option UnitId) (change : MapChange) (s : State) : Host.Outcome State Fault Refusal :=
  event (if s.stage = .ready ∧ causeOk s cause unit change = true then returned (publishChange s cause unit change) change else s)

/-- Whether a kind of unit is a structure that partitions share (17 R337): L2, remote-data cache, port, bridge, tile table, translation
service. -/
def sharedKind (k : Nat) : Bool := [2, 3, 6, 7, 0x0A, 0x0B].contains k

/-- UNIT_FAILURE (20 R383): the unit is fenced and leaves at once; a GDDR-7 channel that still holds pages is fenced and leaves once they have
been moved (01 R23). (DESIGN CHOICE, log 60.) -/
def execUnitFailure (unit : UnitId) (s : State) : Host.Outcome State Fault Refusal :=
  event (if s.stage = .ready ∧ unit.module = s.fabric ∧ unitExists unit = true
      ∧ (moves s (changeOf unit false) = true ∨ unit.kind = 0x0A ∨ unit.kind = 0x0B) then
      if unit.kind = 5 ∧ holdsPage s (96 * unit.die + unit.index) = true then
        { s with failing := putBit s.failing (96 * unit.die + unit.index) true }
      else
        let t := if sharedKind unit.kind then hostBump s (if unit.kind = 6 then 4 else 2) else s
        publishChange t 1 (some unit) (changeOf unit false)
    else s)

/-- A window that has run out: the context's tasks are stopped and held, 0x0702 goes to the host (20 R380). -/
def expireWindow (s : State) (part : Nat) : State :=
  match partOf s part with
  | none => s
  | some p =>
    if p.window ≠ some 0 then s
    else
      let t := updPart s part fun q => { q with window := none }
      if s.rmap.version ≤ p.acked then t
      else postEvent (stopAll (updPart t part fun q => { q with suspended := true }) part .suspended) 0x0702 part (2 ^ 128) 0 0

/-- Every window that has run out; the cycle in which one does so is the first in which its context is suspended. -/
def expireWindows (s : State) : State :=
  (s.parts.filter fun p => p.window == some 0).foldl (fun t p => expireWindow t p.cfg.part) s

/-- ACK_WINDOW_EXPIRY (20 R380). -/
def execAckWindowExpiry (part : Nat) (s : State) : Host.Outcome State Fault Refusal := event (expireWindow s part)

/-- The host acknowledges the current version for a suspended context, whose tasks then resume (20 R380). -/
def hostAck (s : State) (part version : Nat) : State :=
  match partOf s part with
  | none => s
  | some p =>
    if p.suspended = false ∨ version ≠ s.rmap.version then s
    else releaseCause (updPart (ackMap s part version) part fun q => { q with suspended := false, window := none }) part .suspended

/-- HOST_MAP_ACK. -/
def execHostMapAck (part version : Nat) (s : State) : Host.Outcome State Fault Refusal := event (hostAck s part version)

/-! Translations withdrawn (17 R331). -/

/-- Accesses of the moving core that translated and have neither performed nor departed. -/
def inFlight (c : Core) : Bool :=
  (c.lqC.any fun e => e.mark.isNone && e.global) || (c.sqC.any fun e => e.mark.isNone && e.global) || (lqS c).any (·.global)
    || c.sqS.any fun k => (k.writes.drop k.sent).any fun w => match w.dest with | .here _ g => g | _ => false

/-- What the frontier allows of a core's accesses performs and departs. -/
def flushDue (s : State) : State :=
  let f := frontier s.me
  let t := performAll (departUpTo (s.me.lqC.length + s.me.sqC.length) f s)
  drainSTo t (t.me.sqS.takeWhile fun c => c.lsn ≤ f).length

/-- The invalidation of a range: once every access of the partition has performed or departed its entries are dropped; before
that nothing is. -/
def invalidateRange (s : State) (part lo hi : Nat) : State × Bool :=
  let t := (allCores s).foldl (fun u c => if c.run != .idle && c.task.part == part then onCore c.id flushDue u else u) s
  if (allCores t).any fun c => c.run != .idle && c.task.part == part && inFlight c then (t, false)
  else ({ t with tlb := t.tlb.filter fun e => !(e.part == part && e.va ≤ hi && lo < e.va + e.size) }, true)

/-- An invalidation command: complete at once, or under way until no access of the partition is. -/
def invalidateCmd (s : State) (part lo hi : Nat) : State :=
  let r := invalidateRange s part lo hi
  if r.2 then { r.1 with hostOut := r.1.hostOut ++ [.invalidated part lo hi] }
  else { r.1 with invals := r.1.invals ++ [(part, lo, hi)] }

/-- Whether an invalidation command under way can complete. -/
def invalDue (s : State) (e : Nat × Nat × Nat) : Bool :=
  !(allCores s).any fun c => c.run != .idle && c.task.part == e.1 && inFlight c

/-- TRANSLATION_INVALIDATE (17 R331): the command, or what is left of one under way. -/
def execTranslationInvalidate (part lo hi : Nat) (s : State) : Host.Outcome State Fault Refusal :=
  event (invalidateCmd { s with invals := s.invals.erase (part, lo, hi) } part lo hi)

/-! Servicing (20 R382). -/

/-- Copies of a range of bytes in every L1 are written back and dropped, those of the remote views dropped. -/
def flushRange (s : State) (lo n : Nat) : State :=
  let mine (c : Core) := ((c.l1.filter fun e => lo ≤ e.1 && e.1 < lo + n).map fun e => e.1 / 64).eraseDups
  let t := (allCores s).foldl (fun u c => onCore c.id (fun x => (mine c).foldl (fun y sec => flushSector y (64 * sec)) x) u) s
  { t with rv := t.rv.filter fun e => !(lo ≤ 64 * e.1.2 && 64 * e.1.2 < lo + n) }

/-- `n` sectors copied with their conditions. -/
def copySectors (n : Nat) (s : State) (part src dst : Nat) : State :=
  match n with
  | 0 => s
  | m + 1 =>
    let t := homeWrite s part dst (cellsGet s.mem src 64)
    copySectors m (match markOf s src with | some k => setMark t dst k | none => t) part (src + 64) (dst + 64)

/-- The table entry that maps an address: its partition physical address. -/
def leafOf (s : State) (p : Partition) (va : Nat) : Option Nat :=
  match walkEntry s p (p.cfg.ptroot + 8 * (va / 2 ^ 42)) with
  | .error _ => none
  | .ok e0 =>
    let a1 := entryPA e0 + 8 * (va / 2 ^ 29 % 2 ^ 13)
    match walkEntry s p a1 with
    | .error _ => none
    | .ok e1 => if e1 / 8 % 2 = 1 then some a1 else some (entryPA e1 + 8 * (va / 2 ^ 16 % 2 ^ 13))

/-- A page copied to another place of its partition, and its translation changed (20 R382, 17 R331). -/
def movePage (s : State) (m : PageMove) : State × Bool :=
  match partOf s m.part with
  | none => (s, false)
  | some p =>
    match walk s p m.va, leafOf s p m.va with
    | .ok e, some leaf =>
      match partKey p e.pa, partKey p m.pa, partKey p leaf with
      | some src, some dst, some tab =>
        let r := invalidateRange s m.part e.va (e.va + e.size - 1)
        if r.2 = false ∨ m.pa % e.size ≠ 0 then (r.1, false)
        else
          let t := copySectors (e.size / 64) (flushRange r.1 src e.size) m.part src dst
          let old := natOf (cellsGet t.mem tab 8)
          (homeWrite t m.part tab (bytesOf 8 (old % 2 ^ 16 + m.pa / 2 ^ 16 % 2 ^ 36 * 2 ^ 16)), true)
      | _, _, _ => (s, false)
    | _, _ => (s, false)

/-- Pages moved in order, as far as it goes. -/
def movePages (s : State) (ms : List PageMove) : State × Bool :=
  match ms with
  | [] => (s, true)
  | m :: rest => match movePage s m with | (t, false) => (t, false) | (t, true) => movePages t rest

/-- GDDR7_CHANNEL_RETRAINING: the channel's pages move, and once it holds none it leaves, with CAUSE 1 if it has failed (01 R23); or it
returns. One channel at a time is out for retraining. -/
def execGddr7ChannelRetraining (die ch : Nat) (phase : ServicePhase) (moves_ : List PageMove) (s : State) :
    Host.Outcome State Fault Refusal :=
  let u : UnitId := { kind := 5, module := s.fabric, die := die, index := ch }
  event (if s.stage ≠ .ready then s
    else match phase with
    | .leave =>
      if moves s (.channel die ch false) = true ∧ (s.failing.getLsbD (96 * die + ch) = true ∨ s.retrain.isNone = true) then
        match movePages s moves_ with
        | (t, true) =>
          if holdsPage t (96 * die + ch) then t
          else if t.failing.getLsbD (96 * die + ch) then publishChange t 1 (some u) (.channel die ch false)
          else publishChange { t with retrain := some (96 * die + ch) } 2 (some u) (.channel die ch false)
        | (t, false) => t
      else s
    | .back =>
      if moves s (.channel die ch true) then
        publishChange { s with retrain := s.retrain.filter fun r => r != 96 * die + ch } 3 (some u) (.channel die ch true)
      else s)

/-- Whether a firmware image is valid (22 R404). -/
def imageOk (s : State) (i : FwImage) : Bool :=
  i.magic == 0x46574B59 && i.keyDigest == s.flash.romKey && i.sigOk && decide (s.flash.floor ≤ i.secver.toNat)

/-- The live cores of a die. -/
def liveOn (s : State) (die : Nat) : List Nat := ((List.range 192).map (192 * die + ·)).filter (coreLive s)

/-- DIE_FIRMWARE_UPDATE, one die at a time: new work stops, running tasks are pre-empted, and once none is left the die's clusters leave; with
valid firmware they return. (DESIGN CHOICE, log 42.) -/
def execDieFirmwareUpdate (die : Nat) (phase : ServicePhase) (image : FwImage) (s : State) : Host.Outcome State Fault Refusal :=
  event (if s.stage ≠ .ready ∨ 2 ≤ die then s
    else match phase with
    | .leave =>
      if s.quiet.any fun q => q.1 != die || q.2 != 0 then s
      else
        let t := { s with quiet := (die, 0) :: s.quiet.filter fun q => q.1 != die }
        let gs := liveOn t die
        if gs.any fun g => inUse t (.core g false) then gs.foldl (fun u g => askStop u g .class0) t
        else
          let t := { t with quiet := (die, t.rmap.cores &&& dieMask die) :: s.quiet.filter fun q => q.1 != die }
          publishChange t 2 none (.clusters die false)
    | .back =>
      if (s.quiet.any fun q => q.1 == die && q.2 != 0) = true ∧ imageOk s image = true then
        let t := publishChange s 3 none (.clusters die true)
        { t with quiet := t.quiet.filter fun q => q.1 != die, dieFw := image.digest, flash := { t.flash with die := image } }
      else s)

/-- RUREL_PORT_RETRAINING. -/
def execRurelPortRetraining (port : Nat) (phase : ServicePhase) (s : State) : Host.Outcome State Fault Refusal :=
  let u : UnitId := { kind := 6, module := s.fabric, die := port / 12, index := 4 * port }
  event (if s.stage ≠ .ready then s
    else match phase with
    | .leave => if causeOk s 2 (some u) (.port port false) then publishChange s 2 (some u) (.port port false) else s
    | .back =>
      if causeOk s 3 (some u) (.port port true) then returned (publishChange s 3 (some u) (.port port true)) (.port port true)
      else s)

/-- MODULE_REPLACEMENT. -/
def execModuleReplacement (fabric : Nat) (phase : ServicePhase) (s : State) : Host.Outcome State Fault Refusal :=
  let j := match phase with | .leave => false | .back => true
  event (if s.stage = .ready ∧ moves s (.module fabric j) = true then publishChange s 6 none (.module fabric j) else s)

end Sys2Proof.Machine
end

