-- ==== Sys2Proof/Machine/Power.lean ====
section
/-! DEFINITION. Clocks, heat and supply, bring-up and firmware (01 R15-R22, 22 R403-R406). -/

namespace Sys2Proof.Machine

/-! Clock steps (01 R16, R18, R20). -/

/-- A notice to the board controller: 1 input below 44 V, 2 above 54 V, 3 heat, 4 power failure. (DESIGN CHOICE, log 45.) -/
def notify (s : State) (n : Nat) : State := { s with hostOut := s.hostOut ++ [.boardNotice n] }

/-- The clocks one step lower, down to the floor, as a version of the map; none is taken under the recovery image, where the module has
published no map (DESIGN CHOICE, log 62). -/
def clockDown (s : State) : State :=
  if s.rmap.version ≠ 0 ∧ 1250 ≤ s.rmap.aclk then publishChange s 4 none (.clock (s.rmap.aclk - 250)) else s

/-- THERMAL_CLOCK_STEP (01 R18). -/
def execThermalClockStep (s : State) : Host.Outcome State Fault Refusal := event (clockDown s)

/-- THERMAL_SHUTDOWN (01 R18): every core stops until power is removed. (DEDUCED, log 25.) -/
def execThermalShutdown (s : State) : Host.Outcome State Fault Refusal :=
  event (notify { s with power := { s.power with stopped := true } } 3)

/-- An excursion below 44 V begins, if none is under way: the speed before it is kept, and the board controller is told once. -/
def beginUnder (s : State) : State :=
  let p := s.power
  let t := { s with power := { p with under := some (p.under.getD s.rmap.aclk), noticed := true } }
  if p.noticed then t else notify t 1

/-- UNDERVOLT_CLOCK_STEP (01 R20). -/
def execUndervoltClockStep (millivolt : Nat) (s : State) : Host.Outcome State Fault Refusal :=
  event (if 42000 ≤ millivolt ∧ millivolt < 44000 then clockDown (beginUnder s) else s)

/-- The excursion is over. -/
def endUnder (s : State) : State := { s with power := { s.power with under := none, noticed := false } }

/-- UNDERVOLT_RECOVERY_STEP (01 R20): one step up, to the speed in force before the excursion, which the last of these steps ends: a new
fall below 44 V on the way up sends no second notice and keeps the speed to return to (DESIGN CHOICE, log 62). -/
def execUndervoltRecoveryStep (s : State) : Host.Outcome State Fault Refusal :=
  event (match s.power.under with
    | none => s
    | some f =>
      if s.rmap.version ≠ 0 ∧ s.rmap.aclk + 250 ≤ f then
        let t := publishChange s 4 none (.clock (s.rmap.aclk + 250))
        if f < s.rmap.aclk + 500 then endUnder t else t
      else endUnder s)

/-- What the outside has seen, and what its choices are, stays through a loss of the module's state; firmware flash and identity
store keep their contents (01 R21), and the module its number on the fabric (DESIGN CHOICE, log 62). -/
def lostState (s : State) : State :=
  { State.reset with sched := s.sched, ticks := s.ticks, freeCount := s.freeCount, hostOut := s.hostOut, events := s.events,
                     wire := s.wire, fabric := s.fabric, flash := { s.flash with booted := none } }

/-- Power failure (01 R19): every core stops at once, no logical state is rebuilt, every context is lost; each sector holds what it
held until power is removed. (DEDUCED, log 26.) -/
def failPower (s : State) : State :=
  let t := lostState s
  notify { t with time := s.time, mem := s.mem, marks := s.marks, soft := s.soft, stage := .failed, power := { t.power with failed := true } } 4

/-- POWER_FAILURE. -/
def execPowerFailure (s : State) : Host.Outcome State Fault Refusal := event (if s.power.on then failPower s else s)

/-- VOLTAGE_DIP (01 R20): ridden through and counted; one of 100 µs is a power failure. -/
def execVoltageDip (microseconds : Nat) (s : State) : Host.Outcome State Fault Refusal :=
  event (if microseconds < 100 then hostBump (beginUnder s) 1 else failPower s)

/-- OVERVOLTAGE_NOTIFY (01 R20): once per excursion; an input back in range ends it. One above 56 V that does not last 10 µs has no row of
the rule's table and changes nothing (DESIGN CHOICE, log 62). -/
def execOvervoltageNotify (millivolt : Nat) (s : State) : Host.Outcome State Fault Refusal :=
  event (if 54000 < millivolt ∧ millivolt ≤ 56000 then
      let t := { s with power := { s.power with overNote := true } }
      if s.power.overNote then t else notify t 2
    else if millivolt ≤ 54000 then { s with power := { s.power with overNote := false } }
    else s)

/-- POWER_REMOVAL (01 R21). -/
def execPowerRemoval (s : State) : Host.Outcome State Fault Refusal :=
  let t := lostState s
  event { t with power := { t.power with on := false }, flash := { t.flash with boots := t.flash.boots + 1 } }

/-! Bring-up (22 R403-R406). -/

/-- The slot the boot ROM boots, none for the recovery image; `some true` is slot B (22 R404, R405). -/
def bootSlot (s : State) (bootsel : Bool) : Option Bool :=
  if bootsel then none
  else
    match s.flash.slotA.filter (imageOk s), s.flash.slotB.filter (imageOk s) with
    | some a, some b => some (decide (a.secver.toNat < b.secver.toNat))
    | some _, none => some false
    | none, some _ => some true
    | none, none => none

/-- The map with every unit live. -/
def fullMap (s : State) : RMap :=
  { RMap.none with cores := BitVec.allOnes 384, l2 := BitVec.allOnes 96, rdc := BitVec.allOnes 16, banks := BitVec.allOnes 96,
                   channels := BitVec.allOnes 192, ports := BitVec.allOnes 24, bridge := BitVec.allOnes 16,
                   damask := BitVec.allOnes 2, mgmt := BitVec.allOnes 8, caps := padTo 128 s.flash.caps }

/-- What self-test finds in the units that this module has. -/
def foundHere (s : State) (tests : List SelfTest) : List SelfTest :=
  tests.filter fun t => t.unit.module == s.fabric && unitExists t.unit

/-- The map without the units that failed a test. -/
def testedMap (s : State) (tests : List SelfTest) : RMap :=
  (foundHere s tests).foldl (fun m t => changeMap { s with rmap := m } (changeOf t.unit false)) (fullMap s)

/-- The cores of a die leave where none of its management cores passes (22 R406). -/
def managed (m : RMap) (mg : BitVec 8) : RMap :=
  let keep (die : Nat) : BitVec 384 := if mg.toNat / 16 ^ die % 16 = 0 then 0 else dieMask die
  { m with mgmt := mg, cores := m.cores &&& (keep 0 ||| keep 1) }

/-- HOMES of VERSION 1 (20 R375). -/
def firstHomes (l2 : BitVec 96) : List Byte :=
  (List.range 2).flatMap fun d =>
    let live := liveSlices l2 d
    (List.range 4096).map fun i => BitVec.ofNat 8 (live.getD (i % max 1 live.length) 0)

/-- LAT of VERSION 1: measured latencies, each from 1 to 254 (20 R375). -/
def firstLat (lat : List Byte) : List Byte :=
  (padTo 36864 lat).map fun b => BitVec.ofNat 8 (max 1 (min 254 b.toNat))

/-- The ports of a map, fresh from training. -/
def trainPorts (m : RMap) : List (Nat × Port) :=
  ((List.range 24).filter fun n => m.ports.getLsbD n).map fun n => (n, trained)

/-- The module stays out of READY. -/
def stayOut (s : State) : State := { s with stage := .failed, bring := none }

/-- The recovery image comes up: one management core that passes its ROM check and the lowest live port (22 R405). -/
def recoveryUp (s : State) (b : BringUp) : State :=
  let m := testedMap s b.tests
  let one (v n : Nat) : Nat := ((List.range n).find? fun i => v.testBit i).elim 0 (2 ^ ·)
  let m1 : RMap := { RMap.none with mgmt := BitVec.ofNat 8 (one (m.mgmt &&& b.romOk).toNat 8), ports := BitVec.ofNat 24 (one m.ports.toNat 24) }
  { s with stage := .recovery, bring := none, report := foundHere s b.tests, rmap := m1, ports := trainPorts m1,
           flash := { s.flash with booted := none } }

/-- Steps 2 and 3 of 22 R403: the boot ROM runs on a management core that passes its ROM check, and starts a slot's firmware or the recovery
image. -/
def romStep (s : State) (b : BringUp) : State :=
  if b.romOk = 0 then stayOut s
  else
    match bootSlot s b.bootsel with
    | none => recoveryUp s b
    | some n => { s with stage := .selftest, flash := { s.flash with booted := some n } }

/-- Step 4: self-test, whose findings count at host level (17 R337, 22 R406). -/
def testStep (s : State) (b : BringUp) : State :=
  let m := testedMap s b.tests
  let t := (foundHere s b.tests).foldl (fun u _ => hostBump u 2) { s with report := foundHere s b.tests }
  if m.mgmt &&& b.romOk = 0 then stayOut t else { t with bring := some { b with map := some (managed m (m.mgmt &&& b.romOk)) } }

/-- Step 5: VERSION 1 with CAUSE 7, the die firmware checked and started, the ports trained; without valid die firmware the module stays out of
READY (DESIGN CHOICE, log 62). -/
def publishFirst (s : State) (b : BringUp) (m : RMap) : State :=
  if imageOk s s.flash.die = false then stayOut s
  else
    let m1 : RMap := { m with version := 1, time := s.time, cause := 7, unit := none, homes := firstHomes m.l2, lat := firstLat b.lat }
    { s with rmap := m1, ports := trainPorts m1, dieFw := s.flash.die.digest }

/-- Step 6: READY; the anti-rollback counter is raised to the SECVER that has booted (22 R405). -/
def readyStep (s : State) : State :=
  let image := if s.flash.booted = some true then s.flash.slotB else s.flash.slotA
  let sv := (image.map fun i => i.secver.toNat).getD 0
  { s with stage := .ready, bring := none, flash := { s.flash with secver := sv, floor := max s.flash.floor sv } }

/-- The next step of a bring-up under way (22 R403). -/
def bringStep (s : State) (b : BringUp) : State :=
  match s.stage, b.map with
  | .boot, _ => romStep s b
  | .selftest, none => testStep s b
  | .selftest, some m => if s.rmap.version = 0 then publishFirst s b m else readyStep s
  | _, _ => { s with bring := none }

/-- MOD_RESET_RELEASE: the module comes up from nothing, step by step (22 R403). -/
def execModResetRelease (bootsel : Bool) (tests : List SelfTest) (lat : List Byte) (romOk : BitVec 8) (s : State) :
    Host.Outcome State Fault Refusal :=
  event (if s.power.on = true ∧ (s.stage ≠ .reset ∨ s.power.stopped = true) then s
    else
      { (if s.power.on then s else lostState s) with
        stage := .boot, bring := some { bootsel := bootsel, tests := tests, lat := lat, romOk := romOk, map := none } })

/-! Firmware and attestation (17 R340, 22 R405). -/

/-- A firmware image put into the slot that did not boot. -/
def writeSlot (s : State) (i : FwImage) : State :=
  let toB := match s.flash.booted with | some b => !b | none => Config.recoverySlot
  { s with flash := if toB then { s.flash with slotB := some i } else { s.flash with slotA := some i } }

/-- Whether the module answers its host: READY, or under the recovery image. -/
def answers (s : State) : Bool := s.stage == .ready || s.stage == .recovery

/-- FIRMWARE_SLOT_WRITE. -/
def execFirmwareSlotWrite (image : FwImage) (s : State) : Host.Outcome State Fault Refusal :=
  event (if answers s then writeSlot s image else s)

/-- A list of numbers after its length. -/
def counted (l : List Nat) : List Nat := l.length :: l

/-- Pairs of numbers after how many they are. -/
def countedPairs (l : List (Nat × Nat)) : List Nat := l.length :: l.flatMap fun w => [w.1, w.2]

/-- The numbers of a partition's configuration that its digest covers: ownership, fabric ID and weight (17 R327, R340). -/
def configNumbers (c : PartConfig) : List Nat :=
  [c.part, c.clusters.toNat] ++ countedPairs c.ways ++ countedPairs c.staging ++ counted c.banks ++ counted c.ranges
    ++ [c.entries0, c.entries1] ++ counted c.bytes0 ++ counted c.bytes1 ++ [c.ringSize, c.fpid.toNat, c.weight]

/-- The digest of the boot firmware that runs. -/
def bootDigest (s : State) : BitVec 256 :=
  match s.flash.booted with
  | some b => ((if b then s.flash.slotB else s.flash.slotA).map FwImage.digest).getD 0
  | none => s.flash.recovery.digest

/-- The 160 bytes of an attestation report (17 R340). -/
def reportBytes (s : State) (p : Partition) (nonce : BitVec 256) : List Byte :=
  bytesOf 32 nonce.toNat ++ bytesOf 16 Config.serial.toNat ++ bytesOf 8 s.rmap.version ++ bytesOf 32 (bootDigest s).toNat
    ++ bytesOf 32 s.dieFw.toNat ++ bytesOf 32 (Config.digest (configNumbers p.cfg)).toNat ++ bytesOf 4 p.cfg.part ++ bytesOf 4 0

/-- The signed report on a partition for a nonce, with the attestation key and its signature under the identity key; serial number, the
configuration's digest, keys and signatures are free values (17 R339, R340; DESIGN CHOICE, log 2). -/
def attest (s : State) (part : Nat) (nonce : BitVec 256) : State :=
  match partOf s part with
  | some p =>
    let r := reportBytes s p nonce
    let k := bytesOf 1952 (Config.publicKey (s.flash.boots + 1)).toNat
    { s with hostOut := s.hostOut ++ [.attestation r (bytesOf 3309 (Config.signature (s.flash.boots + 1) r).toNat) k
        (bytesOf 3309 (Config.signature s.flash.identity k).toNat)] }
  | none => s

/-- ATTESTATION_REQUEST. -/
def execAttestationRequest (part : Nat) (nonce : BitVec 256) (s : State) : Host.Outcome State Fault Refusal :=
  event (attest s part nonce)

end Sys2Proof.Machine
end

