-- ==== Sys2Proof/Machine/Manage.lean ====
section
/-! DEFINITION. Partitions, resources, counters and the management registers (17 R327, R328, R332, R336, R337, 22 R407, R408,
24 R412). -/

namespace Sys2Proof.Machine

/-! Counters (17 R336, R337). -/

/-- A virtual function's counter, which its read clears. -/
def readCounter (s : State) (part index : Nat) : State :=
  match partOf s part with
  | none => s
  | some p =>
    updPart { s with hostOut := s.hostOut ++ [.counter part index (p.counters.getD index 0)] } part fun q =>
      { q with counters := q.counters.setIfInBounds index 0 }

/-- ERROR_COUNTER_READ. -/
def execErrorCounterRead (part index : Nat) (s : State) : Host.Outcome State Fault Refusal :=
  event (if index < 8 then readCounter s part index else s)

/-- A host-level counter, which its read clears (22 R407). -/
def readHostCounter (s : State) (index : Nat) : State :=
  { s with hostOut := s.hostOut ++ [.hostCounter index ((assoc s.hostCnt index).getD 0)], hostCnt := unassoc s.hostCnt index }

/-- HOST_ERROR_COUNTER_READ (22 R407). -/
def execHostErrorCounterRead (index : Nat) (s : State) : Host.Outcome State Fault Refusal := event (readHostCounter s index)

/-- PATROL_SCRUB (17 R337): an error found, corrected or not, counts at host level, under 3. -/
def execPatrolScrub (sector : Nat) (s : State) : Host.Outcome State Fault Refusal :=
  event (match assoc s.marks sector with
    | some .uncorrectable => hostBump s 3
    | some .badTag => hostBump s 3
    | some .poison => s
    | some .cache => s
    | none => if s.soft.contains sector then hostBump s 3 else s)

/-! ERRINJ (24 R412) and the register blocks (22 R407, R408). -/

/-- Whether a word may be written to ERRINJ. -/
def errinjOk (v : Word) : Bool :=
  let n := v.toNat
  (n / 2 ^ 60 == 0 || n / 2 ^ 60 == 3) && n / 2 ^ 48 % 2 ^ 12 == 0 && n / 2 ^ 41 % 2 ^ 3 == 0

/-- The error-injection word armed, or the write refused. -/
def writeErrinj (s : State) (v : Word) : State :=
  if errinjOk v then { s with errinj := v, errCount := 0 } else { s with hostOut := s.hostOut ++ [.refused 0x0202] }

/-- ERRINJ_WRITE; the recovery image takes none, and before READY there is no one to take it (22 R403, R405). -/
def execErrinjWrite (v : Word) (s : State) : Host.Outcome State Fault Refusal :=
  event (if s.stage = .ready then writeErrinj s v else s)

/-- MGMT_REGISTER_WRITE: a read-only block, or a virtual function's write to blocks 3 to 7, is refused with 0x0202. Of the
host's blocks the manual lays out ERRINJ alone; what the others carry are the host's commands (DESIGN CHOICE, log 21). -/
def execMgmtRegisterWrite (by_ : MgmtWriter) (block off : Nat) (v : Word) (s : State) : Host.Outcome State Fault Refusal :=
  let no : State := { s with hostOut := s.hostOut ++ [.refused 0x0202] }
  event (if block ≤ 2 ∨ block = 5 then no
    else match by_ with
      | .virtualFunction _ => if block ≤ 7 then no else s
      | .host => if block = 6 ∧ off = 0 ∧ s.stage = .ready then writeErrinj s v else s)

/-- STATE of block 0 (22 R408). -/
def stageCode (g : Stage) : Nat :=
  match g with | .reset => 0 | .boot => 1 | .selftest => 2 | .ready => 3 | .recovery => 4 | .failed => 5

/-- TEST of a self-test entry (22 R406). -/
def testCode (t : TestKind) : Nat :=
  match t with | .logicScan => 1 | .sramMarch => 2 | .linkTraining => 3 | .gddr7Training => 4 | .sensor => 5

/-- The self-test report: the entry count, then unit ID, TEST and DETAIL of each entry (22 R406, R407). -/
def reportOf (s : State) : List Byte :=
  bytesOf 8 s.report.length ++ s.report.flatMap fun e => bytesOf 8 (UnitBits e.unit) ++ bytesOf 4 (testCode e.test) ++ bytesOf 4 e.detail.toNat

/-- Launch and serial of the tasks of a partition that the debugger has halted. -/
def haltedIn (s : State) (part : Nat) : List (Nat × Nat) :=
  (((allCores s).filter fun c => isHalted c && c.task.part == part).map fun c => (c.task.launch, c.task.serial))
    ++ (s.saved.filter fun v => v.cause == .debugger && v.core.task.part == part).map fun v => (v.core.task.launch, v.core.task.serial)

/-- A read of a register block: STATUS as its fields, since the manual gives them no places; the doubleword at an offset of the self-test
report and of the resource map; each partition's configuration with whether its key slots hold a key, which no read gives away; each partition's
save areas and halted tasks; the counter of an index, cleared; ERRINJ at offset 0; block 7 holds what its commands answer (22 R407, R408; DESIGN
CHOICE, log 21). -/
def readBlock (s : State) (block off : Nat) : State :=
  let say (l : List HostReply) : State := { s with hostOut := s.hostOut ++ l }
  match block with
  | 0 => say [.status (stageCode s.stage) s.flash.secver s.flash.booted (s.stage == .recovery)]
  | 1 => say [.block 1 off (BitVec.ofNat 64 (natOf (((reportOf s).drop off).take 8)))]
  | 2 => say [.block 2 off (mapWord s.rmap off)]
  | 3 => say (s.parts.map fun p => .config p.cfg p.key0.isSome p.key1.isSome)
  | 4 => say (s.parts.map fun p => .saveAreas p.cfg.part p.saveBase (haltedIn s p.cfg.part))
  | 5 => readHostCounter s off
  | 6 => if off = 0 then say [.errinj s.errinj] else say [.block 6 off 0]
  | 7 => say [.block 7 off 0]
  | _ => s

/-! Partitions (17 R327, R332). -/

/-- Whether two lists share a member. -/
def shares {β : Type} [BEq β] (a b : List β) : Bool := a.any fun x => b.contains x

/-- Whether a partition owns something that a configuration names. -/
def ownsPart (c : PartConfig) (p : Partition) : Bool :=
  p.cfg.clusters &&& c.clusters != 0 || shares p.cfg.ways c.ways || shares p.cfg.staging c.staging || shares p.cfg.ways c.staging
    || shares p.cfg.staging c.ways || shares p.cfg.banks c.banks || shares p.cfg.ranges c.ranges

/-- Bytes of a pool on a die that a configuration owns: GDDR-7 ranges, stack banks, staging ways (13 R256, 17 R327). -/
def poolBytes (c : PartConfig) (die pool : Nat) : Nat :=
  match pool with
  | 0 => Config.rangeBytes * (c.ranges.filter fun r => r / 96 == die).length
  | 1 => Config.bankBytes * (c.banks.filter fun b => b / 48 == die).length
  | 2 => Config.wayBytes * (c.staging.filter fun w => w.1 / 48 == die).length
  | _ => 0

/-- Whether a configuration promises of each pool no more bytes than it owns there (DEDUCED, log 41). -/
def bytesOk (c : PartConfig) : Bool :=
  (List.range 3).all fun n => c.bytes0.getD n 0 ≤ poolBytes c 0 n && c.bytes1.getD n 0 ≤ poolBytes c 1 n

/-- A configuration whose quotas of bytes keep within what it owns. -/
def clipBytes (c : PartConfig) : PartConfig :=
  { c with bytes0 := (List.range 3).map fun n => min (c.bytes0.getD n 0) (poolBytes c 0 n),
           bytes1 := (List.range 3).map fun n => min (c.bytes1.getD n 0) (poolBytes c 1 n) }

/-- Whether a configuration names units that exist and no partition owns, within the limits of 17 R327; no die's tile table is promised twice
(13 R259). -/
def configOk (s : State) (c : PartConfig) : Bool :=
  decide (c.part < 16) && (s.parts.all fun p => p.cfg.part != c.part && p.cfg.fpid != c.fpid && !ownsPart c p)
    && c.fpid != 0xFFFF && decide (1 ≤ c.weight) && decide (c.weight ≤ 255) && decide (1 ≤ c.ringSize)
    && decide (c.ringSize ≤ 2 ^ 20) && (c.ways.all fun w => w.1 < 96 && w.2 < 16) && (c.staging.all fun w => w.1 < 96 && w.2 < 16)
    && decide ((s.parts.map fun p => p.cfg.entries0).sum + c.entries0 ≤ Config.tileEntries)
    && decide ((s.parts.map fun p => p.cfg.entries1).sum + c.entries1 ≤ Config.tileEntries)
    && bytesOk c && !shares c.ways c.staging && (c.banks.all fun b => b < 96) && (c.ranges.all fun r => r < 192)

/-- Every byte of a range of storage reads as zero and passes its check (17 R328). -/
def wipe (s : State) (lo n : Nat) : State :=
  { s with mem := cellsClear s.mem lo n, marks := s.marks.filter fun m => !(lo ≤ 64 * m.1 && 64 * m.1 < lo + n),
           soft := s.soft.filter fun k => !(lo ≤ 64 * k && 64 * k < lo + n) }

/-- Storage wiped, with the copies of it that L1s and remote views hold. -/
def wipeAll (s : State) (lo n : Nat) : State :=
  let clean (c : Core) : Core := { c with l1 := c.l1.filter fun e => !(lo ≤ e.1 && e.1 < lo + n) }
  { wipe s lo n with me := clean s.me, others := s.others.map clean,
                     rv := s.rv.filter fun e => !(lo ≤ 64 * e.1.2 && 64 * e.1.2 < lo + n) }

/-- The storage a configuration names, wiped (03 R51). -/
def wipeConfig (s : State) (c : PartConfig) : State :=
  let t := c.ranges.foldl (fun u r => wipeAll u (gddrKey r 0) Config.rangeBytes) s
  let t := c.banks.foldl (fun u b => wipe u (stackKey b 0) Config.bankBytes) t
  c.staging.foldl (fun u w => wipe u (stagingKey w.1 w.2 0) Config.wayBytes) t

/-- The context of a new partition (03 R46, R54): virtual time as a count over `vden` (15 R305). (DEDUCED, log 41.) -/
def newPart (s : State) (c : PartConfig) : Partition :=
  { noPart with cfg := c, ctx := s.ctxNext, vden := 1000 * c.weight, acked := s.rmap.version, xtsKey := Config.xtsKey s.ctxNext, tagKey := Config.tagKey s.ctxNext,
                globTop := 2 ^ 16 }

/-- A partition created on wiped storage, if the module is READY and its configuration stands. -/
def createPartition (s : State) (cfg : PartConfig) : State :=
  if s.stage = .ready ∧ configOk s cfg = true then
    let t := wipeConfig s cfg
    { t with parts := t.parts ++ [newPart s cfg], ctxNext := t.ctxNext + 1 }
  else s

/-- PARTITION_CREATE (17 R332). -/
def execPartitionCreate (cfg : PartConfig) (s : State) : Host.Outcome State Fault Refusal := event (createPartition s cfg)

/-- The handles left in a partition's mailboxes, and those on their way to them, end as by a kill (13 R273). -/
def endMail (s : State) (part : Nat) : State :=
  let hs := ((s.mailboxes.filter fun m => m.1.1 == part).flatMap Prod.snd)
    ++ ((s.outHands.filter fun o => o.part == part).map OutHandle.handle)
  let t := asTask { Task.none with part := part } (fun u => hs.foldl killHandle u) s
  { t with mailboxes := t.mailboxes.filter fun m => m.1.1 != part, outHands := t.outHands.filter fun o => o.part != part }

/-- A partition's versions, with their storage, are freed with its context. -/
def endVersions (s : State) (part : Nat) : State :=
  freeVersions { s with versions := s.versions.map fun v =>
    if v.part = part then { v with cur := false, see := 0, state := if v.state = .filling then .abandoned else v.state } else v }

/-- PARTITION_END (17 R332, 13 R273): its tasks are killed and its launches complete, then everything that is its own goes. -/
def endPartition (s : State) (part : Nat) : State :=
  let t := endMail (killContext s part) part
  let t := (t.launches.filter fun l => l.part == part && launchOver l).foldl completeLaunch t
  let t := endVersions t part
  { t with parts := t.parts.filter fun p => p.cfg.part != part, kernels := t.kernels.filter fun k => k.part != part,
           reserved := t.reserved.filter fun r => !t.launches.any fun l => l.id == r.2 && l.part == part,
           launches := t.launches.filter fun l => l.part != part, tlb := t.tlb.filter fun e => e.part != part,
           homes := t.homes.filter fun h => h.desc.part != part, retained := t.retained.filter fun r => r.part != part,
           outs := t.outs.filter fun o => o.part != part,
           ccache := t.ccache.filter fun e => !((partOf s part).map fun p => p.cfg.clusters.getLsbD e.1.1).getD false }

/-- PARTITION_END. -/
def execPartitionEnd (part : Nat) (s : State) : Host.Outcome State Fault Refusal :=
  event (match partOf s part with | some _ => endPartition s part | none => s)

/-! A resource moves (17 R328). -/

/-- Whether a task of a partition is on a resource. -/
def onResource (s : State) (part : Nat) (r : Resource) : Bool :=
  ((allCores s).any fun c => c.run != .idle && c.task.part == part
    && (match r with | .cluster n => coreCluster c.id == n | _ => true))
    || s.saved.any fun v => v.core.task.part == part
      && (match r, v.onCore with | .cluster n, some g => coreCluster g == n | _, _ => false)

/-- A resource as a configuration of its own. -/
def soleConfig (c : PartConfig) (r : Resource) : PartConfig :=
  let e : PartConfig := { c with clusters := 0, ways := [], staging := [], banks := [], ranges := [] }
  match r with
  | .cluster n => { e with clusters := 1#48 <<< n }
  | .way a b => { e with ways := [(a, b)] }
  | .stagingWay a b => { e with staging := [(a, b)] }
  | .bank n => { e with banks := [n] }
  | .range n => { e with ranges := [n] }

/-- Whether a configuration names a resource as what it is. -/
def namesResource (c : PartConfig) (r : Resource) : Bool :=
  match r with
  | .cluster n => c.clusters.getLsbD n
  | .way a b => c.ways.contains (a, b)
  | .stagingWay a b => c.staging.contains (a, b)
  | .bank n => c.banks.contains n
  | .range n => c.ranges.contains n

/-- A configuration without what another names. -/
def without (c d : PartConfig) : PartConfig :=
  { c with clusters := c.clusters &&& ~~~d.clusters, ways := c.ways.filter fun x => !d.ways.contains x,
           staging := c.staging.filter fun x => !d.staging.contains x, banks := c.banks.filter fun x => !d.banks.contains x,
           ranges := c.ranges.filter fun x => !d.ranges.contains x }

/-- A configuration with what another names. -/
def together (c d : PartConfig) : PartConfig :=
  { c with clusters := c.clusters ||| d.clusters, ways := c.ways ++ d.ways, staging := c.staging ++ d.staging,
           banks := c.banks ++ d.banks, ranges := c.ranges ++ d.ranges }

/-- Sectors with a condition or an error that their ECC corrects, into which a core's L1 holds part of a sector dirty: the write-back of each
is a finding (17 R335). -/
def findingsOf (s : State) : Nat :=
  ((dirtySectors s).filter fun sec => (markOf s (64 * sec)).isSome || s.soft.contains sec).length

/-- A moved core keeps nothing: what its L1 holds dirty is written back, then L1 and scratch are cleared. What the handover finds counts at
host level, under 2 (17 R328, R337). -/
def clearCore (s : State) (g : Nat) : State :=
  let t := onCore g (fun u =>
    let n := findingsOf u
    let v := writeBackAll { u with me := { u.me with task := Task.none } }
    let v := (List.range n).foldl (fun w _ => hostBump w 2) { v with parts := u.parts }
    { v with me := { v.me with task := u.me.task, l1 := [], lastCtx := none } }) s
  wipe t (scratchKey g 0) Config.scratchBytes

/-- The steps of 17 R328 for one resource. -/
def clearResource (s : State) (r : Resource) : State :=
  match r with
  | .cluster n =>
    let t := (List.range 8).foldl (fun u i => clearCore u (8 * n + i)) s
    { t with ccache := t.ccache.filter fun e => e.1.1 != n }
  | .way _ _ => s
  | .stagingWay a b => wipe s (stagingKey a b 0) Config.wayBytes
  | .bank n => wipe s (stackKey n 0) Config.bankBytes
  | .range n => wipeAll s (gddrKey n 0) Config.rangeBytes

/-- A resource moves once no task of the source is on it. -/
def moveResource (res : Resource) (src dst : Nat) (s : State) : State :=
  match partOf s src, partOf s dst with
    | some p, some _ =>
      let d := soleConfig p.cfg res
      if src = dst ∨ onResource s src res = true ∨ namesResource p.cfg res = false then s
      else
        let t := clearResource s res
        let t := updPart t src fun q => { q with cfg := clipBytes (without q.cfg d) }
        settleRoom (updPart t dst fun q => { q with cfg := together q.cfg d })
    | _, _ => s

/-- RESOURCE_MOVE (17 R328). -/
def execResourceMove (res : Resource) (src dst : Nat) (s : State) : Host.Outcome State Fault Refusal := event (moveResource res src dst s)

end Sys2Proof.Machine
end

