-- ==== Sys2Proof/Machine/Fabric.lean ====
section
/-! DEFINITION. The Rurel link and the packets of the fabric: flits and credit (21 R384-R387), packets applied once at their
destination (13 R274, 21 R389, R392), acknowledgements, resends, host commands (21 R391, 22 R407). -/

namespace Sys2Proof.Machine

/-! The link (21 R385-R387). -/

/-- Flits in a port's replay buffer at most. -/
def replayCap : Nat := 2048
/-- Places of a receive buffer, the most credit a sender may hold. -/
def creditCap : Nat := 512
/-- Replays of one flit that fail a port. -/
def replayLimit : Nat := 16
/-- Bytes of a packet header and of a flit's payload (R385, R388). -/
def headerBytes : Nat := 48
/-- Payload of a flit. -/
def flitBytes : Nat := 246

/-- Payload bytes of a packet body (R388, LEN). (DESIGN CHOICE, log 28.) -/
def payloadLen (b : PacketBody) : Nat :=
  match b with
  | .readResponse bs _ => bs.length
  | .write _ bs _ => bs.length
  | .atomic _ _ _ _ _ _ _ => 24
  | .copySector _ _ bs _ _ _ => bs.length
  | .reduceSector _ _ _ _ bs _ _ _ => bs.length
  | .launch _ bs => bs.length
  | .event _ => 64
  | .gradient _ _ _ bs => bs.length
  | .publication _ _ _ bs _ _ _ => bs.length
  | _ => 64

/-- The flits of a packet; SEQ, ACK and CRED are filled in when one is sent. The last carries the packet whole. -/
def flitsOf (p : Packet) : List Flit :=
  let n := (headerBytes + payloadLen p.body + flitBytes - 1) / flitBytes
  (List.range n).map fun i =>
    { seq := 0, ack := 0, nak := false, kind := if i = 0 then 1 else 2, cred := 0, crcOk := true,
      packet := if i + 1 = n then some p else none }

/-- The 48 bytes of a packet's header (R388); `ktag` is its key tag. -/
def packetHeader (p : Packet) (ktag addr : Nat) (last : Bool) : List Byte :=
  bytesOf 1 p.ptype ++ bytesOf 1 ((if p.epoch then 1 else 0) + if last then 2 else 0) ++ bytesOf 2 p.fpid.toNat
    ++ bytesOf 2 (p.src % 2 ^ 12 + p.srcDie % 2 * 2 ^ 12) ++ bytesOf 2 (p.dst % 2 ^ 12 + p.dstDie % 2 * 2 ^ 12)
    ++ bytesOf 4 (payloadLen p.body) ++ bytesOf 4 ktag ++ bytesOf 8 p.xid ++ bytesOf 8 addr ++ bytesOf 8 p.stamp ++ bytesOf 8 0

/-- The 256 bytes of a flit with its packet bytes (R385). -/
def flitWire (f : Flit) (payload : List Byte) : List Byte :=
  let b := bytesOf 2 f.seq.toNat ++ bytesOf 2 (f.ack.toNat + if f.nak then 2 ^ 12 else 0) ++ bytesOf 1 f.kind ++ bytesOf 1 f.cred
    ++ padTo flitBytes payload
  b ++ bytesOf 4 (crc32c 0 b).toNat

/-- The 64 bytes of an event (R391). -/
def eventBytes (e : EventMsg) : List Byte :=
  bytesOf 2 e.code ++ bytesOf 2 e.vec ++ bytesOf 1 e.part ++ bytesOf 3 0 ++ bytesOf 8 (e.launch % 2 ^ 64) ++ bytesOf 4 e.killed
    ++ bytesOf 4 e.cancelled ++ bytesOf 2 e.first ++ bytesOf 6 0 ++ bytesOf 8 e.lsn ++ bytesOf 8 ((e.unit.map UnitBits).getD 0)
    ++ bytesOf 8 e.time ++ bytesOf 8 0

/-- A port replaced. -/
def setPort (s : State) (n : Nat) (p : Port) : State := { s with ports := reassoc s.ports n p }

/-- A flit leaves a port for the first time: it takes the next SEQ, carries ACK, NAK and a grant, and stays for replay. -/
def emitFlit (s : State) (n : Nat) (p : Port) (f : Flit) : State :=
  let g : Flit := { f with seq := p.next, ack := p.got, nak := p.nak, cred := min 255 p.grant }
  setPort { s with wire := s.wire ++ [(n, g)] } n
    { p with next := p.next + 1, nak := false, owes := false, replay := p.replay ++ [(g, 0)], grant := p.grant - min 255 p.grant,
             moved := if p.replay.isEmpty then s.time else p.moved }

/-- A port sends: the next flit of its packet against credit, else an idle flit where it owes a grant, a NAK or an ACK, or holds no credit
(21 R387). -/
def portSends (s : State) (n : Nat) : State :=
  match assoc s.ports n with
  | none => s
  | some p =>
    if replayCap ≤ p.replay.length then s
    else
      match p.sending, decide (0 < p.credit) with
      | f :: rest, true => emitFlit s n { p with credit := p.credit - 1, sending := rest } f
      | _, _ =>
        if 0 < p.grant ∨ p.nak = true ∨ p.owes = true ∨ p.credit = 0 then
          emitFlit s n p { seq := 0, ack := 0, nak := false, kind := 0, cred := 0, crcOk := true, packet := none }
        else s

/-- Whether a packet is a sector of a command or a store to another module. -/
def isSector (b : PacketBody) : Bool :=
  match b with | .write _ _ _ => true | .copySector _ _ _ _ _ _ => true | .reduceSector _ _ _ _ _ _ _ _ => true | _ => false

/-- Sector index of a copy kept for a resend. -/
def indexOf (p : Packet) : Nat :=
  match p.body with
  | .copySector _ i _ _ _ _ => i
  | .reduceSector _ i _ _ _ _ _ _ => i
  | _ => 0

/-- The record that a sector's packet is a copy for: none once its command has been acknowledged in full or given up. -/
def openFor (s : State) (p : Packet) : Option Outstanding :=
  s.outs.find? fun o => o.xid == p.xid && o.dst == p.dst && o.sends.any fun x => indexOf x == indexOf p

/-- A packet of this module as it leaves now: its STAMP, and its key tag under its partition's key (17 R338, 21 R388). -/
def leaving (s : State) (p : Packet) : Packet :=
  match (if p.src = s.fabric then partByFpid s p.fpid else none) with
  | some q =>
    let k := slotKey q (sendEpoch q)
    { p with stamp := s.time, epoch := sendEpoch q, key := k.getD 0, tagOk := k.isSome }
  | none => p

/-- The launch that caused a packet of this module. -/
def causeOf (s : State) (p : Packet) : Nat :=
  match s.outs.find? fun o => o.xid == p.xid && o.dst == p.dst with
  | some o => o.launch
  | none => ((s.retained.find? fun r => r.tag == p.xid && r.dest.1 == p.dst).map Retained.launch).getD (2 ^ 128)

/-- A packet of this module that is not sent since its destination has left the map: event 0x0802, of a command once (21 R390). -/
def notSent (s : State) (p : Packet) : State :=
  if isSector p.body ∧ (openFor s p).isNone = true then s
  else
    let t := if isSector p.body then dropAwait s p.xid p.dst else s
    postEvent t 0x0802 (((partByFpid s p.fpid).map fun q => q.cfg.part).getD 0) (causeOf s p) 0 p.xid

/-- The lowest live port takes the next packet once it has sent the one before. A copy that its command no longer needs is not sent, nor one to
a module that has left the map, and one of another module that is too old is discarded (21 R390, R392). -/
def loadPort (s : State) : State :=
  match (List.range 24).find? (fun n => (assoc s.ports n).isSome), s.outbox with
  | some n, p :: rest =>
    let t : State := { s with outbox := rest }
    if p.src = s.fabric ∧ s.rmap.gone.contains p.dst = true then notSent t p
    else if p.src = s.fabric ∧ isSector p.body = true ∧ (openFor s p).isNone = true then t
    else if p.src ≠ s.fabric ∧ headerOk s p = false then hostBump t 0
    else
      match assoc s.ports n with
      | some q => if q.sending.isEmpty then setPort t n { q with sending := flitsOf (leaving s p) } else s
      | none => s
  | _, _ => s

/-- What the links do in one step. -/
def linkStep (s : State) : State := ((loadPort s).ports.map Prod.fst).foldl portSends (loadPort s)

/-- A port fails, which counts at host level (17 R337), and leaves the map with CAUSE 1 (R386). -/
def portFails (s : State) (n : Nat) : State :=
  let s := hostBump s 4
  if s.stage = .ready then
    publishChange s 1 (some { kind := 6, module := s.fabric, die := n / 12, index := 4 * n }) (.port n false)
  else dropPort s n

/-- Flits up to the acknowledged SEQ leave the replay buffer at TIME `t`, which is progress. -/
def ackFlits (p : Port) (a : BitVec 12) (t : Nat) : Port :=
  match p.replay.findIdx? fun f => f.1.seq == a with
  | some i => { p with replay := p.replay.drop (i + 1), moved := t }
  | none => p

/-- Whether a port has flits to be acknowledged and has made no progress for 1 ms (R386). -/
def portStuck (s : State) (p : Port) : Bool := !p.replay.isEmpty && decide (p.moved + 1000000 ≤ s.time)

/-- PORT_FAILURE: of a port that has made no progress for 1 ms; one that replays a flit too often or breaks the credit rule fails as it does
so. -/
def execPortFailure (port : Nat) (s : State) : Host.Outcome State Fault Refusal :=
  event (if (assoc s.ports port).any (portStuck s) then portFails s port else s)

/-- On NAK the buffer is sent again, unchanged; the port fails where a flit of it is replayed the 16th time. -/
def replayFlits (s : State) (n : Nat) (p : Port) : State :=
  if p.replay.any fun f => replayLimit ≤ f.2 + 1 then portFails (setPort s n p) n
  else setPort { s with wire := s.wire ++ p.replay.map fun f => (n, f.1) } n { p with replay := p.replay.map fun f => (f.1, f.2 + 1) }

/-- A flit accepted in order: its ACK and its credit count, its packet goes above the link, its place is granted again. A packet that names
this module as its sender comes from no port's peer and is discarded. -/
def acceptFlit (s : State) (n : Nat) (p : Port) (f : Flit) : State :=
  let q := ackFlits { p with got := f.seq, owes := true } f.ack s.time
  if creditCap < q.credit + f.cred then portFails s n
  else
    let q := { q with credit := q.credit + f.cred, grant := if f.kind = 0 then q.grant else q.grant + 1 }
    let t := match f.packet with
      | some k => if k.src = s.fabric then hostBump s 0 else { s with inbox := s.inbox ++ [k] }
      | none => s
    if f.nak then replayFlits t n q else setPort t n q

/-- FLIT_RECEIVE (R386): one whose check fails is dropped and answered with NAK, one out of order is dropped silently. -/
def execFlitReceive (port : Nat) (flit : Flit) (s : State) : Host.Outcome State Fault Refusal :=
  event (match assoc s.ports port with
    | none => s
    | some p =>
      if flit.crcOk = false ∨ 3 ≤ flit.kind then setPort (hostBump s 4) port { p with nak := true }
      else if flit.seq ≠ p.got + 1 then s
      else acceptFlit s port p flit)

/-! Marks of transfers (21 R392). -/

/-- The mark of a sender's transfer. -/
def xmarkOf (s : State) (src xid : Nat) : Option XMark := s.xmarks.find? fun m => m.src == src && m.xid == xid

/-- A mark put in its place, its window open anew. -/
def putXMark (s : State) (src xid : Nat) (vals : List (BitVec 32)) : State :=
  { s with xmarks := { src := src, xid := xid, time := s.time, vals := vals }
                       :: s.xmarks.filter fun m => !(m.src == src && m.xid == xid) }

/-- The mark of a transfer that is refused. -/
def markRefused (s : State) (src xid : Nat) : State :=
  { s with xmarks := { src := src, xid := xid, time := s.time, vals := [], bad := true }
                       :: s.xmarks.filter fun m => !(m.src == src && m.xid == xid) }

/-- Whether the transfer that a packet's sender wants applied before it has been (13 R274). -/
def inOrder (s : State) (p : Packet) : Bool :=
  match p.after with
  | none => true
  | some (x, n) => match xmarkOf s p.src x with | some m => m.bad || decide (n ≤ m.vals.length) | none => false

/-- An answer to a packet's sender, sent by no task. -/
def answer (s : State) (q : Partition) (p : Packet) (b : PacketBody) : State :=
  sendFrom s p.dstDie q.cfg.part (2 ^ 128) p.src p.srcDie p.xid b

/-- An acknowledgement of a packet. -/
def ackPacket (s : State) (q : Partition) (p : Packet) (index : Nat) (value : Option (BitVec 32)) (refused : Bool) : State :=
  answer s q p (.ack p.xid index value refused)

/-- XID_MARK_EXPIRY: 16 ms after the last sector. -/
def execXidMarkExpiry (xid : Nat) (s : State) : Host.Outcome State Fault Refusal :=
  event { s with xmarks := s.xmarks.filter fun m => !(m.xid == xid && decide (m.time + 16000000 ≤ s.time)) }

/-! Accesses at their home (13 R274). -/

/-- The version that a handle of a partition names. -/
def versionAt (s : State) (q : Partition) (v : Nat) : Option Version := (verOf s v).filter fun w => w.part == q.cfg.part

/-- The code that stops a read of global or stack bytes, if any. -/
def readCode (s : State) (q : Partition) (a n : Nat) : Option Nat :=
  (runs a n).findSome? fun r => match (resolveAt s q r.1 false).2 with
    | .error c => some c
    | .ok k => (markOf s k).map Mark.code

/-- A read of a version: through a see handle parked while it is FILLING, which through the fill handle it is not; refused where it is lost
or abandoned, else its bytes (13 R268, R269, R274). -/
def readVersion (s : State) (q : Partition) (p : Packet) (v a n : Nat) (fill : Bool) : State :=
  match versionAt s q v with
  | none => answer s q p (.readResponse [] (some 0x0401))
  | some w =>
    if 2 ^ w.k < a + n then answer s q p (.readResponse [] (some 0x0204))
    else
      if w.state = .filling ∧ fill = false then { s with parkedReq := s.parkedReq ++ [p] }
      else if w.state = .abandoned then answer s q p (.readResponse [] (some 0x0401))
      else
        let ks := (runs a n).map fun r => (versionKey v r.1, r.2)
        match ks.findSome? fun r => (markOf s r.1).map fun m => (r.1, m) with
        | some e => answer (countMark s q.cfg.part e.1 e.2) q p (.readResponse [] (some e.2.code))
        | none =>
          answer (noteSofts s q.cfg.part (ks.map Prod.fst)) q p (.readResponse (ks.flatMap fun r => cellsGet s.mem r.1 r.2) none)

/-- A read request served. -/
def serveRead (s : State) (q : Partition) (p : Packet) : State :=
  match p.body with
  | .readRequest a n (some v) fill => readVersion s q p v a n fill
  | .readRequest a n none _ =>
    match pathRead s q a n with
    | (t, some bs) => answer t q p (.readResponse bs none)
    | (t, none) => answer t q p (.readResponse [] (some ((readCode s q a n).getD 0x0204)))
  | _ => hostBump s 0

/-- READ_REQUEST: one that had parked at its version goes on from there. -/
def execReadRequest (p : Packet) (s : State) : Host.Outcome State Fault Refusal :=
  if s.parkedReq.contains p then
    let t := { s with parkedReq := s.parkedReq.erase p }
    event (match partByFpid t p.fpid with | some q => serveRead t q p | none => t)
  else arrive s p fun s q => serveRead s q p

/-- The word that waits for an answer gets it, of whatever slice it is. -/
def takeReply (s : State) (part xid : Nat) (r : Reply) : State :=
  let f (c : Core) : Core :=
    if c.task.part = part then c.mapWaits fun w => match w with
      | .fabric got x none => if x = xid then .fabric got x (some r) else w
      | _ => w
    else c
  { s with me := f s.me, others := s.others.map f }

/-- READ_RESPONSE. -/
def execReadResponse (p : Packet) (s : State) : Host.Outcome State Fault Refusal :=
  arrive s p fun s q =>
    match p.body with
    | .readResponse bs none => takeReply s q.cfg.part p.xid (.bytes bs)
    | .readResponse _ (some c) => takeReply s q.cfg.part p.xid (.refused c)
    | _ => hostBump s 0

/-- Keys of a run of bytes that a packet writes: in the version of a handle, or at an address; none where it is refused. -/
def writeKeysOf (s : State) (q : Partition) (via : Option Nat) (a n : Nat) : State × Option (List (Nat × Nat)) :=
  match via with
  | some v =>
    match versionAt s q v with
    | some w => (s, if a + n ≤ 2 ^ w.k ∧ w.state ≠ .sealed then some ((runs a n).map fun r => (versionKey v r.1, r.2)) else none)
    | none => (s, none)
  | none => resolveRuns s q (runs a n) true

/-- WRITE_PACKET: a store applied through the F path, once, and acknowledged (11 R226). -/
def execWritePacket (p : Packet) (s : State) : Host.Outcome State Fault Refusal :=
  arrive s p fun s q =>
    match p.body with
    | .write a bs via =>
      if (xmarkOf s p.src p.xid).any fun m => !m.bad then ackPacket s q p 0 none false
      else if inOrder s p = false then s
      else
        match writeKeysOf s q via a bs.length with
        | (t, some ks) => ackPacket (putXMark (writeKeys t q.cfg.part ks bs) p.src p.xid [0]) q p 0 none false
        | (t, none) => ackPacket (markRefused t p.src p.xid) q p 0 none true
    | _ => hostBump s 0

/-- ATOMIC_PACKET: one access in the order of its home, answered with the old value (11 R219, R221). -/
def execAtomicPacket (p : Packet) (s : State) : Host.Outcome State Fault Refusal :=
  arrive s p fun s q =>
    match p.body with
    | .atomic op cas wide a b c via =>
      let n := if wide then 8 else 4
      match writeKeysOf s q via a n with
      | (t, some [(k, _)]) =>
        match markOf t k with
        | some m => answer (countMark t q.cfg.part k m) q p (.readResponse [] (some m.code))
        | none =>
          let o : AtomicOp := { op := op, cas := cas, wide := wide, ord := 0, scope := 0, xd := 0, b := b, c := c }
          let old := cellsGet t.mem k n
          let u := match atomicNew o (natOf old) with
            | some v => homeWrite t q.cfg.part k (bytesOf n v)
            | none => noteSoft t q.cfg.part k
          answer u q p (.readResponse old none)
      | (t, _) => answer t q p (.readResponse [] (some (if via.isSome then 0x0401 else 0x0204)))
    | _ => hostBump s 0

/-! Sectors of CPYF and CPYR (12 R242-R245, 21 R392). -/

/-- A sector of a command: at or below its mark acknowledged, one above applied, further above dropped. The first is applied once
the whole run of the command has been checked. -/
def sectorAt (s : State) (q : Partition) (p : Packet) (a index n : Nat) (via : Option Nat) (run : SectorRun)
    (apply : State → List (Nat × Nat) → State × BitVec 32) : State :=
  let vals := ((xmarkOf s p.src p.xid).map XMark.vals).getD []
  let s := if vals.isEmpty then s else putXMark s p.src p.xid vals
  if index < vals.length then ackPacket s q p index vals[index]? false
  else if vals.length < index ∨ inOrder s p = false then s
  else
    let whole := if index = 0 then (writeKeysOf s q via run.base run.len) else (s, some [])
    match whole with
    | (t, none) => ackPacket (markRefused t p.src p.xid) q p index none true
    | (t, some _) =>
      match writeKeysOf t q via a n with
      | (u, none) => ackPacket (markRefused u p.src p.xid) q p index none true
      | (u, some ks) =>
        let r := apply u ks
        ackPacket (putXMark r.1 p.src p.xid (vals ++ [r.2])) q p index (some r.2) false

/-- Sectors of resolved keys marked poisoned. -/
def poisonKeys (s : State) (ks : List (Nat × Nat)) : State := ks.foldl (fun t k => setMark t k.1 .poison) s

/-- COPY_SECTOR. -/
def execCopySector (p : Packet) (s : State) : Host.Outcome State Fault Refusal :=
  arrive s p fun s q =>
    match p.body with
    | .copySector a i bs bad via run =>
      sectorAt s q p a i bs.length via run fun t ks =>
        let u := writeKeys t q.cfg.part ks bs
        (if bad then poisonKeys u ks else u, checksum run.ckm 0 bs)
    | _ => hostBump s 0

/-- A reduction applied at resolved keys; the bytes as written. -/
def reduceKeys (s : State) (part op fmt : Nat) (bad : Bool) (ks : List (Nat × Nat)) (bs : List Byte) : State × List Byte :=
  match ks with
  | [] => (s, [])
  | (k, n) :: rest =>
    let r := applyReduce s part (keyDie k) k op fmt (bs.take n) bad false
    let t := reduceKeys r.1 part op fmt bad rest (bs.drop n)
    (t.1, r.2 ++ t.2)

/-- REDUCING_COPY_SECTOR. -/
def execReducingCopySector (p : Packet) (s : State) : Host.Outcome State Fault Refusal :=
  arrive s p fun s q =>
    match p.body with
    | .reduceSector a i op fmt bs bad via run =>
      sectorAt s q p a i bs.length via run fun t ks =>
        let r := reduceKeys t q.cfg.part op fmt bad ks bs
        (r.1, checksum run.ckm 0 r.2)
    | _ => hostBump s 0

/-! Acknowledgements (12 R232, R245, 21 R392). -/

/-- The checksum over bytes of which only their number and their value from 0 are known: both functions are linear. -/
def joinCheck (ckm : BitVec 2) (ck : BitVec 32) (n : Nat) (value : BitVec 32) : BitVec 32 :=
  if ckm = 1 then ck + value
  else
    let z : List Byte := List.replicate n 0
    checksum ckm ck z ^^^ checksum ckm 0 z ^^^ value

/-- The checksum register after a command: the values of its sectors in ascending order, or its own bytes. -/
def outCheck (o : Outstanding) (ck : BitVec 32) : BitVec 32 :=
  if o.total = 0 then checksum o.ckm ck o.own
  else (List.range o.total).foldl (fun c i =>
    match o.acks.find? fun a => a.1 == i with | some a => joinCheck o.ckm c a.2.1 a.2.2 | none => c) ck

/-- A command acknowledged in full updates its checksum register and posts; what it posts waits for the other modules of the command. -/
def finishOut (s : State) (o : Outstanding) : State :=
  updTaskRegs s o.launch o.serial fun r =>
    let r := match o.ck with
      | some k => if o.ckm = 0 then r else writeCk r k.toNat (outCheck o (readCk r k.toNat))
      | none => r
    postAll r o.posts

/-- Whether every sector of a command has been acknowledged. -/
def outDone (o : Outstanding) : Bool := o.acks.length == o.total

/-- The first entry of a kind changed. -/
def modifyFirst {α : Type} (p : α → Bool) (f : α → α) (l : List α) : List α :=
  match l with
  | [] => []
  | e :: rest => if p e then f e :: rest else e :: modifyFirst p f rest

/-- Whether two records are of one command. -/
def mateOf (o x : Outstanding) : Bool := x.xid == o.xid && x.part == o.part && o.xid != 0

/-- Finished commands leave in order: one with a checksum after the earlier commands on its register (12 R245). What a command posts waits
until no module is awaited any more: `gone` are those of its records that have left. -/
def settleOuts (s : State) (todo kept gone : List Outstanding) : State :=
  match todo with
  | [] => { s with outs := gone.foldl (fun l o => modifyFirst (mateOf o) (fun e => { e with posts := e.posts ++ o.posts }) l) kept }
  | o :: rest =>
    let behind : Bool := o.ck.isSome && kept.any fun e => e.launch == o.launch && e.serial == o.serial && e.ck == o.ck
    if outDone o && !behind then
      if (kept ++ rest).any (mateOf o) then settleOuts (finishOut s { o with posts := [] }) rest kept (gone ++ [o])
      else
        settleOuts (finishOut s { o with posts := o.posts ++ (gone.filter (mateOf o)).flatMap Outstanding.posts }) rest kept
          (gone.filter fun x => !mateOf o x)
    else settleOuts s rest (kept ++ [o]) gone

/-- The records settled. -/
def settled (s : State) : State := settleOuts s s.outs [] []

/-- Whether two records await the same module for the same command. -/
def sameOut (o x : Outstanding) : Bool := x.xid == o.xid && x.part == o.part && x.dst == o.dst

/-- The records without one that is over for good: its command posts nothing. -/
def outsWithout (s : State) (o : Outstanding) : List Outstanding :=
  (s.outs.filter fun x => !sameOut o x).map fun x => if x.xid = o.xid ∧ x.part = o.part then { x with posts := [] } else x

/-- A sector of a command acknowledged: its copy is no longer needed. -/
def ackSector (s : State) (o : Outstanding) (index : Nat) (value : Option (BitVec 32)) : State :=
  match o.sends.find? fun p => indexOf p == index with
  | none => s
  | some p =>
    let k := { o with acks := o.acks ++ [(index, payloadLen p.body, value.getD 0)], since := s.time,
                      sends := o.sends.filter fun x => indexOf x != index }
    let outs := s.outs.map fun x => if sameOut o x then k else x
    settled { s with outs := outs }

/-- A command refused at its destination posts nothing; for a transfer event 0x0801 says so (12 R243). (DEDUCED, log 48.) -/
def refuseOut (s : State) (o : Outstanding) : State :=
  let t := settled { s with outs := outsWithout s o }
  if o.xid < 2 ^ 64 then postEvent t 0x0801 o.part o.launch 0 o.xid else t

/-- A handle acknowledged is held where it went (13 R275); refused for want of room, it waits to be sent again. -/
def ackHandle (s : State) (o : OutHandle) (refused : Bool) : State :=
  if refused then { s with outHands := s.outHands.map fun e => if e = o then { e with sent := none } else e }
  else
    let t := { s with outHands := s.outHands.erase o }
    let h := o.handle
    if h.home = s.fabric then
      if h.fill then setHolder t h (.away o.dst)
      else updVer t h.ver fun v => { v with seen := reassoc v.seen o.dst ((assoc v.seen o.dst).getD 0 + 1) }
    else if h.fill = false ∧ h.home ≠ o.dst then sendSure t o.part (2 ^ 128) h.home [] (.seeDelta h.ver false)
    else t

/-- ACKNOWLEDGEMENT. -/
def execAcknowledgement (p : Packet) (s : State) : Host.Outcome State Fault Refusal :=
  arrive s p fun s q =>
    match p.body with
    | .ack xid index value refused =>
      match s.outs.find? fun o => o.xid == xid && o.part == q.cfg.part && o.dst == p.src with
      | some o => if refused then refuseOut s o else ackSector s o index value
      | none =>
        match s.outHands.find? fun o => o.sent == some xid && o.part == q.cfg.part with
        | some o => ackHandle s o refused
        | none => s
    | .gradAck tag mirror mirrored rejected peer peerDie =>
      gradAckAt s q.cfg.part tag mirror mirrored rejected (p.src, p.srcDie) (peer, peerDie)
    | _ => hostBump s 0

/-! Handles and versions of other modules (13 R266, R274, R275). -/

/-- Handles of a version of this module that module `m` holds, one more or one less. -/
def countSeen (s : State) (ver m : Nat) (up : Bool) : State :=
  updVer s ver fun v =>
    let n := (assoc v.seen m).getD 0
    { v with seen := reassoc v.seen m (if up then n + 1 else n - 1) }

/-- A handle that has come to this module: its home counts it here. -/
def handleCame (s : State) (q : Partition) (p : Packet) (h : Handle) : State :=
  if h.home = s.fabric then if h.fill then s else countSeen s h.ver p.src false
  else if h.fill then sendSure s q.cfg.part (2 ^ 128) h.home [] (.fillAt h.ver)
  else if h.home = p.src then s
  else sendSure s q.cfg.part (2 ^ 128) h.home [] (.seeDelta h.ver true)

/-- The era of a handle that has come: one that no home returns to where its version was lost before it came, for its sender or since it left
(13 R275). -/
def eraCome (s : State) (p : Packet) (h : Handle) : Nat :=
  if h.home = s.fabric then 0
  else if h.era ≠ 0 ∨ s.rmap.gone.contains h.home = true ∨ (assoc s.lostAt h.home).any (fun t => p.stamp ≤ t) = true then 2 ^ 64
  else eraOf s h.home

/-- HANDLE_PACKET: the handle enters its mailbox, or is refused while that is full (13 R266). -/
def execHandlePacket (p : Packet) (s : State) : Host.Outcome State Fault Refusal :=
  arrive s p fun s q =>
    match p.body with
    | .handle mb h =>
      if (xmarkOf s p.src p.xid).isSome then ackPacket s q p 0 none false
      else
        let r := mailIn s q.cfg.part mb { h with era := eraCome s p h }
        if r.2 then ackPacket (putXMark (handleCame r.1 q p h) p.src p.xid [0]) q p 0 none false
        else ackPacket r.1 q p 0 none true
    | _ => hostBump s 0

/-- What a holder on another module says of a version at its home. -/
def holderSays (s : State) (q : Partition) (src : Nat) (b : PacketBody) : State :=
  match b with
  | .seal v abandon =>
    match versionAt s q v with | some _ => if abandon then abandonVer s v else sealVer s v | none => s
  | .seeDelta v up =>
    match versionAt s q v with
    | some _ =>
      freeVersions (updVer (countSeen s v src up) v fun w => { w with see := if up then w.see + 1 else w.see - 1 })
    | none => s
  | .fillAt v =>
    match versionAt s q v with
    | some w => if w.state = .filling then updVer s v fun x => { x with holder := .away src } else s
    | none => s
  | _ => hostBump s 0

/-- SEAL_OR_ABANDON: what holders on other modules say, taken once and acknowledged. (DESIGN CHOICE, log 67.) -/
def execSealOrAbandon (p : Packet) (s : State) : Host.Outcome State Fault Refusal :=
  arrive s p fun s q =>
    if (xmarkOf s p.src p.xid).isSome then ackPacket s q p 0 none false
    else ackPacket (putXMark (holderSays s q p.src p.body) p.src p.xid [0]) q p 0 none false

/-! Resends (21 R392). -/

/-- A command that is never sent again: its destination has left the map. -/
def dropOut (s : State) (o : Outstanding) : State :=
  postEvent (settled { s with outs := outsWithout s o }) 0x0802 o.part o.launch 0 o.xid

/-- The copies of a command's unacknowledged sectors sent again with a fresh STAMP. -/
def resend (s : State) (o : Outstanding) : State :=
  let ps := o.sends.map fun p => { p with stamp := s.time }
  { s with outbox := s.outbox ++ ps,
           outs := s.outs.map fun x => if sameOut o x then { x with sends := ps } else x }

/-- Whether a command is owed a resend: 1 ms has passed since it was last sent. -/
def resendDue (s : State) (o : Outstanding) : Bool := o.sends.any fun p => decide (p.stamp + 1000000 ≤ s.time)

/-- Whether a command has gone without an acknowledgement for 12 ms. -/
def givenUp (s : State) (o : Outstanding) : Bool := !o.sends.isEmpty && decide (o.since + 12000000 ≤ s.time)

/-- Whether a handle on its way, or a block kept for a home, is owed a resend; none goes to a module that has left the map. -/
def owedTo (s : State) (dst tried : Nat) : Bool := !s.rmap.gone.contains dst && decide (tried + 1000000 ≤ s.time)

/-- The oldest of the handles sent under a number, sent again. (DEDUCED, log 49.) -/
def resendHandle (s : State) (xid : Nat) : State :=
  match s.outHands.find? fun o => o.sent == some xid with
  | some o =>
    if s.rmap.gone.contains o.dst then s
    else
      let t := sendFrom s o.die o.part (2 ^ 128) o.dst 0 xid (.handle o.mailbox (sentAs s o.handle))
      { t with outHands := t.outHands.map fun e => if e.sent = some xid then { e with tried := s.time } else e }
  | none => s

/-- SECTOR_RESEND: of a command that has not been given up. -/
def execSectorResend (xid : Nat) (s : State) : Host.Outcome State Fault Refusal :=
  event (match s.outs.filter fun o => o.xid == xid && !o.sends.isEmpty && !givenUp s o with
    | [] => resendHandle s xid
    | l => l.foldl (fun t o => if s.rmap.gone.contains o.dst then dropOut t o else resend t o) s)

/-- Whether a record that is acknowledged in full stands behind no earlier command on its checksum register. -/
def outReady (s : State) : Bool :=
  s.outs.zipIdx.any fun x => outDone x.1 && !(x.1.ck.isSome && (s.outs.take x.2).any fun e =>
    e.launch == x.1.launch && e.serial == x.1.serial && e.ck == x.1.ck)

/-- COMMAND_GIVE_UP: 12 ms without an acknowledgement. -/
def execCommandGiveUp (xid : Nat) (s : State) : Host.Outcome State Fault Refusal :=
  event (match s.outs.find? fun o => o.xid == xid && givenUp s o with
    | some o => dropOut (if moves s (.module o.dst false) then publishChange s 6 none (.module o.dst false) else s) o
    | none => s)

/-! Launches, events, notices. -/

/-- LAUNCH_SUBMISSION (15 R295). -/
def execLaunchSubmission (p : Packet) (s : State) : Host.Outcome State Fault Refusal :=
  arrive s p fun s q =>
    match p.body with
    | .launch queue bs => if queue < 64 then (hostSubmit s q.cfg.part queue bs).1 else s
    | _ => hostBump s 0

/-- EVENT (21 R391): it is counted to its vector. -/
def execEvent (p : Packet) (s : State) : Host.Outcome State Fault Refusal :=
  arrive s p fun s q =>
    match p.body with
    | .event e => { s with events := s.events ++ [{ e with part := q.cfg.part }] }
    | _ => hostBump s 0

/-- MAP_NOTICE: the map takes up that a module has joined or left, with CAUSE 6 (20 R374); the loss of a sender's Damask engine fails over
the homes on it (21 R402). (DEDUCED, log 46.) -/
def execMapNotice (p : Packet) (s : State) : Host.Outcome State Fault Refusal :=
  arrive s p fun s _ =>
    match p.body with
    | .mapNotice (.module f j) =>
      if s.stage = .ready ∧ moves s (.module f j) = true then publishChange s 6 none (.module f j) else s
    | .mapNotice (.damask die false) => engineLost s p.src die
    | .mapNotice _ => s
    | _ => hostBump s 0

/-! Host commands (21 R391, 22 R407, R408). -/

/-- The state that an event leaves. -/
def ran (o : Host.Outcome State Fault Refusal) (s : State) : State := match o with | .next t => t | _ => s

/-- Whether a command acts on the register blocks 3 to 7, which are the host's alone. (DEDUCED, log 47.) -/
def hostOnly (c : HostCmd) : Bool :=
  match c with
  | .submit _ _ => false
  | .debugHalt _ => true
  | .debugStep _ _ => true
  | .debugEdit _ _ _ => true
  | .debugRelease _ _ => true
  | .evict => true
  | .release => true
  | .faultResume _ _ _ => false
  | .mapAck _ => false
  | .kill _ => false
  | .heldResume _ => false
  | .errinj _ => true
  | .setMapHandler _ => false
  | .setBreakpoints _ => true
  | .setPtRoot _ => true
  | .setWeight _ => true
  | .setRing _ _ => true
  | .installKey _ _ => true
  | .retireKey _ => true
  | .deregister => true
  | .invalidate _ _ => false
  | .writeGlobal _ _ => false
  | .readGlobal _ _ => false
  | .readBlock b _ => decide (3 ≤ b)
  | .firmware _ => true
  | .attest _ => true
  | .createHome _ => false
  | .createPartition _ => true
  | .endPartition => true
  | .moveResource _ _ => true
  | .saveAreas _ _ => true

/-- Whether the launch that a command names is a partition's. -/
def launchIn (s : State) (part launch : Nat) : Bool := ((launchOf s launch).map fun l => l.part == part).getD false

/-- Whether everything that a command names is of the partition it is for. -/
def cmdWithin (s : State) (part : Nat) (c : HostCmd) : Bool :=
  match c with
  | .debugStep l _ => launchIn s part l
  | .debugEdit l _ _ => launchIn s part l
  | .debugRelease l _ => launchIn s part l
  | .faultResume l _ _ => launchIn s part l
  | .heldResume l => launchIn s part l
  | .kill (.task l _) => launchIn s part l
  | .kill (.launch l) => launchIn s part l
  | .kill (.context p) => p == part
  | .createHome d => d.part == part
  | .createPartition _ => false
  | _ => true

/-- A new weight: V stays as it is, as a count that the new weight divides (15 R305). -/
def setWeight (w : Nat) (p : Partition) : Partition :=
  { p with cfg := { p.cfg with weight := w }, vnum := p.vnum * w, vden := p.vden * w }

/-- A map-handler registered: a record that a launch could have, of one task; PRE in it gives its launches no right to pre-empt (20 R381). -/
def registerHandler (s : State) (part : Nat) (bs : List Byte) : State :=
  match checkRecord s part bs true with
  | .error c => { s with hostOut := s.hostOut ++ [.refused c] }
  | .ok r =>
    if taskCount r = 1 then updPart s part fun p => { p with handler := some r }
    else { s with hostOut := s.hostOut ++ [.refused 0x0A11] }

/-- Whether a command has cores do something: none does once the module has stopped every core (01 R18). (DEDUCED, log 25.) -/
def needsCores (c : HostCmd) : Bool :=
  match c with | .kill _ => true | .invalidate _ _ => true | .endPartition => true | .moveResource _ _ => true | _ => false

/-- A host command done for a partition. -/
def runCmd (s : State) (p : Partition) (c : HostCmd) : State :=
  let n := p.cfg.part
  match c with
  | .submit q bs => if q < 64 then (hostSubmit s n q bs).1 else s
  | .debugHalt g => askStop s g .debugger
  | .debugStep l k => releaseHalt s l k true
  | .debugEdit l k e => ran (execDebugImageEdit l k e s) s
  | .debugRelease l k => releaseHalt s l k false
  | .evict => ran (execPartitionEviction n s) s
  | .release => ran (execHostRelease n s) s
  | .faultResume l k d => ran (execHostFaultResume l k d s) s
  | .mapAck v => hostAck s n v
  | .kill t => ran (execHostKill t s) s
  | .heldResume l => ran (execHeldLaunchResume l s) s
  | .errinj v => writeErrinj s v
  | .setMapHandler bs => registerHandler s n bs
  | .setBreakpoints b => updPart s n fun q => { q with cfg := { q.cfg with brk := b } }
  | .setPtRoot r => updPart s n fun q => { q with cfg := { q.cfg with ptroot := r } }
  | .setWeight w => if 1 ≤ w ∧ w ≤ 255 then updPart s n (setWeight w) else { s with hostOut := s.hostOut ++ [.refused 0x0202] }
  | .setRing b k =>
    if 1 ≤ k ∧ k ≤ 2 ^ 20 then updPart s n fun q => { q with cfg := { q.cfg with ringBase := b, ringSize := k } }
    else { s with hostOut := s.hostOut ++ [.refused 0x0202] }
  | .installKey slot k => updPart s n fun q => { (if slot then { q with key1 := some k } else { q with key0 := some k }) with newest := slot }
  | .retireKey slot => updPart s n fun q => if slot then { q with key1 := none } else { q with key0 := none }
  | .deregister => updPart s n fun q => { q with key0 := none, key1 := none }
  | .invalidate lo hi => ran (execTranslationInvalidate n lo hi s) s
  | .writeGlobal a bs =>
    let r := pathWrite s p a bs
    if r.2 then r.1 else { r.1 with hostOut := r.1.hostOut ++ [.refused 0x0204] }
  | .readGlobal a k =>
    match pathRead s p a k with
    | (t, some bs) => { t with hostOut := t.hostOut ++ [.bytes a bs] }
    | (t, none) => { t with hostOut := t.hostOut ++ [.refused ((readCode s p a k).getD 0x0204)] }
  | .readBlock b o => readBlock s b o
  | .firmware i => writeSlot s i
  | .attest x => attest s n x
  | .createHome d => createHome s d
  | .createPartition _ => s
  | .endPartition => endPartition s n
  | .moveResource r dst => moveResource r n dst s
  | .saveAreas b k => updPart s n fun q => { q with saveBase := b, saveSlots := k }

/-- Whether the key tag of a packet under the host key matches the key of its epoch (17 R338, 21 R391). -/
def hostTag (s : State) (p : Packet) : Bool := p.tagOk && (if p.epoch then s.hostKey1 else s.hostKey0) == some p.key

/-- A host command under the host key or a partition's own. -/
def hostCmd (s : State) (part : Nat) (byHost : Bool) (c : HostCmd) : State :=
  let no : State := { s with hostOut := s.hostOut ++ [.refused 0x0202] }
  match partOf s part with
  | none => match c with | .errinj v => if byHost then writeErrinj s v else no
                         | .firmware i => if byHost then writeSlot s i else no
                         | .readBlock b o => if byHost || decide (b < 3) then readBlock s b o else no
                         | .createPartition cfg => if byHost ∧ cfg.part = part then createPartition s cfg else no
                         | .retireKey slot =>
                           if byHost = false ∨ part ≠ 0xFFFF then no
                           else if slot then { s with hostKey1 := none } else { s with hostKey0 := none }
                         | .installKey slot k =>
                           if byHost = false ∨ part ≠ 0xFFFF then no
                           else if slot then { s with hostKey1 := some k } else { s with hostKey0 := some k }
                         | _ => no
  | some p =>
    if (!byHost && hostOnly c) || !cmdWithin s part c then no
    else if s.power.stopped && needsCores c then s else runCmd s p c

/-- HOST_COMMAND: before READY discarded and counted; the recovery image takes a slot's contents and reads of STATUS alone (22 R403, R405). -/
def execHostCommand (p : Packet) (s : State) : Host.Outcome State Fault Refusal :=
  match p.body with
  | .hostCommand part c =>
    if p.fpid = 0xFFFF then
      event (if p.dst ≠ s.fabric then (if headerOk s p then { s with outbox := s.outbox ++ [p] } else hostBump s 0)
        else if headerOk s p = false ∨ hostTag s p = false then hostBump s 0
        else
          match s.stage, c with
          | .ready, _ => hostCmd s part true c
          | .recovery, .firmware i => writeSlot s i
          | .recovery, .readBlock 0 o => readBlock s 0 o
          | _, _ => hostBump s 0)
    else arrive s p fun s q =>
      if s.stage ≠ .ready then hostBump s 0
      else if part ≠ q.cfg.part then { s with hostOut := s.hostOut ++ [.refused 0x0202] }
      else hostCmd s part false c
  | _ => event (hostBump s 0)

end Sys2Proof.Machine
end

