-- ==== Sys2Proof/Machine/Clock.lean ====
section
/-! DEFINITION. What time brings by itself: TIME, windows, waiting launches, held cores, partitions that become ready, the links;
and the events that are due without the outside world (DESIGN CHOICE, log 1). -/

namespace Sys2Proof.Machine

/-- Cores of a reserved cluster held free for its crew (15 R304): not those that a saved task is assigned to. -/
def heldCores (s : State) (cluster : Nat) : Nat :=
  (((List.range 8).map (8 * cluster + ·)).filter fun g => coreLive s g && (coreOf s g).run == .idle
    && !(s.saved.any fun v => v.onCore == some g)).length

/-- The charge of cores held by R304 over `c` thousandths of a core-cycle (15 R305); those of a pre-empting launch are held by R307. -/
def chargeHeld (s : State) (c : Nat) : State :=
  s.reserved.foldl (fun t r => match launchOf s r.2 with
    | some l =>
      if standing s r = false then t
      else updPart t l.part fun q =>
        { q with vnum := q.vnum + 256 * c * heldCores s r.1 * (q.vden / (1000 * max 1 q.cfg.weight)) }
    | none => t) s

/-- A virtual time that another's does not fall short of. -/
def raiseTo (q p : Partition) : Partition :=
  if vBelow p q then { p with vnum := q.vnum * p.vden, vden := q.vden * p.vden } else p

/-- The partition of smallest virtual time. -/
def lowestV (ps : List Partition) : Option Partition :=
  ps.foldl (fun best p => match best with | none => some p | some b => if vBelow p b then some p else some b) none

/-- Partitions that become ready take the smallest virtual time of those that were ready before this uncore cycle, if it is above their own
(15 R305). -/
def noteReady (s : State) : State :=
  let low := lowestV (s.parts.filter fun p => p.ready && decide (p.readyAt < uncore s))
  { s with parts := s.parts.map fun p =>
      let now := s.launches.any fun l => l.part == p.cfg.part && readyLaunch s l
      let q := if now && !p.ready then match low with | some b => raiseTo b p | none => p else p
      { q with ready := now, readyAt := if now && !p.ready then uncore s else q.readyAt } }

/-- TIME goes on, and with it what counts cycles (15 R303, R305, 20 R380): `d` nanoseconds are `d` times ACLK thousandths of a
core-cycle and 2,000ths of an uncore cycle (01 R15, R17). -/
def elapse (s : State) : State :=
  let d := s.ticks.headD 1
  let c := d * s.rmap.aclk
  chargeHeld { s with time := s.time + d, cycles := s.cycles + c, ticks := s.ticks.tail,
                      parts := s.parts.map fun p => { p with window := p.window.map fun w => w - c },
                      launches := s.launches.map fun l => { l with waited := l.waited + c } } c

/-- Every L1 writes back what has been dirty for too long (11 R214). -/
def overdueAll (s : State) : State :=
  ((allCores s).filter fun c => !(overdueSectors { s with me := c }).isEmpty).foldl (fun t c => onCore c.id writeOverdue t) s

/-- What time brings on the cores: write-backs and posts that are due; nothing once the module has stopped every core (01 R18). -/
def coresDue (s : State) : State := if s.power.stopped then s else arriveDue (overdueAll s)

/-- What one step's time brings. -/
def tick (s : State) : State := linkStep (noteReady (expireWindows (coresDue (elapse s))))

/-- A packet that has come is what its body makes it. -/
def packetStep (p : Packet) (s : State) : Host.Outcome State Fault Refusal :=
  match p.body with
  | .readRequest _ _ _ _ => execReadRequest p s
  | .readResponse _ _ => execReadResponse p s
  | .write _ _ _ => execWritePacket p s
  | .atomic _ _ _ _ _ _ _ => execAtomicPacket p s
  | .copySector _ _ _ _ _ _ => execCopySector p s
  | .reduceSector _ _ _ _ _ _ _ _ => execReducingCopySector p s
  | .handle _ _ => execHandlePacket p s
  | .launch _ _ => execLaunchSubmission p s
  | .hostCommand _ _ => execHostCommand p s
  | .event _ => execEvent p s
  | .gradient _ _ _ _ => execGradientBlock p s
  | .publication _ _ _ _ _ _ _ => execWeightPublication p s
  | .mapNotice _ => execMapNotice p s
  | .ack _ _ _ _ => execAcknowledgement p s
  | .gradAck _ _ _ _ _ _ => execAcknowledgement p s
  | .seal _ _ => execSealOrAbandon p s
  | .seeDelta _ _ => execSealOrAbandon p s
  | .fillAt _ => execSealOrAbandon p s

/-- Whether a parked read can be answered: its version has left FILLING. -/
def unparked (s : State) (p : Packet) : Bool :=
  match p.body with
  | .readRequest _ _ (some v) _ => (verOf s v).map Version.state != some .filling
  | _ => true

/-- What the fabric's limits of time bring: a port that has made no progress fails, a command is given up, a mark expires, what has gone
unacknowledged for 1 ms is sent again (12 R248, 21 R386, R392). -/
def dueFabric (s : State) : Option (Host.Outcome State Fault Refusal) :=
  match s.ports.find? fun e => portStuck s e.2 with
  | some e => some (execPortFailure e.1 s)
  | none =>
    if outReady s then some (event (settled s)) else
    match s.outs.find? (givenUp s) with
    | some o => some (execCommandGiveUp o.xid s)
    | none =>
      match s.xmarks.find? fun m => decide (m.time + 16000000 ≤ s.time) with
      | some m => some (execXidMarkExpiry m.xid s)
      | none =>
        match s.outs.find? (resendDue s) with
        | some o => some (execSectorResend o.xid s)
        | none =>
          match (s.outHands.find? fun o => owedTo s o.dst o.tried && o.sent.isSome).bind OutHandle.sent with
          | some x => some (execSectorResend x s)
          | none => (s.retained.find? fun r => owedTo s r.dest.1 r.tried).map fun r => execGradientBlockResend r.tag s

/-- What is due on the module outside its cores: the next step of bring-up (22 R403), an invalidation command that can complete (17 R331), a
parked read, a completed launch
(15 R298), a home's step or deadline (21 R399, R400), what the fabric's limits bring. -/
def dueModule (s : State) : Option (Host.Outcome State Fault Refusal) :=
  match s.bring, s.invals.find? (invalDue s) with
  | some b, _ => some (event (bringStep s b))
  | none, some e => some (execTranslationInvalidate e.1 e.2.1 e.2.2 s)
  | none, none =>
    match s.parkedReq.find? (unparked s) with
    | some p => some (execReadRequest p s)
    | none =>
      match s.launches.find? launchOver with
      | some l => some (execLaunchComplete l.id s)
      | none =>
        match s.homes.find? (stepReady s) with
        | some h => some (execStepComplete h.desc.part h.desc.die s)
        | none =>
          match s.homes.find? (deadlinePast s) with
          | some h => some (execStepDeadlineExpiry h.desc.part h.desc.die s)
          | none => dueFabric s

/-- The forced stop of a cause. -/
def stopCauseOf (c : SaveCause) : StopCause :=
  match c with
  | .class0 => .class0 | .suspended => .suspend | .evicted => .evict | .debugger => .debug | .systemFault => .debug
  | .policy2 => .debug

/-- A limited wait of the control slice that ends now, met or past its limit, while another slice moves: its test is made in each cycle
(16 R316, R320). -/
def dueWait (s : State) : Option (Host.Outcome State Fault Refusal) :=
  if s.me.form = .logical ∨ (s.me.fault.isSome = true ∧ stoppedFor (s.me.turn .c) = true) then none
  else
    let g := s.me.id
    match waitOf s.me .c with
    | .sem n cnt _ (some (k, _)) since =>
      if cnt ≤ readS s.me.regs n.toNat ∧ s.me.csr.cycle ≤ since + k then some (execSemaphoreWaitSuccess g s)
      else if since + k < s.me.csr.cycle then some (execSwaittTimeout g s) else none
    | .bar b (some (k, _)) since =>
      if barOver s b = true ∧ s.me.csr.cycle ≤ since + k then some (execBarrierWaitSuccess g s)
      else if since + k < s.me.csr.cycle then some (execBarwaittTimeout g s) else none
    | _ => none

/-- What is due on the moving core: the start or the end of a task (02 R32, 16 R325), a resume that dispatch has assigned
(18 R353), a forced stop (18 R347), the end of a single step (18 R360), a cycle limit (15 R310). -/
def dueCore (s : State) : Option (Host.Outcome State Fault Refusal) :=
  let g := s.me.id
  match s.me.run with
  | .idle => (s.saved.find? fun v => v.onCore == some g && (v.cause == .class0 || v.release)).map fun v =>
      execTaskResume v.core.task.launch v.core.task.serial g s
  | .starting => some (execTaskStart g s)
  | .halted _ _ => none
  | .stopping _ => none
  | .exiting => some (execTaskExit g s)
  | .running =>
    let stable := decide (s.me.gate ≤ frontier s.me)
    match s.me.stops, s.me.fault, stable with
    | c :: _, none, true => some (execRebuild g (stopCauseOf c) s)
    | _, _, _ =>
      if (match s.me.stepTo with | some n => s.me.stops.isEmpty && s.me.fault.isNone && decide (n ≤ frontier s.me) | none => false)
      then some (execDebugHalt g s)
      else if s.me.csr.cycleft = 0 ∧ stable = true then some (execCycleLimitExpiry g s)
      else dueWait s

end Sys2Proof.Machine
end

