-- ==== Sys2Proof/Machine/Vector.lean ====
section
/-! DEFINITION. Vector words: floating and integer arithmetic, compares, selection, reductions and scans, conversions, permutes
and moves, accumulator access, VDOT4 (09 R161-R180, R184; 05 R104; 07 R122-R130). -/

namespace Sys2Proof.Machine

/-! Floating-point elements (09 R169). -/

/-- A word that rounds: its mode first; rdyn with RMODE from 5 on raises 0x0102 (05 R84). -/
def rounded (v : VWord) (f : Nat → State → Res) (s : State) : Res :=
  match roundMode s v.rnd.toNat with | none => .fail s 0x0102 | some m => f m s

/-- An operation on the values of up to three operands, rounded once: its site is the element (07 R124). -/
def floatMap (v : VWord) (us : List SrcUse) (op : Bool → FNum → FNum → FNum → FNum) (mode : Nat) (s : State) : Res :=
  let fmt := v.ty.toNat
  let w := fmtWidth fmt
  let d := drawOf s
  vecMap v us (fun _ r l i =>
    let x k := decodeFloat fmt (getElem (nthSrc l k) w i)
    encodeFloat fmt mode (drawBits d mode r i) false (op (mode == 2) (x 0) (x 1) (x 2))) s

/-- A floating operation of one source. -/
def float1 (v : VWord) (op : Bool → FNum → FNum) (s : State) : Res :=
  rounded v (floatMap v [useA v (fmtWidth v.ty.toNat)] (fun rd a _ _ => op rd a)) s

/-- A floating operation of two sources. -/
def float2 (v : VWord) (op : Bool → FNum → FNum → FNum) (s : State) : Res :=
  rounded v (floatMap v [useA v (fmtWidth v.ty.toNat), useB v (fmtWidth v.ty.toNat)] (fun rd a b _ => op rd a b)) s

/-- A floating operation of three sources. -/
def float3 (v : VWord) (op : Bool → FNum → FNum → FNum → FNum) (s : State) : Res :=
  let w := fmtWidth v.ty.toNat
  rounded v (floatMap v [useA v w, useB v w, useC v w] op) s

/-- VADD (09 R169). -/
def execVadd (w : VWord) (s : State) : Host.Outcome State Fault Refusal :=
  issue (.vadd w) (float2 w fun rd a b => numAdd rd a b) s

/-- VSUB (09 R169). -/
def execVsub (w : VWord) (s : State) : Host.Outcome State Fault Refusal :=
  issue (.vsub w) (float2 w fun rd a b => numAdd rd a (numNeg b)) s

/-- VMUL (09 R169). -/
def execVmul (w : VWord) (s : State) : Host.Outcome State Fault Refusal :=
  issue (.vmul w) (float2 w fun _ a b => numMul a b) s

/-- VFMA (09 R169). -/
def execVfma (w : VWord) (s : State) : Host.Outcome State Fault Refusal :=
  issue (.vfma w) (float3 w fun rd a b c => numAdd rd (numMul a b) c) s

/-- VFMS (09 R169). -/
def execVfms (w : VWord) (s : State) : Host.Outcome State Fault Refusal :=
  issue (.vfms w) (float3 w fun rd a b c => numAdd rd (numMul a b) (numNeg c)) s

/-- VFNMA (09 R169). -/
def execVfnma (w : VWord) (s : State) : Host.Outcome State Fault Refusal :=
  issue (.vfnma w) (float3 w fun rd a b c => numAdd rd c (numNeg (numMul a b))) s

/-- VMIN (09 R169). -/
def execVmin (w : VWord) (s : State) : Host.Outcome State Fault Refusal :=
  issue (.vmin w) (float2 w fun _ a b => numMin a b) s

/-- VMAX (09 R169). -/
def execVmax (w : VWord) (s : State) : Host.Outcome State Fault Refusal :=
  issue (.vmax w) (float2 w fun _ a b => numMax a b) s

/-- VABS (09 R169). -/
def execVabs (w : VWord) (s : State) : Host.Outcome State Fault Refusal :=
  issue (.vabs w) (float1 w fun _ a => numAbs a) s

/-- VNEG (09 R169). -/
def execVneg (w : VWord) (s : State) : Host.Outcome State Fault Refusal :=
  issue (.vneg w) (float1 w fun _ a => numNeg a) s

/-- VDIV (09 R169). -/
def execVdiv (w : VWord) (s : State) : Host.Outcome State Fault Refusal :=
  issue (.vdiv w) (float2 w fun _ a b => numDiv a b) s

/-- VSQRT (09 R169). -/
def execVsqrt (w : VWord) (s : State) : Host.Outcome State Fault Refusal :=
  issue (.vsqrt w) (float1 w fun _ a => numSqrt a) s

/-- VEXP2 (09 R169). -/
def execVexp2 (w : VWord) (s : State) : Host.Outcome State Fault Refusal :=
  issue (.vexp2 w) (float1 w fun _ a => numExp2 a) s

/-- VLOG2 (09 R169). -/
def execVlog2 (w : VWord) (s : State) : Host.Outcome State Fault Refusal :=
  issue (.vlog2 w) (float1 w fun _ a => numLog2 a) s

/-- VRSQ (09 R169). -/
def execVrsq (w : VWord) (s : State) : Host.Outcome State Fault Refusal :=
  issue (.vrsq w) (float1 w fun _ a => numRsq a) s

/-- VSCALE: a * 2^N, N the second operand read as a signed integer. -/
def scaleBody (v : VWord) (mode : Nat) (s : State) : Res :=
  let fmt := v.ty.toNat
  let w := fmtWidth fmt
  let d := drawOf s
  vecMap v [useA v w, useB v w] (fun _ r l i =>
    encodeFloat fmt mode (drawBits d mode r i) false
      (numScale (decodeFloat fmt (getElem (nthSrc l 0) w i)) (signedOf w (getElem (nthSrc l 1) w i)))) s

/-- VSCALE (09 R169). -/
def execVscale (w : VWord) (s : State) : Host.Outcome State Fault Refusal :=
  issue (.vscale w) (rounded w (scaleBody w)) s

/-- VCLASS (09 R169). -/
def execVclass (w : VWord) (s : State) : Host.Outcome State Fault Refusal :=
  issue (.vclass w) (vecMap w [useA w (fmtWidth w.ty.toNat)] fun _ _ l i =>
    classMask w.ty.toNat (decodeFloat w.ty.toNat (getElem (nthSrc l 0) (fmtWidth w.ty.toNat) i))) s

/-! Compares (09 R170). -/

/-- Elements below `m` that lie in a lane. -/
def laneElems (w m lane : Nat) : List Nat := (List.range (32 / w)).filterMap fun j =>
  if lane * (32 / w) + j < m then some (lane * (32 / w) + j) else none

/-- The lanes a compare writes: an inactive lane keeps its value, a lane without elements below VL is cleared. -/
def compareLanes (s : State) (v : VWord) (w m : Nat) (old : PredWord) (rel : Nat → Bool) : PredWord :=
  (List.range 128).foldl (fun p l =>
    if (readP s.me.regs v.pred.toNat).getLsbD l != (v.neg == 1) then
      let es := laneElems w m l
      let b := !es.isEmpty && es.all rel
      (p &&& ~~~(1#128 <<< l)) ||| (if b then 1#128 <<< l else 0)
    else p) old

/-- A compare word. -/
def compareBody (v : VWord) (rel : Nat → Nat → Bool) (s : State) : Res :=
  let w := fmtWidth v.ty.toNat
  vecBody v [useA v w, useB v w] false false (fun t r l =>
    let n := regAt v v.dst 3 r
    mapRegs t fun g => writeP g n (compareLanes t v w (lenOf t w) (readP t.me.regs n) fun i =>
      rel (getElem (nthSrc l 0) w i) (getElem (nthSrc l 1) w i))) s

/-- VCMP, ordered (09 R170). -/
def execVcmpOrdered (w : VWord) (s : State) : Host.Outcome State Fault Refusal :=
  issue (.vcmpOrdered w) (compareBody w fun a b =>
    vcmpOrd w.imm.toNat (decodeFloat w.ty.toNat a) (decodeFloat w.ty.toNat b)) s

/-- VCMP, unordered (09 R170). -/
def execVcmpUnordered (w : VWord) (s : State) : Host.Outcome State Fault Refusal :=
  issue (.vcmpUnordered w) (compareBody w fun a b =>
    vcmpUnord w.imm.toNat (decodeFloat w.ty.toNat a) (decodeFloat w.ty.toNat b)) s

/-- VICMP (09 R170). -/
def execVicmp (w : VWord) (s : State) : Host.Outcome State Fault Refusal :=
  issue (.vicmp w) (compareBody w fun a b => vicmpRel w.imm.toNat (fmtWidth w.ty.toNat) a b) s

/-- VSEL: the guard chooses between the sources for every element below VL (09 R171). -/
def selectBody (v : VWord) (s : State) : Res :=
  let w := fmtWidth v.ty.toNat
  vecBody v [useA v w, useB v w] true false (fun t r l =>
    putElems t v r w ((List.range (lenOf t w)).map fun i =>
      (i, getElem (nthSrc l (if active t v w i then 0 else 1)) w i))) s

/-- VSEL (09 R171). -/
def execVsel (w : VWord) (s : State) : Host.Outcome State Fault Refusal :=
  issue (.vsel w) (selectBody w) s

/-! Integer elements (09 R172). -/

/-- The integer an element holds by its type. -/
def intOf (ty c : Nat) : Int := decodeInt ty c

/-- An integer operation, exact on unbounded integers, written as its low bits. -/
def intMap (v : VWord) (us : List SrcUse) (op : Nat → Nat → Nat → Int) (s : State) : Res :=
  let w := fmtWidth v.ty.toNat
  vecMap v us (fun _ _ l i =>
    lowBits w (op (getElem (nthSrc l 0) w i) (getElem (nthSrc l 1) w i) (getElem (nthSrc l 2) w i))) s

/-- Two sources, as the codes they spell. -/
def int2 (v : VWord) (op : Nat → Nat → Int) (s : State) : Res :=
  intMap v [useA v (fmtWidth v.ty.toNat), useB v (fmtWidth v.ty.toNat)] (fun a b _ => op a b) s

/-- a << s, 0 from w on. -/
def vshlInt (w a s : Nat) : Int := if w ≤ s then 0 else ((a * 2 ^ s : Nat) : Int)
/-- Unsigned a >> s, 0 from w on. -/
def vshrInt (w a s : Nat) : Int := if w ≤ s then 0 else ((a / 2 ^ s : Nat) : Int)
/-- Signed a >> s toward -∞; the sign alone from w on. -/
def vsarInt (w a s : Nat) : Int := if w ≤ s then (if signedOf w a < 0 then -1 else 0) else signedOf w a / 2 ^ s

/-- VIADD (09 R172). -/
def execViadd (w : VWord) (s : State) : Host.Outcome State Fault Refusal :=
  issue (.viadd w) (int2 w fun a b => intOf w.ty.toNat a + intOf w.ty.toNat b) s

/-- VISUB (09 R172). -/
def execVisub (w : VWord) (s : State) : Host.Outcome State Fault Refusal :=
  issue (.visub w) (int2 w fun a b => intOf w.ty.toNat a - intOf w.ty.toNat b) s

/-- VIMUL (09 R172). -/
def execVimul (w : VWord) (s : State) : Host.Outcome State Fault Refusal :=
  issue (.vimul w) (int2 w fun a b => intOf w.ty.toNat a * intOf w.ty.toNat b) s

/-- VIMAD (09 R172). -/
def execVimad (w : VWord) (s : State) : Host.Outcome State Fault Refusal :=
  issue (.vimad w) (intMap w [useA w (fmtWidth w.ty.toNat), useB w (fmtWidth w.ty.toNat), useC w (fmtWidth w.ty.toNat)] fun a b c =>
    intOf w.ty.toNat a * intOf w.ty.toNat b + intOf w.ty.toNat c) s

/-- VAND (09 R172). -/
def execVand (w : VWord) (s : State) : Host.Outcome State Fault Refusal :=
  issue (.vand w) (int2 w fun a b => (Nat.land a b : Nat)) s

/-- VOR (09 R172). -/
def execVor (w : VWord) (s : State) : Host.Outcome State Fault Refusal :=
  issue (.vor w) (int2 w fun a b => (Nat.lor a b : Nat)) s

/-- VXOR (09 R172). -/
def execVxor (w : VWord) (s : State) : Host.Outcome State Fault Refusal :=
  issue (.vxor w) (int2 w fun a b => (Nat.xor a b : Nat)) s

/-- VSHL (09 R172). -/
def execVshl (w : VWord) (s : State) : Host.Outcome State Fault Refusal :=
  issue (.vshl w) (int2 w fun a b => vshlInt (fmtWidth w.ty.toNat) a b) s

/-- VSHR (09 R172). -/
def execVshr (w : VWord) (s : State) : Host.Outcome State Fault Refusal :=
  issue (.vshr w) (int2 w fun a b => vshrInt (fmtWidth w.ty.toNat) a b) s

/-- VSAR (09 R172). -/
def execVsar (w : VWord) (s : State) : Host.Outcome State Fault Refusal :=
  issue (.vsar w) (int2 w fun a b => vsarInt (fmtWidth w.ty.toNat) a b) s

/-- VIMIN (09 R172). -/
def execVimin (w : VWord) (s : State) : Host.Outcome State Fault Refusal :=
  issue (.vimin w) (int2 w fun a b => min (intOf w.ty.toNat a) (intOf w.ty.toNat b)) s

/-- VIMAX (09 R172). -/
def execVimax (w : VWord) (s : State) : Host.Outcome State Fault Refusal :=
  issue (.vimax w) (int2 w fun a b => max (intOf w.ty.toNat a) (intOf w.ty.toNat b)) s

/-- Hash32 (09 R173): the pseudocode (DEDUCED, log 19). -/
def hash32 (a b k : Nat) : Nat :=
  match k with
  | 0 => a
  | n + 1 =>
    let h := Nat.xor a b * 0x85EBCA6B % 2 ^ 32
    hash32 (Nat.xor h (h / 2 ^ 13)) b n

/-- VHASH (09 R173). -/
def execVhash (w : VWord) (s : State) : Host.Outcome State Fault Refusal :=
  issue (.vhash w) (vecMap w [useA w 32, useB w 32] fun _ _ l i =>
    hash32 (getElem (nthSrc l 0) 32 i) (getElem (nthSrc l 1) 32 i) (w.imm.toNat + 1)) s

/-! Reductions and scans (09 R174, 07 R130). -/

/-- The identity of an operation: 0 add, 1 min, 2 max. -/
def identityOf (fmt op : Nat) : Nat :=
  if isIntFmt fmt then
    lowBits (fmtWidth fmt) (match op with
      | 0 => 0
      | 1 => intMax (fmtSigned fmt) (fmtWidth fmt)
      | _ => intMin (fmtSigned fmt) (fmtWidth fmt))
  else
    let f := floatFmt fmt
    match op with
    | 0 => f.sign
    | 1 => f.infc.getD 0
    | _ => f.infc.getD 0 + f.sign

/-- RoundOp of a tree node. -/
def roundOp (fmt op mode u a b : Nat) : Nat :=
  if isIntFmt fmt then
    let x := decodeInt fmt a
    let y := decodeInt fmt b
    lowBits (fmtWidth fmt) (match op with | 0 => x + y | 1 => min x y | _ => max x y)
  else
    let x := decodeFloat fmt a
    let y := decodeFloat fmt b
    encodeFloat fmt mode u false (match op with | 0 => numAdd (mode == 2) x y | 1 => numMin x y | _ => numMax x y)

/-- Reduce: `h` is the half width of level `k`; `site` rounds a node. -/
def reduceTree (fuel : Nat) (f : Nat → Nat → Nat → Nat → Nat) (h k : Nat) (e : List Nat) : List Nat :=
  match fuel with
  | 0 => e
  | n + 1 =>
    if h = 0 then e
    else reduceTree n f (h / 2) (k + 1) (((e.take h).zip (e.drop h)).mapIdx fun i p => f k i p.1 p.2)

/-- Scan, inclusive: distance `h` of level `k`. -/
def scanTree (fuel : Nat) (f : Nat → Nat → Nat → Nat → Nat) (h k : Nat) (e : List Nat) : List Nat :=
  match fuel with
  | 0 => e
  | n + 1 =>
    if e.length ≤ h then e
    else scanTree n f (2 * h) (k + 1) (e.take h ++ ((e.zip (e.drop h)).mapIdx fun i p => f k (h + i) p.1 p.2))

/-- The elements that enter a tree: the identity at and beyond VL and where inactive. -/
def treeElems (s : State) (v : VWord) (w : Nat) (x : VecWord) : List Nat :=
  (List.range (4096 / w)).map fun i =>
    if i < lenOf s w && active s v w i then getElem x w i else identityOf v.ty.toNat v.imm.toNat

/-- A node of a word's tree, rounded at the site W * k + i. -/
def treeNode (s : State) (v : VWord) (mode r : Nat) (k i a b : Nat) : Nat :=
  roundOp v.ty.toNat v.imm.toNat mode
    (drawBits (drawOf s) mode r (4096 / fmtWidth v.ty.toNat * k + i)) a b

/-- A scalar result of `w` bits: sign-extended for i types, else zero-extended. -/
def scalarOf (fmt c : Nat) : Word :=
  if fmtSigned fmt then BitVec.ofInt 64 (signedOf (fmtWidth fmt) c) else BitVec.ofNat 64 c

/-- VRED. -/
def reduceBody (v : VWord) (mode : Nat) (s : State) : Res :=
  let w := fmtWidth v.ty.toNat
  vecBody v [useA v w] true false (fun t r l =>
    let c := (reduceTree 10 (treeNode s v mode r) (4096 / w / 2) 0 (treeElems t v w (nthSrc l 0))).headD 0
    if opFile v.dst = 2 then putScalar t v (scalarOf v.ty.toNat c) else putElems t v r w [(0, c)]) s

/-- VSCAN. -/
def scanBody (v : VWord) (mode : Nat) (s : State) : Res :=
  let w := fmtWidth v.ty.toNat
  vecBody v [useA v w] true false (fun t r l =>
    let e := scanTree 10 (treeNode s v mode r) 1 0 (treeElems t v w (nthSrc l 0))
    putElems t v r w ((actives t v w (lenOf t w)).map fun i => (i, convert v.ty.toNat v.ty.toNat 0 0 false (e.getD i 0)))) s

/-- VRED (09 R174). -/
def execVred (w : VWord) (s : State) : Host.Outcome State Fault Refusal :=
  issue (.vred w) (rounded w (reduceBody w)) s

/-- VSCAN (09 R174). -/
def execVscan (w : VWord) (s : State) : Host.Outcome State Fault Refusal :=
  issue (.vscan w) (rounded w (scanBody w)) s

/-! Conversions (09 R175, R176). -/

/-- Source format of a conversion. -/
def srcFmt (v : VWord) : Nat := v.sc.toNat

/-- An element of a source converted at a destination index. -/
def convAt (s : State) (v : VWord) (mode r : Nat) (x : VecWord) (i j : Nat) : Nat :=
  convert (srcFmt v) v.ty.toNat mode (drawBits (drawOf s) mode r j) v.imm[0] (getElem x (fmtWidth (srcFmt v)) i)

/-- Destination writes of a conversion word: those whose index is active at the target width. -/
def putActive (t : State) (v : VWord) (r : Nat) (l : List (Nat × Nat)) : State :=
  let wd := fmtWidth v.ty.toNat
  putElems t v r wd (l.filter fun p => active t v wd p.1)

/-- VCVT and VCVTI. -/
def cvtBody (v : VWord) (mode : Nat) (s : State) : Res :=
  let ws := fmtWidth (srcFmt v)
  let wd := fmtWidth v.ty.toNat
  vecBody v [useA v ws] true false (fun t r l =>
    putActive t v r ((List.range (min (vlOf t) (4096 / max ws wd))).map fun i => (i, convAt s v mode r (nthSrc l 0) i i))) s

/-- VPACK. -/
def packBody (v : VWord) (mode : Nat) (s : State) : Res :=
  let ws := fmtWidth (srcFmt v)
  let n := 4096 / ws
  let h := v.imm.toNat / 2
  vecBody v [useA v ws, useB v ws] true false (fun t r l =>
    let k := List.range (min (vlOf t) n)
    putActive t v r ((k.map fun i => (2 * n * h + i, convAt s v mode r (nthSrc l 0) i (2 * n * h + i)))
      ++ k.map fun i => (2 * n * h + n + i, convAt s v mode r (nthSrc l 1) i (2 * n * h + n + i)))) s

/-- VUNPK. -/
def unpackBody (v : VWord) (mode : Nat) (s : State) : Res :=
  let ws := fmtWidth (srcFmt v)
  let n := 4096 / fmtWidth v.ty.toNat
  let h := v.imm.toNat / 2
  vecBody v [useA v ws] true false (fun t r l =>
    putActive t v r ((List.range (min (vlOf t) n)).map fun i => (i, convAt s v mode r (nthSrc l 0) (n * h + i) i))) s

/-- VCVT (09 R175). -/
def execVcvt (w : VWord) (s : State) : Host.Outcome State Fault Refusal :=
  issue (.vcvt w) (rounded w (cvtBody w)) s

/-- VPACK (09 R176). -/
def execVpack (w : VWord) (s : State) : Host.Outcome State Fault Refusal :=
  issue (.vpack w) (rounded w (packBody w)) s

/-- VUNPK (09 R176). -/
def execVunpk (w : VWord) (s : State) : Host.Outcome State Fault Refusal :=
  issue (.vunpk w) (rounded w (unpackBody w)) s

/-- VCVTI (09 R175). -/
def execVcvti (w : VWord) (s : State) : Host.Outcome State Fault Refusal :=
  issue (.vcvti w) (rounded w (cvtBody w)) s

/-! Permutes and moves (09 R177, R178). -/

/-- Element `j` of a vector, or 0 past its end. -/
def elemOr0 (x : VecWord) (w j : Nat) : Nat := if j < 4096 / w then getElem x w j else 0

/-- A move of bit patterns of width w. -/
def moveMap (v : VWord) (us : List SrcUse) (f : List VecWord → Nat → Nat → Nat) (s : State) : Res :=
  vecMap v us (fun _ _ l i => f l (fmtWidth v.ty.toNat) i) s

/-- VPERM (09 R177). -/
def execVperm (w : VWord) (s : State) : Host.Outcome State Fault Refusal :=
  issue (.vperm w) (moveMap w [useA w (fmtWidth w.ty.toNat), useB w (fmtWidth w.ty.toNat)] fun l n i =>
    elemOr0 (nthSrc l 0) n (getElem (nthSrc l 1) n i)) s

/-- VBCAST (09 R177). -/
def execVbcast (w : VWord) (s : State) : Host.Outcome State Fault Refusal :=
  issue (.vbcast w) (moveMap w [useA w (fmtWidth w.ty.toNat), useB w (fmtWidth w.ty.toNat)] fun l n _ =>
    elemOr0 (nthSrc l 0) n (getElem (nthSrc l 1) n 0)) s

/-- VIOTA (09 R177). -/
def execViota (w : VWord) (s : State) : Host.Outcome State Fault Refusal :=
  issue (.viota w) (moveMap w [useA w (fmtWidth w.ty.toNat)] fun l n i => (getElem (nthSrc l 0) n 0 + i) % 2 ^ n) s

/-- VMOV (09 R177). -/
def execVmov (w : VWord) (s : State) : Host.Outcome State Fault Refusal :=
  issue (.vmov w) (moveMap w [useA w (fmtWidth w.ty.toNat)] fun l n i => getElem (nthSrc l 0) n i) s

/-- VLEN: the count of active elements below VL. -/
def lenBody (v : VWord) (s : State) : Res :=
  let w := fmtWidth v.ty.toNat
  vecBody v [] true true (fun t _ _ => putScalar t v (BitVec.ofNat 64 (actives t v w (lenOf t w)).length)) s

/-- VEXTR: one element, whatever VL. -/
def extrBody (v : VWord) (s : State) : Res :=
  let w := fmtWidth v.ty.toNat
  vecBody v [useA v w, useB v w] true true (fun t _ l =>
    putScalar t v (scalarOf v.ty.toNat (elemOr0 (nthSrc l 0) w (16 * v.imm.toNat + getElem (nthSrc l 1) w 0 % 16)))) s

/-- VLEN (09 R178). -/
def execVlen (w : VWord) (s : State) : Host.Outcome State Fault Refusal :=
  issue (.vlen w) (lenBody w) s

/-- VEXTR (09 R178). -/
def execVextr (w : VWord) (s : State) : Host.Outcome State Fault Refusal :=
  issue (.vextr w) (extrBody w) s

/-! Accumulator access (09 R179, R180). -/

/-- A soft error of an accumulator that a vector word reads is counted; it raises no code (09 R186, 17 R336). -/
def noteAcc (s : State) (a : Acc) : State :=
  match a.err with
  | .clean => s
  | .corrected => bump s s.me.task.part 5
  | .uncorrectable => bump s s.me.task.part 6

/-- VACCRD: two rows down-converted; the site is that of the accumulator element. -/
def accReadBody (v : VWord) (mode : Nat) (s : State) : Res :=
  let fmt := v.ty.toNat
  let w := fmtWidth fmt
  let d := drawOf s
  vecBody v [] true false (fun t r _ =>
    let a := readA t.me.regs v.sa.toNat
    let t := noteAcc t a
    let row i := 2 * (v.imm.toNat + r) + i / 64
    putElems t v r w ((actives t v w (min (vlOf t) 128)).map fun i =>
      (i, encodeFloat fmt mode (drawBits d mode r (64 * row i + i % 64)) false (decodeFloat 0 (accElem a (row i) (i % 64)))))) s

/-- The 4,096 elements of an accumulator, zeros where it is not valid (03 R50). -/
def accElems (a : Acc) : List (BitVec 32) := if a.valid then a.elems else List.replicate 4096 0

/-- VACCWR: two rows written; a first write makes the accumulator valid, its other elements zero, also where no element is active (DESIGN CHOICE,
log 69). -/
def accWriteBody (v : VWord) (s : State) : Res :=
  vecBody v [useA v 32] false false (fun t r l =>
    let n := v.dst.toNat
    let a := readA t.me.regs n
    let e := (actives t v 32 (min (vlOf t) 128)).foldl
      (fun e i => e.set (128 * (v.imm.toNat + r) + i) (BitVec.ofNat 32 (getElem (nthSrc l 0) 32 i))) (accElems a)
    mapRegs t fun g => writeA g n { a with valid := true, elems := e }) s

/-- VACCRD (09 R179). -/
def execVaccrd (w : VWord) (s : State) : Host.Outcome State Fault Refusal :=
  issue (.vaccrd w) (rounded w (accReadBody w)) s

/-- VACCWR (09 R180). -/
def execVaccwr (w : VWord) (s : State) : Host.Outcome State Fault Refusal :=
  issue (.vaccwr w) (accWriteBody w) s

/-! VDOT4 (05 R104, 09 R184). -/

/-- The sum of the four signed byte products of a lane. -/
def dot4 (a b : VecWord) (i : Nat) : Int :=
  ((List.range 4).map fun j => signedOf 8 (getElem a 8 (4 * i + j)) * signedOf 8 (getElem b 8 (4 * i + j))).sum

/-- What a destination of VDOT4 held: a q entry or channel being pushed holds zero (DEDUCED, log 20). -/
def oldLane (t : State) (v : VWord) (r i : Nat) : Nat :=
  if opFile v.dst = 0 then getElem (readV t.me.regs (regAt v v.dst 3 r)) 32 i else 0

/-- One repetition's result: lanes 0 to 31, as the pseudocode of R104 counts them (DEDUCED, log 20). -/
def dotPut (v : VWord) (t : State) (r : Nat) (l : List VecWord) : State :=
  putElems t v r 32 ((actives t v 32 (min (lenOf t 32) 32)).map fun i =>
    (i, lowBits 32 (oldLane t v r i + dot4 (nthSrc l 0) (nthSrc l 1) i)))

/-- The repetitions from `r` on: the state after those that completed, their end, and why it went no further. -/
def dotReps (v : VWord) (us : List SrcUse) (n r : Nat) (s : State) : State × Nat × Option Halt :=
  match n with
  | 0 => (s, r, none)
  | k + 1 =>
    match srcVals s v us r with
    | .error h => (s, r, some h)
    | .ok l => dotReps v us k (r + 1) (dotPut v (popAll s v us r) r l)

/-- The repetition a VDOT4 starts at: the one a fault left unfinished, where the word stands at the frontier (05 R104). An image
holds it in RHO (DEDUCED, log 58). -/
def dotFrom (s : State) : Nat := if s.me.flow.lsn ≤ frontier s.me then s.me.rho else 0

/-- The writes of the repetitions before a fault stay: they take their log entries, which a rebuild at the word itself leaves (05
R104). -/
def keepReps (w : VWord) (s t : State) : State :=
  match s.me.form with
  | .logical => t
  | .slices =>
    let l := (logEntries (writesOf s.me (.vdot4 w)) s.me t.me (undoDiff s.me t.me) none).filter fun e => e.undo != Undo.word
    { t with me := { t.me with rewind := (l.map fun e => { e with kept := true }) ++ t.me.rewind } }

/-- VDOT4: a fault in repetition r keeps the writes of those before, and the word restarts at r (05 R104, 18 R359). -/
def dotBody (w : VWord) (v : VWord) (s : State) : Res :=
  let us := [useA v 32, useB v 32]
  let r0 := dotFrom s
  match qChecksFrom s v us true (vlOf s != 0) r0 with
  | some c => .fail s c
  | none =>
    if vlOf s = 0 then (if skipReady v us s && dstRoom s v true then .done (skipWord v us true s) else .wait s .queue)
    else if dstRoom s v true = false then .wait s .queue
    else
      match qReadyAllFrom (List.range 16) s v us r0 with
      | (t, some x) => .wait t x
      | (t, none) =>
        let again := match s.me.form with
          | .logical => t
          | .slices => (List.range r0).foldl (fun u _ => (chPops us).foldl chanPop u) t
        match dotReps v us (v.rep.toNat + 1 - r0) r0 again with
        | (u, _, none) => .done { u with me := { u.me with rho := if u.me.flow.lsn ≤ frontier u.me then 0 else u.me.rho } }
        | (_, _, some (.wait x)) => .wait t x
        | (u, r, some (.bad e)) =>
          .raise (keepReps w s (if e.code = 0x0603 then bump u u.me.task.part 3 else u)) { e with rho := r }

/-- VDOT4 (09 R184). -/
def execVdot4 (w : VWord) (s : State) : Host.Outcome State Fault Refusal :=
  issue (.vdot4 w) (dotBody w w) s

end Sys2Proof.Machine
end

