-- ==== Sys2Proof/Machine/Dispatch.lean ====
section
/-! DEFINITION. One arm per instruction or event: a direct call of its meaning. -/

namespace Sys2Proof.Machine

/-- What an instruction or event does to the state. -/
def exec (i : Instr) (s : State) : Host.Outcome State Fault Refusal :=
  match i with
  | .add d a b f => Sys2Proof.Machine.execAdd d a b f s
  | .sub d a b f => Sys2Proof.Machine.execSub d a b f s
  | .and d a b f => Sys2Proof.Machine.execAnd d a b f s
  | .or d a b f => Sys2Proof.Machine.execOr d a b f s
  | .xor d a b f => Sys2Proof.Machine.execXor d a b f s
  | .shl d a b f => Sys2Proof.Machine.execShl d a b f s
  | .shr d a b f => Sys2Proof.Machine.execShr d a b f s
  | .sar d a b f => Sys2Proof.Machine.execSar d a b f s
  | .mul d a b f => Sys2Proof.Machine.execMul d a b f s
  | .mulh d a b f => Sys2Proof.Machine.execMulh d a b f s
  | .mulhu d a b f => Sys2Proof.Machine.execMulhu d a b f s
  | .div d a b f => Sys2Proof.Machine.execDiv d a b f s
  | .divu d a b f => Sys2Proof.Machine.execDivu d a b f s
  | .rem d a b f => Sys2Proof.Machine.execRem d a b f s
  | .remu d a b f => Sys2Proof.Machine.execRemu d a b f s
  | .min d a b f => Sys2Proof.Machine.execMin d a b f s
  | .max d a b f => Sys2Proof.Machine.execMax d a b f s
  | .minu d a b f => Sys2Proof.Machine.execMinu d a b f s
  | .maxu d a b f => Sys2Proof.Machine.execMaxu d a b f s
  | .clz d a => Sys2Proof.Machine.execClz d a s
  | .ctz d a => Sys2Proof.Machine.execCtz d a s
  | .popc d a => Sys2Proof.Machine.execPopc d a s
  | .bfx d a pos width => Sys2Proof.Machine.execBfx d a pos width s
  | .bfi d a pos width => Sys2Proof.Machine.execBfi d a pos width s
  | .sel d a b f => Sys2Proof.Machine.execSel d a b f s
  | .cmpSigned pd a b cc => Sys2Proof.Machine.execCmpSigned pd a b cc s
  | .cmpUnsigned pd a b cc => Sys2Proof.Machine.execCmpUnsigned pd a b cc s
  | .plog pd pa pb fn => Sys2Proof.Machine.execPlog pd pa pb fn s
  | .psetn pd a => Sys2Proof.Machine.execPsetn pd a s
  | .ptest d pa => Sys2Proof.Machine.execPtest d pa s
  | .addi d a imm => Sys2Proof.Machine.execAddi d a imm s
  | .andi d a imm => Sys2Proof.Machine.execAndi d a imm s
  | .ori d a imm => Sys2Proof.Machine.execOri d a imm s
  | .xori d a imm => Sys2Proof.Machine.execXori d a imm s
  | .shli d a imm => Sys2Proof.Machine.execShli d a imm s
  | .shri d a imm => Sys2Proof.Machine.execShri d a imm s
  | .sari d a imm => Sys2Proof.Machine.execSari d a imm s
  | .muli d a imm => Sys2Proof.Machine.execMuli d a imm s
  | .cmpiEq pd a imm => Sys2Proof.Machine.execCmpiEq pd a imm s
  | .cmpiNe pd a imm => Sys2Proof.Machine.execCmpiNe pd a imm s
  | .cmpiLt pd a imm => Sys2Proof.Machine.execCmpiLt pd a imm s
  | .cmpiLe pd a imm => Sys2Proof.Machine.execCmpiLe pd a imm s
  | .cmpiLtu pd a imm => Sys2Proof.Machine.execCmpiLtu pd a imm s
  | .cmpiLeu pd a imm => Sys2Proof.Machine.execCmpiLeu pd a imm s
  | .lih d imm => Sys2Proof.Machine.execLih d imm s
  | .csrrd d csr => Sys2Proof.Machine.execCsrrd d csr s
  | .csrwr a csr => Sys2Proof.Machine.execCsrwr a csr s
  | .ldg d off => Sys2Proof.Machine.execLdg d off s
  | .ldc d a imm => Sys2Proof.Machine.execLdc d a imm s
  | .ldb d a hb disp => Sys2Proof.Machine.execLdb d a hb disp s
  | .ldbu d a hb disp => Sys2Proof.Machine.execLdbu d a hb disp s
  | .ldh d a hb disp => Sys2Proof.Machine.execLdh d a hb disp s
  | .ldhu d a hb disp => Sys2Proof.Machine.execLdhu d a hb disp s
  | .ldw d a hb disp => Sys2Proof.Machine.execLdw d a hb disp s
  | .ldwu d a hb disp => Sys2Proof.Machine.execLdwu d a hb disp s
  | .ldd d a hb disp => Sys2Proof.Machine.execLdd d a hb disp s
  | .stb d a hb disp => Sys2Proof.Machine.execStb d a hb disp s
  | .sth d a hb disp => Sys2Proof.Machine.execSth d a hb disp s
  | .stw d a hb disp => Sys2Proof.Machine.execStw d a hb disp s
  | .std d a hb disp => Sys2Proof.Machine.execStd d a hb disp s
  | .cvta d a f => Sys2Proof.Machine.execCvta d a f s
  | .isspace pd a f => Sys2Proof.Machine.execIsspace pd a f s
  | .qmark => Sys2Proof.Machine.execQmark s
  | .fence f => Sys2Proof.Machine.execFence f s
  | .pfence a b f => Sys2Proof.Machine.execPfence a b f s
  | .pbr t disp => Sys2Proof.Machine.execPbr t disp s
  | .pbrx t a => Sys2Proof.Machine.execPbrx t a s
  | .br pred cond t => Sys2Proof.Machine.execBr pred cond t s
  | .call pred cond t => Sys2Proof.Machine.execCall pred cond t s
  | .loopReg l a body => Sys2Proof.Machine.execLoopReg l a body s
  | .loopImm l cnt body => Sys2Proof.Machine.execLoopImm l cnt body s
  | .dpush pred cond q => Sys2Proof.Machine.execDpush pred cond q s
  | .dtake pd q => Sys2Proof.Machine.execDtake pd q s
  | .texit => Sys2Proof.Machine.execTexit s
  | .taskExit core => Sys2Proof.Machine.execTaskExit core s
  | .trap n => Sys2Proof.Machine.execTrap n s
  | .bkpt n => Sys2Proof.Machine.execBkpt n s
  | .nop => Sys2Proof.Machine.execNop s
  | .erls => Sys2Proof.Machine.execErls s
  | .swait sem n => Sys2Proof.Machine.execSwait sem n s
  | .swaitge sem n => Sys2Proof.Machine.execSwaitge sem n s
  | .semaphoreWaitSuccess core => Sys2Proof.Machine.execSemaphoreWaitSuccess core s
  | .saddImm sem n => Sys2Proof.Machine.execSaddImm sem n s
  | .saddReg lo a hi => Sys2Proof.Machine.execSaddReg lo a hi s
  | .push y a b => Sys2Proof.Machine.execPush y a b s
  | .popy d y => Sys2Proof.Machine.execPopy d y s
  | .popyNb d y => Sys2Proof.Machine.execPopyNb d y s
  | .resultQueueReady core => Sys2Proof.Machine.execResultQueueReady core s
  | .maprd d a => Sys2Proof.Machine.execMaprd d a s
  | .mapack a => Sys2Proof.Machine.execMapack a s
  | .cropen disp => Sys2Proof.Machine.execCropen disp s
  | .crclose => Sys2Proof.Machine.execCrclose s
  | .hnew hd a k => Sys2Proof.Machine.execHnew hd a k s
  | .hsee hd a => Sys2Proof.Machine.execHsee hd a s
  | .hseeof hd hs => Sys2Proof.Machine.execHseeof hd hs s
  | .hdup hd hs => Sys2Proof.Machine.execHdup hd hs s
  | .hdrop hs => Sys2Proof.Machine.execHdrop hs s
  | .versionSeal ver => Sys2Proof.Machine.execVersionSeal ver s
  | .hsend hs b => Sys2Proof.Machine.execHsend hs b s
  | .mailboxRetry part => Sys2Proof.Machine.execMailboxRetry part s
  | .hrecv hd a => Sys2Proof.Machine.execHrecv hd a s
  | .handleReceived core => Sys2Proof.Machine.execHandleReceived core s
  | .hstat d hs => Sys2Proof.Machine.execHstat d hs s
  | .parkedAccessUnpark core => Sys2Proof.Machine.execParkedAccessUnpark core s
  | .amo op sz ord scope d a b hb disp => Sys2Proof.Machine.execAmo op sz ord scope d a b hb disp s
  | .cas sz ord scope c d a b hb disp => Sys2Proof.Machine.execCas sz ord scope c d a b hb disp s
  | .swaitt sem n a pd => Sys2Proof.Machine.execSwaitt sem n a pd s
  | .swaittTimeout core => Sys2Proof.Machine.execSwaittTimeout core s
  | .spostx sem n a => Sys2Proof.Machine.execSpostx sem n a s
  | .spostxArrival => Sys2Proof.Machine.execSpostxArrival s
  | .bararr bar => Sys2Proof.Machine.execBararr bar s
  | .barexp bar a => Sys2Proof.Machine.execBarexp bar a s
  | .barwait bar => Sys2Proof.Machine.execBarwait bar s
  | .barwaitt bar a pd => Sys2Proof.Machine.execBarwaitt bar a pd s
  | .barrierWaitSuccess core => Sys2Proof.Machine.execBarrierWaitSuccess core s
  | .barwaittTimeout core => Sys2Proof.Machine.execBarwaittTimeout core s
  | .launch a => Sys2Proof.Machine.execLaunch a s
  | .launchNb y a => Sys2Proof.Machine.execLaunchNb y a s
  | .ldil d imm => Sys2Proof.Machine.execLdil d imm s
  | .sbind w => Sys2Proof.Machine.execSbind w s
  | .sunbind w => Sys2Proof.Machine.execSunbind w s
  | .qEntryFetch core q => Sys2Proof.Machine.execQEntryFetch core q s
  | .sld w => Sys2Proof.Machine.execSld w s
  | .sst w => Sys2Proof.Machine.execSst w s
  | .sgather w => Sys2Proof.Machine.execSgather w s
  | .sscatter w => Sys2Proof.Machine.execSscatter w s
  | .smeta w => Sys2Proof.Machine.execSmeta w s
  | .mqEntryFetch core q => Sys2Proof.Machine.execMqEntryFetch core q s
  | .cpy w => Sys2Proof.Machine.execCpy w s
  | .cpymc w => Sys2Proof.Machine.execCpymc w s
  | .cpyr w => Sys2Proof.Machine.execCpyr w s
  | .cpyf w => Sys2Proof.Machine.execCpyf w s
  | .ckrdRead w => Sys2Proof.Machine.execCkrdRead w s
  | .ckrdLoad w => Sys2Proof.Machine.execCkrdLoad w s
  | .stage w => Sys2Proof.Machine.execStage w s
  | .spf w => Sys2Proof.Machine.execSpf w s
  | .gpush w => Sys2Proof.Machine.execGpush w s
  | .sloop l ch body sync => Sys2Proof.Machine.execSloop l ch body sync s
  | .sdbr q sense disp sync => Sys2Proof.Machine.execSdbr q sense disp sync s
  | .snop w => Sys2Proof.Machine.execSnop w s
  | .snopMark w => Sys2Proof.Machine.execSnopMark w s
  | .vadd w => Sys2Proof.Machine.execVadd w s
  | .vsub w => Sys2Proof.Machine.execVsub w s
  | .vmul w => Sys2Proof.Machine.execVmul w s
  | .vfma w => Sys2Proof.Machine.execVfma w s
  | .vfms w => Sys2Proof.Machine.execVfms w s
  | .vfnma w => Sys2Proof.Machine.execVfnma w s
  | .vmin w => Sys2Proof.Machine.execVmin w s
  | .vmax w => Sys2Proof.Machine.execVmax w s
  | .vabs w => Sys2Proof.Machine.execVabs w s
  | .vneg w => Sys2Proof.Machine.execVneg w s
  | .vdiv w => Sys2Proof.Machine.execVdiv w s
  | .vsqrt w => Sys2Proof.Machine.execVsqrt w s
  | .vexp2 w => Sys2Proof.Machine.execVexp2 w s
  | .vlog2 w => Sys2Proof.Machine.execVlog2 w s
  | .vrsq w => Sys2Proof.Machine.execVrsq w s
  | .vscale w => Sys2Proof.Machine.execVscale w s
  | .vclass w => Sys2Proof.Machine.execVclass w s
  | .vcmpOrdered w => Sys2Proof.Machine.execVcmpOrdered w s
  | .vcmpUnordered w => Sys2Proof.Machine.execVcmpUnordered w s
  | .vsel w => Sys2Proof.Machine.execVsel w s
  | .vred w => Sys2Proof.Machine.execVred w s
  | .vscan w => Sys2Proof.Machine.execVscan w s
  | .vcvt w => Sys2Proof.Machine.execVcvt w s
  | .vpack w => Sys2Proof.Machine.execVpack w s
  | .vunpk w => Sys2Proof.Machine.execVunpk w s
  | .vcvti w => Sys2Proof.Machine.execVcvti w s
  | .viadd w => Sys2Proof.Machine.execViadd w s
  | .visub w => Sys2Proof.Machine.execVisub w s
  | .vimul w => Sys2Proof.Machine.execVimul w s
  | .vimad w => Sys2Proof.Machine.execVimad w s
  | .vand w => Sys2Proof.Machine.execVand w s
  | .vor w => Sys2Proof.Machine.execVor w s
  | .vxor w => Sys2Proof.Machine.execVxor w s
  | .vshl w => Sys2Proof.Machine.execVshl w s
  | .vshr w => Sys2Proof.Machine.execVshr w s
  | .vsar w => Sys2Proof.Machine.execVsar w s
  | .vimin w => Sys2Proof.Machine.execVimin w s
  | .vimax w => Sys2Proof.Machine.execVimax w s
  | .vicmp w => Sys2Proof.Machine.execVicmp w s
  | .vhash w => Sys2Proof.Machine.execVhash w s
  | .vperm w => Sys2Proof.Machine.execVperm w s
  | .vbcast w => Sys2Proof.Machine.execVbcast w s
  | .viota w => Sys2Proof.Machine.execViota w s
  | .vmov w => Sys2Proof.Machine.execVmov w s
  | .vlen w => Sys2Proof.Machine.execVlen w s
  | .vextr w => Sys2Proof.Machine.execVextr w s
  | .vaccrd w => Sys2Proof.Machine.execVaccrd w s
  | .vaccwr w => Sys2Proof.Machine.execVaccwr w s
  | .vloop l ch body sync => Sys2Proof.Machine.execVloop l ch body sync s
  | .vdbr q sense disp sync => Sys2Proof.Machine.execVdbr q sense disp sync s
  | .vnop sync => Sys2Proof.Machine.execVnop sync s
  | .vdot4 w => Sys2Proof.Machine.execVdot4 w s
  | .mma w => Sys2Proof.Machine.execMma w s
  | .mmas w => Sys2Proof.Machine.execMmas w s
  | .mzero w => Sys2Proof.Machine.execMzero w s
  | .mload w => Sys2Proof.Machine.execMload w s
  | .mstore w => Sys2Proof.Machine.execMstore w s
  | .mscale w => Sys2Proof.Machine.execMscale w s
  | .mflag w => Sys2Proof.Machine.execMflag w s
  | .mloop l ch body sync => Sys2Proof.Machine.execMloop l ch body sync s
  | .mdbr q sense disp sync => Sys2Proof.Machine.execMdbr q sense disp sync s
  | .mnop sync => Sys2Proof.Machine.execMnop sync s
  | .mma16 w => Sys2Proof.Machine.execMma16 w s
  | .frontierPost core => Sys2Proof.Machine.execFrontierPost core s
  | .perform core path => Sys2Proof.Machine.execPerform core path s
  | .depart core path => Sys2Proof.Machine.execDepart core path s
  | .writeback core sector words => Sys2Proof.Machine.execWriteback core sector words s
  | .dirtyWritebackTimeout core sector => Sys2Proof.Machine.execDirtyWritebackTimeout core sector s
  | .fill core sector => Sys2Proof.Machine.execFill core sector s
  | .drop core sector => Sys2Proof.Machine.execDrop core sector s
  | .rvfill die sector => Sys2Proof.Machine.execRvfill die sector s
  | .rvdrop die sector => Sys2Proof.Machine.execRvdrop die sector s
  | .atomic core => Sys2Proof.Machine.execAtomic core s
  | .loadCodeObject part obj => Sys2Proof.Machine.execLoadCodeObject part obj s
  | .granuleArrival core eng granule => Sys2Proof.Machine.execGranuleArrival core eng granule s
  | .launchQueueSubmit part queue record => Sys2Proof.Machine.execLaunchQueueSubmit part queue record s
  | .launchAccept part source => Sys2Proof.Machine.execLaunchAccept part source s
  | .taskBind launch => Sys2Proof.Machine.execTaskBind launch s
  | .taskDispatch cores => Sys2Proof.Machine.execTaskDispatch cores s
  | .taskStart core => Sys2Proof.Machine.execTaskStart core s
  | .launchComplete launch => Sys2Proof.Machine.execLaunchComplete launch s
  | .class0Preemption launch => Sys2Proof.Machine.execClass0Preemption launch s
  | .cycleLimitExpiry core => Sys2Proof.Machine.execCycleLimitExpiry core s
  | .rebuild core cause => Sys2Proof.Machine.execRebuild core cause s
  | .taskResume launch serial core => Sys2Proof.Machine.execTaskResume launch serial core s
  | .hostFaultResume launch serial deliver => Sys2Proof.Machine.execHostFaultResume launch serial deliver s
  | .debugHalt core => Sys2Proof.Machine.execDebugHalt core s
  | .debugSingleStep launch serial => Sys2Proof.Machine.execDebugSingleStep launch serial s
  | .debugImageEdit launch serial edit => Sys2Proof.Machine.execDebugImageEdit launch serial edit s
  | .debugRelease launch serial => Sys2Proof.Machine.execDebugRelease launch serial s
  | .partitionEviction part => Sys2Proof.Machine.execPartitionEviction part s
  | .hostRelease part => Sys2Proof.Machine.execHostRelease part s
  | .unitFailure unit => Sys2Proof.Machine.execUnitFailure unit s
  | .mapPublish cause unit change => Sys2Proof.Machine.execMapPublish cause unit change s
  | .ackWindowExpiry part => Sys2Proof.Machine.execAckWindowExpiry part s
  | .hostMapAck part version => Sys2Proof.Machine.execHostMapAck part version s
  | .gddr7ChannelRetraining die ch phase moves => Sys2Proof.Machine.execGddr7ChannelRetraining die ch phase moves s
  | .dieFirmwareUpdate die phase image => Sys2Proof.Machine.execDieFirmwareUpdate die phase image s
  | .rurelPortRetraining port phase => Sys2Proof.Machine.execRurelPortRetraining port phase s
  | .moduleReplacement fabric phase => Sys2Proof.Machine.execModuleReplacement fabric phase s
  | .thermalClockStep => Sys2Proof.Machine.execThermalClockStep s
  | .thermalShutdown => Sys2Proof.Machine.execThermalShutdown s
  | .undervoltClockStep millivolt => Sys2Proof.Machine.execUndervoltClockStep millivolt s
  | .undervoltRecoveryStep => Sys2Proof.Machine.execUndervoltRecoveryStep s
  | .voltageDip microseconds => Sys2Proof.Machine.execVoltageDip microseconds s
  | .overvoltageNotify millivolt => Sys2Proof.Machine.execOvervoltageNotify millivolt s
  | .powerFailure => Sys2Proof.Machine.execPowerFailure s
  | .powerRemoval => Sys2Proof.Machine.execPowerRemoval s
  | .modResetRelease bootsel tests lat romOk => Sys2Proof.Machine.execModResetRelease bootsel tests lat romOk s
  | .firmwareSlotWrite image => Sys2Proof.Machine.execFirmwareSlotWrite image s
  | .attestationRequest part nonce => Sys2Proof.Machine.execAttestationRequest part nonce s
  | .errinjWrite v => Sys2Proof.Machine.execErrinjWrite v s
  | .errorCounterRead part index => Sys2Proof.Machine.execErrorCounterRead part index s
  | .mgmtRegisterWrite by_ block off v => Sys2Proof.Machine.execMgmtRegisterWrite by_ block off v s
  | .partitionCreate cfg => Sys2Proof.Machine.execPartitionCreate cfg s
  | .partitionEnd part => Sys2Proof.Machine.execPartitionEnd part s
  | .resourceMove res src dst => Sys2Proof.Machine.execResourceMove res src dst s
  | .translationInvalidate part lo hi => Sys2Proof.Machine.execTranslationInvalidate part lo hi s
  | .flitReceive port flit => Sys2Proof.Machine.execFlitReceive port flit s
  | .portFailure port => Sys2Proof.Machine.execPortFailure port s
  | .readRequest p => Sys2Proof.Machine.execReadRequest p s
  | .readResponse p => Sys2Proof.Machine.execReadResponse p s
  | .writePacket p => Sys2Proof.Machine.execWritePacket p s
  | .atomicPacket p => Sys2Proof.Machine.execAtomicPacket p s
  | .copySector p => Sys2Proof.Machine.execCopySector p s
  | .reducingCopySector p => Sys2Proof.Machine.execReducingCopySector p s
  | .handlePacket p => Sys2Proof.Machine.execHandlePacket p s
  | .launchSubmission p => Sys2Proof.Machine.execLaunchSubmission p s
  | .hostCommand p => Sys2Proof.Machine.execHostCommand p s
  | .event p => Sys2Proof.Machine.execEvent p s
  | .mapNotice p => Sys2Proof.Machine.execMapNotice p s
  | .acknowledgement p => Sys2Proof.Machine.execAcknowledgement p s
  | .sealOrAbandon p => Sys2Proof.Machine.execSealOrAbandon p s
  | .sectorResend xid => Sys2Proof.Machine.execSectorResend xid s
  | .commandGiveUp xid => Sys2Proof.Machine.execCommandGiveUp xid s
  | .xidMarkExpiry xid => Sys2Proof.Machine.execXidMarkExpiry xid s
  | .gradientBlock p => Sys2Proof.Machine.execGradientBlock p s
  | .weightPublication p => Sys2Proof.Machine.execWeightPublication p s
  | .stepComplete part die => Sys2Proof.Machine.execStepComplete part die s
  | .stepDeadlineExpiry part die => Sys2Proof.Machine.execStepDeadlineExpiry part die s
  | .paramHomeCreate d => Sys2Proof.Machine.execParamHomeCreate d s
  | .hostKill target => Sys2Proof.Machine.execHostKill target s
  | .heldLaunchResume launch => Sys2Proof.Machine.execHeldLaunchResume launch s
  | .gradientBlockResend tag => Sys2Proof.Machine.execGradientBlockResend tag s
  | .patrolScrub sector => Sys2Proof.Machine.execPatrolScrub sector s
  | .hostErrorCounterRead index => Sys2Proof.Machine.execHostErrorCounterRead index s

end Sys2Proof.Machine
end

