-- ==== Sys2Proof/Machine/Turn.lean ====
section
/-! DEFINITION. What a step does: an event of the schedule, what is due by itself, or the moving core's next word. -/

namespace Sys2Proof.Machine

/-- The moving slice's next word. -/
def runWord (s : State) : Host.Outcome State Fault Refusal :=
  if s.me.run ≠ .running then .next s
  else if (lateAccess s).isSome then .next (raiseLate s)
  else if stoppedFor s.me then .next (settleFault s)
  else if s.me.flow.ended then .next s
  else if granuleAbsent s.me then .next (stall s .queue)
  else if codeFound s.me = .uncorrectable then .next (codeLost s)
  else
    let s := if codeFound s.me = .corrected then bump s s.me.task.part 5 else s
    match fetch s.me with
    | .word i => exec i s
    | .none => .next s
    | .bad code bytes => .next (fetchFault s code bytes)

/-- The moving core's step: what is due on it, else its next word. -/
def coreStep (s : State) : Host.Outcome State Fault Refusal :=
  match dueCore s with
  | some o => o
  | none => runWord s

/-- The queues of the other running cores go on by themselves too (11 R214). -/
def pumpOthers (s : State) : State :=
  (s.others.filter fun c => c.run == .running && !(c.lqC.isEmpty && c.sqC.isEmpty && c.sqS.isEmpty)).foldl
    (fun t c => onCore c.id pump t) s

/-- The core that moves by itself: where the moving core's task waits for its crew to be rebuilt, a member that has still to be (16 R322). -/
def autoCore (s : State) : State :=
  match s.me.run with
  | .stopping cause => match unstopped s cause with | g :: _ => focus g s | [] => s
  | _ => s

/-- The module before the moving core's own step: its queues have gone on, its slice is chosen. -/
def movedOn (s : State) : State := pump (autoTurn (autoCore (pumpOthers s)))

/-- A step that nothing outside orders: a packet that has come, what is due on the module, else the moving core. -/
def ownStep (s : State) : Host.Outcome State Fault Refusal :=
  match s.inbox with
  | p :: rest => packetStep p { s with inbox := rest }
  | [] =>
    match dueModule s with
    | some o => o
    | none => if s.power.stopped then .next s else coreStep (movedOn s)

/-- Whether an event lets a core do something: none does once the module has stopped every core (01 R18). -/
def actsOnCore (i : Instr) : Bool :=
  match i with
  | .frontierPost _ | .perform _ _ | .depart _ _ | .writeback _ _ _ | .dirtyWritebackTimeout _ _ | .fill _ _ | .drop _ _ | .atomic _
  | .semaphoreWaitSuccess _ | .resultQueueReady _ | .handleReceived _ | .parkedAccessUnpark _ | .swaittTimeout _ | .barrierWaitSuccess _
  | .barwaittTimeout _ | .qEntryFetch _ _ | .mqEntryFetch _ _ | .granuleArrival _ _ _ | .taskDispatch _ | .taskStart _ | .taskExit _ | .cycleLimitExpiry _ | .rebuild _ _ | .taskResume _ _ _
  | .debugHalt _ | .debugSingleStep _ _ | .debugRelease _ _ | .class0Preemption _ | .versionSeal _ | .hostKill _
  | .translationInvalidate _ _ _ | .partitionEnd _ | .resourceMove _ _ _ | .gddr7ChannelRetraining _ _ _ _ | .spostxArrival => true
  | _ => false

/-- Whether the schedule's event is one, no word of a program, and is what power leaves possible: applied anew while it is off (01
R21), removed after a failure (01 R19). -/
def powerAdmits (p : Power) (i : Instr) : Bool :=
  i.units == 0 && match i with
  | .modResetRelease _ _ _ _ => p.on == false || !p.failed
  | .powerRemoval => p.on
  | _ => p.on && !p.failed && !(p.stopped && actsOnCore i)

/-- A system agent's post to a task: only s128-s191 take one, and it saturates (03 R46, R48, 16 R315). -/
def systemPost (g sem n : Nat) (s : State) : State :=
  if 128 ≤ sem ∧ sem < 192 ∧ (coreOf s g).run ≠ .idle then arrivePost s (g, sem, n, 0) else s

/-- The step's effect once time has gone on: the schedule's head, else what is due by itself, else the moving core's next word (log
1); a module without power runs no part (01 R21). -/
def stepFrom (p : Power) (t : State) : Host.Outcome State Fault Refusal :=
  match t.sched with
  | .event i :: rest =>
    let u := { t with sched := rest }
    if powerAdmits p i then exec i u else if p.on then .next u else .fault .unpowered
  | .turn g e :: rest =>
    let u := focus g { t with sched := rest }
    if p.on = false then .fault .unpowered
    else if p.failed ∨ p.stopped then .next u
    else coreStep { u with me := u.me.turn e }
  | .sysPost g sem n :: rest =>
    let u := { t with sched := rest }
    if p.on = false then .fault .unpowered else .next (if p.failed ∨ p.stopped then u else systemPost g sem n u)
  | .constRead cluster k :: rest =>
    let u := { t with sched := rest }
    if p.on = false then .fault .unpowered else .next (if p.failed then u else fillConst u cluster k)
  | .sideband block off :: rest =>
    let u := { t with sched := rest }
    if p.on = false then .fault .unpowered else .next (readBlock u block off)
  | [] => if p.on = false then .fault .unpowered else if p.failed then .next t else ownStep t

end Sys2Proof.Machine
end

