-- ==== Sys2Proof/Machine/Step.lean ====
section
/-! DEFINITION. One step of the module, and the state that runs a given instruction next. -/

namespace Sys2Proof.Machine

/-- One step (DESIGN CHOICE, log 1): time goes on, then an event, what is due, or a word. -/
def step (s : State) : Host.Outcome State Fault Refusal := stepFrom s.power (tick s)

/-- The state with an instruction placed where the moving core fetches next (14 R277, R279). (DEDUCED, log 10.) -/
def State.withFetchWord (s : State) (nbits w : Nat) : State :=
  { s with sched := [],
           me := placeWord { s.me with wait := .none } (decodeTableWord nbits w) (tableUnits (w % 2 ^ nbits)) }

end Sys2Proof.Machine
end

