-- ==== Sys2Proof/Safety.lean ====
section
/-! DEFINITION. What a run is and what counts as safe: it never stops, and an invariant of the module holds along it; and the
words the statements use for a word that issues, completes, waits or raises a code. -/

namespace Sys2Proof.Machine

/-- The state after `n` steps, if none of them stops. -/
def runSteps (n : Nat) (s : State) : Option State :=
  match n with
  | 0 => some s
  | k + 1 => match step s with | .next t => runSteps k t | _ => none

/-- The module's invariant: memory keeps its canonical form (03 R51). -/
def StateInv (s : State) : Prop := Memory.wf s.mem = true

/-- A run of `n` steps is safe: it goes on and keeps the invariant. -/
def Safe (n : Nat) (s : State) : Prop := ∃ t, runSteps n s = some t ∧ StateInv t

/-- The state whose operands a word reads, where it issues: its core runs, its fields are accepted in the text it stands in
(05 R102), what older loads and atomics owe its registers has been delivered (08 R150), and in slice form nothing stands before
it and its segment's check passes (05 R94, 14 R293, 19 R372). -/
def issuedIn (i : Instr) (s : State) : Option State :=
  if s.me.run ≠ .running ∨ i.wfIn (s.me.form == .slices) = false then none
  else
    let r := settleOwed i s
    match s.me.form with
    | .logical => some r
    | .slices =>
      match admitSlice i r with
      | none => none
      | some t =>
        if (if (annOf r.me r.me.eng r.me.flow)[15] then segCheck r.me (segCount i r.me.flow) else none).isSome then none else some t

/-- The state `u` that a word's effect left, with the word completed and the flow led on as `nx` says; in slice form a gated word that falls
through has acted at its step. -/
def completed (i : Instr) (s u : State) (nx : Next) : State :=
  match s.me.form with
  | .logical => complete i.units u nx
  | .slices =>
    completeSlice i (settleOwed i s) (match nx with | .fall => noteGated i (settleOwed i s) u | _ => u) nx

/-- The state in which a word that does not complete waits or raises: in slice form its SYNC19 wait is given back. -/
def givenBack (i : Instr) (s u : State) : State := match s.me.form with | .logical => u | .slices => giveBack i u

/-- The word raises the code `c` in the state `t`, with the address `a` where it has one (18 R341, R344). -/
def raised (i : Instr) (s t : State) (c : Nat) (a : Option Nat) : State :=
  raiseCode (givenBack i s t) { raiseOf t c a with insn := insnOf s i, origin := originOf s i (raiseOf t c a) }

/-- The word waits in the state `t` for `w`. -/
def waiting (i : Instr) (s t : State) (w : Wait) : State := stall (givenBack i s t) w

end Sys2Proof.Machine
end

