-- ==== Sys2Proof/Certificates/Slice0/Obligations.lean ====
section
/-! DEFINITION. The statements for the provers, from the spec's numbered rules, and the terms they share. -/

namespace Sys2Proof.Claims
end Sys2Proof.Claims

open Sys2Proof Sys2Proof.Machine Sys2Proof.Claims

/-- The three forms of an opcode 0x00-0x12 with the operation `op` (08 R135, R136): the ordinary one, the push of its result,
the pop of its operand B; a full or an empty channel stalls. The entry of a vector word that VL = 0 kept from writing leaves the register as
it was (log 57). -/
def Sys2Proof.Claims.AluForms (mk : BitVec 6 → BitVec 6 → BitVec 6 → BitVec 6 → Instr) (op : Word → Word → Word) : Prop :=
  ∀ (d a b f : BitVec 6) (s t : State), issuedIn (mk d a b f) s = some t →
    exec (mk d a b f) s = .next (
      if f = 0 then completed (mk d a b f) s (setX t d (op (xOf t a) (xOf t b))) .fall
      else if f.toNat / 16 = 2 then
        if (t.me.str.ch.getD (f.toNat % 16) []).length < 16
        then completed (mk d a b f) s (chanPush t (f.toNat % 16) (.scalar (op (xOf t a) (xOf t b)))) .fall
        else waiting (mk d a b f) s t .queue
      else
        match chanHead t (f.toNat % 16) with
        | some .skipped => completed (mk d a b f) s (chanPop t (f.toNat % 16)) .fall
        | some p => completed (mk d a b f) s (setX (chanPop t (f.toNat % 16)) d (op (xOf t a) p.word)) .fall
        | none => waiting (mk d a b f) s t .queue)

/-- ADD to MAXU (08 R136), every form: a + b; a - b; and; or; xor; the three shifts by b[5:0]; the products; division that never faults
with its two edge cases; the signed and unsigned minima and maxima. Each is computed on integers and wraps. A pop takes the value at the
head of its channel; an entry that a skipped word left holds none (log 57, DEDUCED). -/
def Sys2Proof.Claims.AluResults : Prop :=
  AluForms .add (fun a b => BitVec.ofNat 64 (a.toNat + b.toNat))
  ∧ AluForms .sub (fun a b => BitVec.ofInt 64 (a.toInt - b.toInt))
  ∧ AluForms .and (fun a b => BitVec.ofNat 64 (a.toNat &&& b.toNat))
  ∧ AluForms .or (fun a b => BitVec.ofNat 64 (a.toNat ||| b.toNat))
  ∧ AluForms .xor (fun a b => BitVec.ofNat 64 (a.toNat ^^^ b.toNat))
  ∧ AluForms .shl (fun a b => BitVec.ofNat 64 (a.toNat * 2 ^ (b.toNat % 64)))
  ∧ AluForms .shr (fun a b => BitVec.ofNat 64 (a.toNat / 2 ^ (b.toNat % 64)))
  ∧ AluForms .sar (fun a b => BitVec.ofInt 64 (a.toInt / 2 ^ (b.toNat % 64)))
  ∧ AluForms .mul (fun a b => BitVec.ofNat 64 (a.toNat * b.toNat))
  ∧ AluForms .mulh (fun a b => BitVec.ofInt 64 (a.toInt * b.toInt / 2 ^ 64))
  ∧ AluForms .mulhu (fun a b => BitVec.ofNat 64 (a.toNat * b.toNat / 2 ^ 64))
  ∧ AluForms .div (fun a b => if b = 0 then BitVec.ofInt 64 (-1) else BitVec.ofInt 64 (a.toInt.tdiv b.toInt))
  ∧ AluForms .divu (fun a b => if b = 0 then BitVec.ofInt 64 (-1) else BitVec.ofNat 64 (a.toNat / b.toNat))
  ∧ AluForms .rem (fun a b => if b = 0 then a else BitVec.ofInt 64 (a.toInt - b.toInt * a.toInt.tdiv b.toInt))
  ∧ AluForms .remu (fun a b => if b = 0 then a else BitVec.ofNat 64 (a.toNat - b.toNat * (a.toNat / b.toNat)))
  ∧ AluForms .min (fun a b => if a.toInt ≤ b.toInt then a else b)
  ∧ AluForms .max (fun a b => if a.toInt ≤ b.toInt then b else a)
  ∧ AluForms .minu (fun a b => if a.toNat ≤ b.toNat then a else b)
  ∧ AluForms .maxu (fun a b => if a.toNat ≤ b.toNat then b else a)

/-- CLZ, CTZ and POPC: the encoding with XB and FN6 zero, a nonzero value in either refused with 0x0102, and the counts; zero
gives 64 for the first two (08 R137). -/
def Obligations.BitCounts : Prop :=
  (∀ (d a : BitVec 6) (x : BitVec 12),
    let word (op : Nat) : Nat := op * 2 ^ 24 + d.toNat * 2 ^ 18 + a.toNat * 2 ^ 12 + x.toNat
    (x = 0 → decodeWord 0 (word 0x13) = .ok (.clz d a) ∧ decodeWord 0 (word 0x14) = .ok (.ctz d a)
      ∧ decodeWord 0 (word 0x15) = .ok (.popc d a))
    ∧ (x ≠ 0 → ∀ op, op = 0x13 ∨ op = 0x14 ∨ op = 0x15 → decodeWord 0 (word op) = .error .reserved))
  ∧ Reject.reserved.code = 0x0102
  ∧ (∀ (d a : BitVec 6) (s t : State), issuedIn (.clz d a) s = some t → ∃ n : Nat,
    exec (.clz d a) s = .next (completed (.clz d a) s (setX t d (BitVec.ofNat 64 n)) .fall)
    ∧ n ≤ 64 ∧ (∀ j, 64 - n ≤ j → (xOf t a).getLsbD j = false) ∧ (n < 64 → (xOf t a).getLsbD (63 - n) = true))
  ∧ (∀ (d a : BitVec 6) (s t : State), issuedIn (.ctz d a) s = some t → ∃ n : Nat,
    exec (.ctz d a) s = .next (completed (.ctz d a) s (setX t d (BitVec.ofNat 64 n)) .fall)
    ∧ n ≤ 64 ∧ (∀ j, j < n → (xOf t a).getLsbD j = false) ∧ (n < 64 → (xOf t a).getLsbD n = true))
  ∧ (∀ (d a : BitVec 6) (s t : State), issuedIn (.popc d a) s = some t →
    exec (.popc d a) s = .next (completed (.popc d a) s
      (setX t d (BitVec.ofNat 64 (((List.range 64).map fun j => ((xOf t a).getLsbD j).toNat).sum))) .fall))

/-- BFX, BFI, SEL (08 R138): the result register by its bits. -/
def Sys2Proof.Claims.FieldWords : Prop :=
  (∀ (d a pos width : BitVec 6) (s t : State), issuedIn (.bfx d a pos width) s = some t → ∃ v : Word,
    exec (.bfx d a pos width) s = .next (completed (.bfx d a pos width) s (setX t d v) .fall)
    ∧ ∀ j, j < 64 → v.getLsbD j = (decide (j ≤ width.toNat) && (xOf t a).getLsbD (pos.toNat + j)))
  ∧ (∀ (d a pos width : BitVec 6) (s t : State), issuedIn (.bfi d a pos width) s = some t → ∃ v : Word,
    exec (.bfi d a pos width) s = .next (completed (.bfi d a pos width) s (setX t d v) .fall)
    ∧ ∀ j, j < 64 → v.getLsbD j =
        if pos.toNat ≤ j ∧ j ≤ pos.toNat + width.toNat then (xOf t a).getLsbD (j - pos.toNat) else (xOf t d).getLsbD j)
  ∧ (∀ (d a b f : BitVec 6) (s t : State), issuedIn (.sel d a b f) s = some t →
    exec (.sel d a b f) s = .next (completed (.sel d a b f) s
      (setX t d (if ((readP t.me.regs (f.toNat % 32)).getLsbD 0 ^^ f.getLsbD 5) = true then xOf t a else xOf t b)) .fall))

/-- The six relations of CMP 0x19 by code, and the four of CMP 0x1A (08 R139). -/
def Sys2Proof.Claims.relationOf (unsigned : Bool) (cc : Nat) (a b : Word) : Prop :=
  match unsigned, cc with
  | false, 0 => a = b
  | false, 1 => a ≠ b
  | false, 2 => a.toInt < b.toInt
  | false, 3 => a.toInt ≤ b.toInt
  | false, 4 => b.toInt < a.toInt
  | false, _ => b.toInt ≤ a.toInt
  | true, 0 => a.toNat < b.toNat
  | true, 1 => a.toNat ≤ b.toNat
  | true, 2 => b.toNat < a.toNat
  | true, _ => b.toNat ≤ a.toNat

/-- A compare word writes one truth value into every lane of p[d]. -/
def Sys2Proof.Claims.Compares (i : Instr) (d : Nat) (rel : State → Prop) : Prop :=
  ∀ s t : State, issuedIn i s = some t → ∃ p : PredWord,
    exec i s = .next (completed i s (mapRegs t fun r => writeP r d p) .fall) ∧ ∀ j, j < 128 → (p.getLsbD j = true ↔ rel t)

/-- CMP and CMPI compare two values and write every lane of p[d] (08 R139). -/
def Sys2Proof.Claims.CompareWords : Prop :=
  ∀ (d a b cc : BitVec 6) (imm : BitVec 12),
    Compares (.cmpSigned d a b cc) d.toNat (fun t => relationOf false cc.toNat (xOf t a) (xOf t b))
    ∧ Compares (.cmpUnsigned d a b cc) d.toNat (fun t => relationOf true cc.toNat (xOf t a) (xOf t b))
    ∧ Compares (.cmpiEq d a imm) d.toNat (fun t => relationOf false 0 (xOf t a) (imm.signExtend 64))
    ∧ Compares (.cmpiNe d a imm) d.toNat (fun t => relationOf false 1 (xOf t a) (imm.signExtend 64))
    ∧ Compares (.cmpiLt d a imm) d.toNat (fun t => relationOf false 2 (xOf t a) (imm.signExtend 64))
    ∧ Compares (.cmpiLe d a imm) d.toNat (fun t => relationOf false 3 (xOf t a) (imm.signExtend 64))
    ∧ Compares (.cmpiLtu d a imm) d.toNat (fun t => relationOf true 0 (xOf t a) (imm.signExtend 64))
    ∧ Compares (.cmpiLeu d a imm) d.toNat (fun t => relationOf true 1 (xOf t a) (imm.signExtend 64))

/-- PLOG acts lane by lane (08 R140). -/
def Sys2Proof.Claims.PredicateLogic : Prop :=
  (∀ (d a b fn : BitVec 6) (s t : State), issuedIn (.plog d a b fn) s = some t → ∃ p : PredWord,
    exec (.plog d a b fn) s = .next (completed (.plog d a b fn) s (mapRegs t fun r => writeP r d.toNat p) .fall)
    ∧ ∀ j, j < 128 → p.getLsbD j =
        (let x := (readP t.me.regs a.toNat).getLsbD j
         let y := (readP t.me.regs b.toNat).getLsbD j
         match fn.toNat with | 0 => x && y | 1 => x || y | 2 => x ^^ y | 3 => x && !y | _ => !x))

/-- Bit fields and selection, compares, predicate logic (08 R138-R140). -/
def Obligations.FieldsAndCompares : Prop := FieldWords ∧ CompareWords ∧ PredicateLogic

/-- PSETN and PTEST: the encoding with XB and FN6 zero; PSETN sets lanes 0 to n - 1, n = min(x[XA], 128), and clears the others;
PTEST counts the set lanes (08 R141). -/
def Obligations.PredicateCounts : Prop :=
  (∀ (d a : BitVec 6) (x : BitVec 12),
    let word (op : Nat) : Nat := op * 2 ^ 24 + d.toNat * 2 ^ 18 + a.toNat * 2 ^ 12 + x.toNat
    (x = 0 → d.toNat < 24 → decodeWord 0 (word 0x1C) = .ok (.psetn d a))
    ∧ (x = 0 → a.toNat < 24 → decodeWord 0 (word 0x1D) = .ok (.ptest d a))
    ∧ (x ≠ 0 → decodeWord 0 (word 0x1C) = .error .reserved ∧ decodeWord 0 (word 0x1D) = .error .reserved))
  ∧ (∀ (d a : BitVec 6) (s t : State), issuedIn (.psetn d a) s = some t → ∃ p : PredWord,
    exec (.psetn d a) s = .next (completed (.psetn d a) s (mapRegs t fun r => writeP r d.toNat p) .fall)
    ∧ ∀ j, j < 128 → p.getLsbD j = decide (j < (xOf t a).toNat))
  ∧ (∀ (d a : BitVec 6) (s t : State), issuedIn (.ptest d a) s = some t →
    exec (.ptest d a) s = .next (completed (.ptest d a) s
      (setX t d (BitVec.ofNat 64 (((List.range 128).map fun j => ((readP t.me.regs a.toNat).getLsbD j).toNat).sum))) .fall))

/-- ADDI to MULI compute the operation of 08 R136 with the sign-extended immediate, the shifts with its low six bits (08 R142);
LIH shifts its destination by 18 and fills with the immediate, LDIL loads 46 sign-extended bits (08 R143). -/
def Sys2Proof.Claims.ImmediateWords : Prop :=
  ∀ (d a : BitVec 6) (imm : BitVec 12) (i18 : BitVec 18) (i46 : BitVec 46) (s t : State),
    (issuedIn (.addi d a imm) s = some t → exec (.addi d a imm) s = .next (completed (.addi d a imm) s
      (setX t d (BitVec.ofInt 64 ((xOf t a).toInt + imm.toInt))) .fall))
    ∧ (issuedIn (.andi d a imm) s = some t → exec (.andi d a imm) s = .next (completed (.andi d a imm) s
      (setX t d (xOf t a &&& BitVec.ofInt 64 imm.toInt)) .fall))
    ∧ (issuedIn (.ori d a imm) s = some t → exec (.ori d a imm) s = .next (completed (.ori d a imm) s
      (setX t d (xOf t a ||| BitVec.ofInt 64 imm.toInt)) .fall))
    ∧ (issuedIn (.xori d a imm) s = some t → exec (.xori d a imm) s = .next (completed (.xori d a imm) s
      (setX t d (xOf t a ^^^ BitVec.ofInt 64 imm.toInt)) .fall))
    ∧ (issuedIn (.shli d a imm) s = some t → exec (.shli d a imm) s = .next (completed (.shli d a imm) s
      (setX t d (BitVec.ofNat 64 ((xOf t a).toNat * 2 ^ imm.toNat))) .fall))
    ∧ (issuedIn (.shri d a imm) s = some t → exec (.shri d a imm) s = .next (completed (.shri d a imm) s
      (setX t d (BitVec.ofNat 64 ((xOf t a).toNat / 2 ^ imm.toNat))) .fall))
    ∧ (issuedIn (.sari d a imm) s = some t → exec (.sari d a imm) s = .next (completed (.sari d a imm) s
      (setX t d (BitVec.ofInt 64 ((xOf t a).toInt / 2 ^ imm.toNat))) .fall))
    ∧ (issuedIn (.muli d a imm) s = some t → exec (.muli d a imm) s = .next (completed (.muli d a imm) s
      (setX t d (BitVec.ofInt 64 ((xOf t a).toInt * imm.toInt))) .fall))
    ∧ (issuedIn (.lih d i18) s = some t → exec (.lih d i18) s = .next (completed (.lih d i18) s
      (setX t d (BitVec.ofNat 64 ((xOf t d).toNat * 2 ^ 18 + i18.toNat))) .fall))
    ∧ (issuedIn (.ldil d i46) s = some t → exec (.ldil d i46) s = .next (completed (.ldil d i46) s
      (setX t d (BitVec.ofInt 64 i46.toInt)) .fall))

/-- The arithmetic words, from registers and from immediates (08 R136, R142, R143). -/
def Obligations.ScalarArithmetic : Prop := AluResults ∧ ImmediateWords

/-- The value of each CSR of 03 R54 as a task reads it; none for a number that is not listed and for ERRINJ. -/
def Sys2Proof.Claims.csrValue (t : State) (n : Nat) : Option Word :=
  match n with
  | 0x000 => some t.me.task.taskid
  | 0x001 => some (BitVec.ofNat 64 t.me.id)
  | 0x002 => some (BitVec.ofNat 64 (t.me.id % 8))
  | 0x003 => some (BitVec.ofNat 64 t.me.flow.lsn)
  | 0x004 => some (BitVec.ofNat 64 t.me.csr.cycle)
  | 0x005 => some (BitVec.ofNat 64 t.time)
  | 0x010 => some t.me.csr.gotbase
  | 0x011 => some t.me.csr.seed
  | 0x012 => some (BitVec.ofNat 64 t.me.csr.rmode.toNat)
  | 0x013 => some (BitVec.ofNat 64 t.me.csr.vl.toNat)
  | 0x014 => some (BitVec.ofNat 64 t.me.csr.cycleft)
  | 0x015 => some (BitVec.ofNat 64 t.rmap.version)
  | 0x016 => some t.me.csr.trapvec
  | 0x017 => some t.me.csr.emuvec
  | 0x018 => some (BitVec.ofNat 64 t.me.regions.length)
  | 0x019 => some t.me.csr.faultrec
  | _ => none

/-- CSRRD reads every CSR of 03 R54 zero-extended into x[XD]; a read of ERRINJ raises 0x0202, of a number that is not listed
0x0102 (03 R54, R55, 08 R144, R145). -/
def Sys2Proof.Claims.CsrReads : Prop :=
  ∀ (d : BitVec 6) (n : BitVec 12) (s t : State), issuedIn (.csrrd d n) s = some t →
    exec (.csrrd d n) s = .next (
      match csrValue t n.toNat with
      | some v => completed (.csrrd d n) s (setX t d v) .fall
      | none => raised (.csrrd d n) s t (if n = 0x020 then 0x0202 else 0x0102) none)

/-- CSRWR: RMODE, VL, TRAPVEC, EMUVEC and FAULTREC take the value of x[XA] unless it is refused; a read-only CSR
and ERRINJ raise 0x0202, a number that is not listed 0x0102; RMODE and VL here in logical form (03 R54, R55, 08 R144). -/
def Sys2Proof.Claims.CsrWrites : Prop :=
  ∀ (a : BitVec 6) (n : BitVec 12) (s t : State), issuedIn (.csrwr a n) s = some t → s.me.form = .logical ∨ (n ≠ 0x012 ∧ n ≠ 0x013) →
    exec (.csrwr a n) s = .next (
      let v := (xOf t a).toNat
      let set (f : Csrs → Csrs) := completed (.csrwr a n) s { t with me := { t.me with csr := f t.me.csr } } .fall
      let fail (c : Nat) := raised (.csrwr a n) s t c none
      match n.toNat with
      | 0x012 => if v < 16 then set fun c => { c with rmode := BitVec.ofNat 4 v } else fail 0x0102
      | 0x013 => if v ≤ 512 then set fun c => { c with vl := BitVec.ofNat 10 v } else fail 0x0102
      | 0x016 => if v % 4 = 0 then set fun c => { c with trapvec := BitVec.ofNat 64 v } else fail 0x0203
      | 0x017 => if v % 4 = 0 then set fun c => { c with emuvec := BitVec.ofNat 64 v } else fail 0x0203
      | 0x019 => if v % 128 = 0 then set fun c => { c with faultrec := BitVec.ofNat 64 v } else fail 0x0203
      | 0x020 => fail 0x0202
      | m => if (csrValue t m).isSome then fail 0x0202 else fail 0x0102)

/-- CSRWR in slice form completes where the mode queues it feeds have room, and RMODE and VL are then also carried to the other
slices, tagged with the word's LSN; where one is full the word waits (03 R56, 14 R287). -/
def Sys2Proof.Claims.CsrWritesInSlices : Prop :=
  ∀ (a : BitVec 6) (s t : State), s.me.form = .slices →
    (issuedIn (.csrwr a 0x012) s = some t → (xOf t a).toNat < 16 →
      t.me.str.modeS.length < 8 → t.me.str.modeV.length < 8 → t.me.str.modeM.length < 8 → ∃ u : State,
      exec (.csrwr a 0x012) s = .next (completed (.csrwr a 0x012) s u .fall)
      ∧ u.me.csr = { t.me.csr with rmode := BitVec.ofNat 4 (xOf t a).toNat }
      ∧ (∀ e, e ∈ u.me.str.modeV ↔ e ∈ t.me.str.modeV ∨ e = { tag := t.me.flow.lsn, rmode := true, val := (xOf t a).toNat })
      ∧ (∀ e, e ∈ u.me.str.modeS ↔ e ∈ t.me.str.modeS ∨ e = { tag := t.me.flow.lsn, rmode := true, val := (xOf t a).toNat })
      ∧ (∀ e, e ∈ u.me.str.modeM ↔ e ∈ t.me.str.modeM ∨ e = { tag := t.me.flow.lsn, rmode := true, val := (xOf t a).toNat })
      ∧ u.me.regs = t.me.regs ∧ u.mem = t.mem)
    ∧ (issuedIn (.csrwr a 0x013) s = some t → (xOf t a).toNat ≤ 512 →
      t.me.str.modeS.length < 8 → t.me.str.modeV.length < 8 → ∃ u : State,
      exec (.csrwr a 0x013) s = .next (completed (.csrwr a 0x013) s u .fall)
      ∧ u.me.csr = { t.me.csr with vl := BitVec.ofNat 10 (xOf t a).toNat }
      ∧ (∀ e, e ∈ u.me.str.modeV ↔ e ∈ t.me.str.modeV ∨ e = { tag := t.me.flow.lsn, rmode := false, val := (xOf t a).toNat })
      ∧ (∀ e, e ∈ u.me.str.modeS ↔ e ∈ t.me.str.modeS ∨ e = { tag := t.me.flow.lsn, rmode := false, val := (xOf t a).toNat })
      ∧ u.me.str.modeM = t.me.str.modeM ∧ u.me.regs = t.me.regs ∧ u.mem = t.mem)
    ∧ (issuedIn (.csrwr a 0x012) s = some t → (xOf t a).toNat < 16 →
      8 ≤ t.me.str.modeS.length ∨ 8 ≤ t.me.str.modeV.length ∨ 8 ≤ t.me.str.modeM.length →
      exec (.csrwr a 0x012) s = .next (waiting (.csrwr a 0x012) s t .queue))
    ∧ (issuedIn (.csrwr a 0x013) s = some t → (xOf t a).toNat ≤ 512 →
      8 ≤ t.me.str.modeS.length ∨ 8 ≤ t.me.str.modeV.length →
      exec (.csrwr a 0x013) s = .next (waiting (.csrwr a 0x013) s t .queue))
    ∧ (issuedIn (.csrwr a 0x012) s = some t → 16 ≤ (xOf t a).toNat →
      exec (.csrwr a 0x012) s = .next (raised (.csrwr a 0x012) s t 0x0102 none))
    ∧ (issuedIn (.csrwr a 0x013) s = some t → 512 < (xOf t a).toNat →
      exec (.csrwr a 0x013) s = .next (raised (.csrwr a 0x013) s t 0x0102 none))

/-- CSRRD and CSRWR: every CSR, every refusal, both forms (03 R54-R56, 08 R144, R145). -/
def Obligations.CsrWords : Prop := CsrReads ∧ CsrWrites ∧ CsrWritesInSlices

/-- `n` bytes read as a little-endian number, sign-extended where `signed` says so (08 R148). -/
def Sys2Proof.Claims.extendedValue (signed : Bool) (bs : List Byte) : Word :=
  BitVec.ofInt 64 (if signed = true ∧ 2 ^ (8 * bs.length) ≤ 2 * natOf bs then (natOf bs : Int) - 2 ^ (8 * bs.length) else natOf bs)

/-- LDG and LDC: an address outside the global aperture raises 0x0204, one that is not a multiple of 8 raises 0x0203, then the
translation decides. Else the word completes where its sector is good: x[XD] takes the eight bytes at the home, little-endian, or a word
that the cluster's constant cache holds. Which of the two is the model's choice (log 1): where it names the home, or the cache holds
no word read since after the launch's submission, the home's bytes are taken and cached (08 R146, R147). -/
def Sys2Proof.Claims.ConstLoad (i : Instr) (d : BitVec 6) (addr : State → Nat) : Prop :=
  ∀ s t : State, issuedIn i s = some t →
    (2 ^ 52 ≤ addr t → exec i s = .next (raised i s t 0x0204 (some (addr t))))
    ∧ (addr t < 2 ^ 52 → addr t % 8 ≠ 0 → exec i s = .next (raised i s t 0x0203 (some (addr t))))
    ∧ (addr t < 2 ^ 52 → addr t % 8 = 0 → ∀ (u : State) (c : Nat), translate t (myPart t) (addr t) false = (u, .error c) →
        exec i s = .next (raised i s u c (some (addr t))))
    ∧ (addr t < 2 ^ 52 → addr t % 8 = 0 → ∀ (u : State) (k : Nat), translate t (myPart t) (addr t) false = (u, .ok k) →
        markOf u k = none → ∃ (v : State) (w : Word),
        exec i s = .next (completed i s (setX v d w) .fall) ∧ v.mem = u.mem ∧ v.me.regs = u.me.regs
        ∧ (w = BitVec.ofNat 64 (natOf (cellsGet u.mem k 8)) ∨ ∃ n, ((u.me.id / 8, k), n, w) ∈ u.ccache))
    ∧ (addr t < 2 ^ 52 → addr t % 8 = 0 → ∀ (u : State) (k : Nat), translate t (myPart t) (addr t) false = (u, .ok k) →
        deferNow u = false ∨ (∀ e ∈ u.ccache, e.1 ≠ (u.me.id / 8, k)) → markOf u k = none → ∃ v : State,
        exec i s = .next (completed i s (setX v d (BitVec.ofNat 64 (natOf (cellsGet u.mem k 8)))) .fall)
        ∧ v.mem = u.mem ∧ v.me.regs = u.me.regs
        ∧ ((u.me.id / 8, k), (myPart u).arrivals, BitVec.ofNat 64 (natOf (cellsGet u.mem k 8))) ∈ v.ccache)
    ∧ (addr t < 2 ^ 52 → addr t % 8 = 0 → ∀ (u : State) (k n : Nat) (w : Word) (l : Launch),
        translate t (myPart t) (addr t) false = (u, .ok k) → deferNow u = true →
        (u.ccache.find? fun e => e.1 == (u.me.id / 8, k)) = some ((u.me.id / 8, k), n, w) →
        launchOf u u.me.task.launch = some l → l.arrival < n → ∃ v : State,
        exec i s = .next (completed i s (setX v d w) .fall) ∧ v.mem = u.mem ∧ v.me.regs = u.me.regs ∧ v.ccache = u.ccache)

/-- LDG and LDC (08 R146, R147). -/
def Sys2Proof.Claims.ConstantLoads : Prop :=
  ∀ (d a : BitVec 6) (imm : BitVec 12),
    ConstLoad (.ldg d imm) d (fun t => (t.me.csr.gotbase.toNat + 8 * imm.toNat) % 2 ^ 64)
    ∧ ConstLoad (.ldc d a imm) d (fun t => ((((xOf t a).toNat : Int) + imm.toInt) % 2 ^ 64).toNat)

/-- A scalar load of `n` bytes that passes its checks at a byte of this module and does not wait: it takes its bytes from
SQ(C), from L1 after a Fill, or where they are performed, after every older load; while an older load has not performed or an atomic of its
bytes still waits, so does the word (08 R148, R150). -/
def Sys2Proof.Claims.LoadResult (mk : BitVec 6 → BitVec 6 → BitVec 1 → BitVec 11 → Instr) (n : Nat) (signed : Bool) : Prop :=
  ∀ (d a : BitVec 6) (hb : BitVec 1) (disp : BitVec 11) (s t u : State) (k : Acc1),
    issuedIn (mk d a hb disp) s = some t → checkC t hb a disp.toInt n false false = (u, .ok k) → k.remote = none →
    deferNow u = false →
    let v := settleAtomics (performAll (popDefer (unpark u))) k.key n
    let held := (∃ e ∈ v.me.lqC, e.lsn < v.me.flow.lsn) ∨ coveredByAtomic v k.key n = true
    (held → exec (mk d a hb disp) s = .next (waiting (mk d a hb disp) s v .queue))
    ∧ (¬ held → loadMark v v.me.flow.lsn k.key n k.global = none →
      let b := loadBytes v v.me.flow.lsn k.key n k.global
      exec (mk d a hb disp) s = .next (completed (mk d a hb disp) s (setX b.1 d (extendedValue signed b.2)) .fall))

/-- LDB to LDD write x[XD] with the extended bytes (08 R148, R150). -/
def Sys2Proof.Claims.ScalarLoads : Prop :=
  LoadResult .ldb 1 true ∧ LoadResult .ldbu 1 false ∧ LoadResult .ldh 2 true ∧ LoadResult .ldhu 2 false
  ∧ LoadResult .ldw 4 true ∧ LoadResult .ldwu 4 false ∧ LoadResult .ldd 8 false

/-- An entry of SQ(C) of this module that is older than the LSN `l` covers the byte `b`. -/
def Sys2Proof.Claims.covers (e : SqEntry) (l b : Nat) : Prop :=
  e.lsn < l ∧ e.mark = none ∧ e.remote = none ∧ e.key ≤ b
  ∧ b < e.key + (match e.atomic with | some a => if a.wide then 8 else 4 | none => e.bytes.length)

/-- The bytes a load takes: each from the youngest older store of SQ(C) that covers it; where none does, outside global space the byte of
memory, in global space the byte that L1 holds or that of the home after a Fill (08 R150, 11 R212, Perform). -/
def Sys2Proof.Claims.LoadedBytes : Prop :=
  ∀ (s : State) (l k n i : Nat), i < n →
    (loadBytes s l k n false).2.length = n
    ∧ (∀ (pre post : List SqEntry) (e : SqEntry) (global : Bool), s.me.sqC = pre ++ e :: post → e.atomic = none → covers e l (k + i) →
        (∀ f ∈ post, ¬ covers f l (k + i)) → (loadBytes s l k n global).2[i]? = e.bytes[k + i - e.key]?)
    ∧ ((∀ f ∈ s.me.sqC, ¬ covers f l (k + i)) → (loadBytes s l k n false).2[i]? = some (cellGet s.mem (k + i)))
    ∧ ((∀ f ∈ s.me.sqC, ¬ covers f l (k + i)) → k / 64 = (k + n - 1) / 64 → keyDie k = s.me.id / 192 →
        (loadBytes s l k n true).2[i]? = some (match assoc s.me.l1 (k + i) with | some e => e.val | none => cellGet s.mem (k + i)))

/-- A scalar store of `n` bytes that passes its checks with a place free in SQ(C): it joins the tail of SQ(C) with the low `n`
bytes of x[XD], and no byte of memory or of L1 and no register changes (08 R148, R150, 11 R212). -/
def Sys2Proof.Claims.StoreResult (mk : BitVec 6 → BitVec 6 → BitVec 1 → BitVec 11 → Instr) (n : Nat) : Prop :=
  ∀ (d a : BitVec 6) (hb : BitVec 1) (disp : BitVec 11) (s t u : State) (k : Acc1),
    issuedIn (mk d a hb disp) s = some t → checkC t hb a disp.toInt n true false = (u, .ok k) → u.me.sqC.length < 32 →
    ∃ v : State, exec (mk d a hb disp) s = .next (completed (mk d a hb disp) s v .fall)
    ∧ v.me.sqC = u.me.sqC ++ [{ lsn := u.me.flow.lsn, pc := u.me.flow.pc, key := if k.remote.isSome then 0 else k.key, addr := 0,
                                bytes := (List.range n).map fun i => BitVec.ofNat 8 ((xOf t d).toNat / 2 ^ (8 * i)),
                                global := k.global, ver := k.ver, remote := k.remote.map fun m => (m, k.key), atomic := none,
                                mark := none }]
    ∧ v.mem = t.mem ∧ v.me.l1 = t.me.l1 ∧ v.me.regs = t.me.regs ∧ v.me.csr = t.me.csr ∧ v.me.str = t.me.str
    ∧ v.me.lqC = t.me.lqC ∧ v.me.sqS = t.me.sqS ∧ v.others = t.others

/-- STB to STD (08 R148, R150). -/
def Sys2Proof.Claims.ScalarStores : Prop := StoreResult .stb 1 ∧ StoreResult .sth 2 ∧ StoreResult .stw 4 ∧ StoreResult .std 8

/-- Scalar loads and stores, and the bytes a load takes (08 R148, R150, 11 R212). -/
def Obligations.ScalarAccesses : Prop := ScalarLoads ∧ LoadedBytes ∧ ScalarStores

/-- A load or store whose check fails raises that code, with the address but for 0x0404; one that may not yet read its tile
waits (08 R149). -/
def Sys2Proof.Claims.AccessFault (mk : BitVec 6 → BitVec 6 → BitVec 1 → BitVec 11 → Instr) (n : Nat) (wr : Bool) : Prop :=
  ∀ (d a : BitVec 6) (hb : BitVec 1) (disp : BitVec 11) (s t u : State), issuedIn (mk d a hb disp) s = some t →
    (∀ c x, checkC t hb a disp.toInt n wr false = (u, .bad c x) →
      exec (mk d a hb disp) s = .next (raised (mk d a hb disp) s u c (if c = 0x0404 then none else some x)))
    ∧ (∀ v h, checkC t hb a disp.toInt n wr false = (u, .park v h) →
      exec (mk d a hb disp) s = .next (waiting (mk d a hb disp) s u (.parked v h)))

/-- The order of the checks of a C-path access at an address x[XA] + DISP11 (08 R149): no aperture decodes it or it lies in the tile
aperture, 0x0204; not a multiple of the access size, 0x0203; a stack byte outside the partition's banks, 0x0204; a global page's
translation, 0x0201 or 0x0202; and through a handle: an empty register, 0x0404; an offset outside the tile, 0x0204; a misaligned offset,
0x0203; a store through a see handle, 0x0402; a load of an abandoned version, 0x0401, or of one whose fill the task itself holds, 0x0403.
Every scalar load and store raises what its checks find. (That the record of 0x0404 names no address is log 39, DEDUCED.) -/
def Obligations.AccessChecks : Prop :=
  AccessFault .ldb 1 false ∧ AccessFault .ldbu 1 false ∧ AccessFault .ldh 2 false ∧ AccessFault .ldhu 2 false
  ∧ AccessFault .ldw 4 false ∧ AccessFault .ldwu 4 false ∧ AccessFault .ldd 8 false
  ∧ AccessFault .stb 1 true ∧ AccessFault .sth 2 true ∧ AccessFault .stw 4 true ∧ AccessFault .std 8 true
  ∧ (∀ (s : State) (a size : Nat) (wr : Bool),
      (placeOf s a = .none → checkAddr s a size wr false = (s, .bad 0x0204 a))
      ∧ (2 ^ 56 * 0xF4 ≤ a → a < 2 ^ 56 * 0xF5 → checkAddr s a size wr false = (s, .bad 0x0204 a))
      ∧ (placeOf s a ≠ .none → (∀ off, placeOf s a ≠ .tile off) → a % size ≠ 0 → checkAddr s a size wr false = (s, .bad 0x0203 a))
      ∧ (placeOf s a = .stack none → a % size = 0 → checkAddr s a size wr false = (s, .bad 0x0204 a))
      ∧ (a < 2 ^ 52 → a % size = 0 → ∀ u c, translate s (myPart s) a wr = (u, .error c) →
          checkAddr s a size wr false = (u, .bad c a)))
  ∧ (∀ (s : State) (n : Nat) (disp : Int) (size : Nat) (wr : Bool),
      ((∀ h k, readH s.me.regs n ≠ .held h k) → checkHandle s n disp size wr = (s, .bad 0x0404 0))
      ∧ (∀ h k, readH s.me.regs n = .held h k →
          ((disp < 0 ∨ 2 ^ h.k ≤ disp) → ∃ x, checkHandle s n disp size wr = (s, .bad 0x0204 x))
          ∧ (0 ≤ disp → disp < 2 ^ h.k → disp % size ≠ 0 → ∃ x, checkHandle s n disp size wr = (s, .bad 0x0203 x))
          ∧ (0 ≤ disp → disp < 2 ^ h.k → disp % size = 0 → wr = true → h.fill = false →
              ∃ x, checkHandle s n disp size wr = (s, .bad 0x0402 x))
          ∧ (0 ≤ disp → disp < 2 ^ h.k → disp % size = 0 → wr = false → h.fill = false → h.home = s.fabric →
              ∀ v, verOf s h.ver = some v →
              (v.state = .abandoned → ∃ x, checkHandle s n disp size wr = (s, .bad 0x0401 x))
              ∧ (v.state = .filling → v.holder = .task s.me.task.launch s.me.task.serial →
                  ∃ x, checkHandle s n disp size wr = (s, .bad 0x0403 x))
              ∧ (v.state = .filling → v.holder ≠ .task s.me.task.launch s.me.task.serial →
                  checkHandle s n disp size wr = (s, .park h.ver h.home)))))

/-- CVTA gives the address of the same byte in another window, or 0 (12 R254); ISSPACE sets every lane of p[XD] where the address
lies in the window and passes the checks on address and crew (12 R253). -/
def Sys2Proof.Claims.AddressTests : Prop :=
  (∀ (d a f : BitVec 6) (s t : State), issuedIn (.cvta d a f) s = some t → ∃ r : Word,
    exec (.cvta d a f) s = .next (completed (.cvta d a f) s (setX t d r) .fall)
    ∧ (inSpace t (f.toNat % 8) (xOf t a).toNat = false → r = 0)
    ∧ (inSpace t (f.toNat % 8) (xOf t a).toNat = true →
        (f.toNat / 8 = f.toNat % 8 → r = xOf t a)
        ∧ (f.toNat % 8 = 1 → f.toNat / 8 = 2 →
            r.toNat = 0xF100000000000000 + (t.me.id % 8) * 2 ^ 20 + (xOf t a).toNat % 2 ^ 20)
        ∧ (f.toNat % 8 = 2 → f.toNat / 8 = 1 → (xOf t a).toNat / 2 ^ 20 % 8 = t.me.id % 8 →
            r.toNat = 0xF000000000000000 + (xOf t a).toNat % 2 ^ 20)
        ∧ (f.toNat % 8 = 2 → f.toNat / 8 = 1 → (xOf t a).toNat / 2 ^ 20 % 8 ≠ t.me.id % 8 → r = 0)
        ∧ (f.toNat / 8 ≠ f.toNat % 8 → ¬ (f.toNat % 8 = 1 ∧ f.toNat / 8 = 2) → ¬ (f.toNat % 8 = 2 ∧ f.toNat / 8 = 1) → r = 0)))
  ∧ (∀ (d a f : BitVec 6) (s t : State), issuedIn (.isspace d a f) s = some t → ∃ b : Bool,
    exec (.isspace d a f) s = .next (completed (.isspace d a f) s
      (mapRegs t fun r => writeP r d.toNat (if b then BitVec.allOnes 128 else 0)) .fall)
    ∧ (let x := (xOf t a).toNat
       (f = 0 → b = decide (x < 2 ^ 52))
       ∧ (f = 1 → b = decide (0xF000000000000000 ≤ x ∧ x < 0xF000000000000000 + 2 ^ 20))
       ∧ (f = 2 → b = (decide (0xF100000000000000 ≤ x ∧ x < 0xF100000000000000 + 2 ^ 23)
            && isMate t (8 * (t.me.id / 8) + x / 2 ^ 20 % 8)))
       ∧ (f = 3 → b = decide (0xF200000000000000 ≤ x ∧ x < 0xF200000000000000 + 2 ^ 29 ∧ x / 2 ^ 22 % 64 < 48))
       ∧ (f = 4 → b = decide (0xF300000000000000 ≤ x ∧ x < 0xF300000000000000 + 2 ^ 33))
       ∧ (f = 5 → b = decide (0xF400000000000000 ≤ x ∧ x < 0xF400000000000000 + 2 ^ 52))))

/-- Loads of constants, and the words that test and convert addresses (08 R146, R147, 12 R253, R254). -/
def Obligations.AddressWords : Prop := ConstantLoads ∧ AddressTests

/-- No load or atomic of the core has issued and not acted, and nothing in SQ(C) lies beyond the frontier (02 R40, R41). -/
def Sys2Proof.Claims.NonePending (c : Core) : Prop :=
  (∀ e ∈ c.lqC, e.mark.isSome = true) ∧ ∀ e ∈ c.sqC, e.atomic = none ∧ e.lsn ≤ frontier c

/-- QMARK, FENCE and PFENCE complete, from every state. With no load or atomic pending they act at once, with their waits, write-backs
and invalidations done, or stand as markers in LQ(C) and SQ(C) that act in their turn: which of the two is the model's choice
(log 1). PFENCE acts at once (11 R215-R218, 12 R252). -/
def Obligations.FenceWords : Prop :=
  ∀ (s t : State),
    (issuedIn .qmark s = some t → ∃ u : State, exec .qmark s = .next (completed .qmark s u .fall)
      ∧ (deferNow t = false → NonePending t.me → u.me.lqC = [] ∧ u.me.sqC = [])
      ∧ (deferNow t = true → t.me.lqC.length < 32 → t.me.sqC.length < 32 → u.mem = t.mem ∧ u.me.l1 = t.me.l1
          ∧ u.me.lqC.length = t.me.lqC.length + 1 ∧ u.me.sqC.length = t.me.sqC.length + 1))
    ∧ (∀ f : BitVec 6, issuedIn (.fence f) s = some t → ∃ u : State, exec (.fence f) s = .next (completed (.fence f) s u .fall)
      ∧ (deferNow t = false → NonePending t.me → u.me.lqC = [] ∧ (f.toNat % 4 ≠ 1 → u.me.sqC = [])
          ∧ (f.toNat % 4 ≠ 2 → f.toNat / 4 % 8 ≠ 0 → ∀ e ∈ u.me.l1, e.2.dirty = true)
          ∧ (f.toNat % 4 = 3 → f.toNat / 4 % 8 ≠ 0 → u.me.l1 = [])
          ∧ (f.toNat % 4 ≠ 2 → 5 ≤ f.toNat / 4 % 8 → ∀ e ∈ u.rv, e.1.1 ≠ t.me.id / 192))
      ∧ (deferNow t = true → t.me.lqC.length < 32 → t.me.sqC.length < 32 → u.mem = t.mem ∧ u.me.l1 = t.me.l1
          ∧ u.me.sqC.length = t.me.sqC.length + 1
          ∧ u.me.lqC.length = if f.toNat % 4 = 2 then t.me.lqC.length else t.me.lqC.length + 1))
    ∧ (∀ (a b f : BitVec 6), issuedIn (.pfence a b f) s = some t → ∃ u : State,
      exec (.pfence a b f) s = .next (completed (.pfence a b f) s u .fall)
      ∧ u.me.l1 = [] ∧ (5 ≤ f.toNat / 4 % 8 → ∀ e ∈ u.rv, e.1.1 ≠ t.me.id / 192)
      ∧ (NonePending t.me → (f.toNat % 4 = 2 → u.me.sqC = []) ∧ (f.toNat % 4 = 3 → u.me.lqC = [] ∧ u.me.sqC = [])
          ∧ (f.toNat % 4 = 1 → u.me.lqC = [])))

/-- The tests of COND3 on the 128 lanes of a predicate (08 R152). -/
def Sys2Proof.Claims.testHolds (cond : Nat) (p : PredWord) : Prop :=
  match cond with
  | 0 => True
  | 1 => p.getLsbD 0 = true
  | 2 => p.getLsbD 0 = false
  | 3 => ∃ j, j < 128 ∧ p.getLsbD j = true
  | 4 => ∀ j, j < 128 → p.getLsbD j = false
  | 5 => ∀ j, j < 128 → p.getLsbD j = true
  | _ => ∃ j, j < 128 ∧ p.getLsbD j = false

/-- PBR and PBRX prepare t[n] and check nothing (08 R152, R153). -/
def Sys2Proof.Claims.PreparedTargets : Prop :=
  ∀ (s t : State) (n : BitVec 3) (disp : BitVec 21) (d a : BitVec 6),
    (issuedIn (.pbr n disp) s = some t → exec (.pbr n disp) s = .next (completed (.pbr n disp) s
      (mapRegs t fun r => writeT r n.toNat (BitVec.ofInt 64 ((logicalPc t.me).toInt + 4 * disp.toInt))) .fall))
    ∧ (issuedIn (.pbrx d a) s = some t → exec (.pbrx d a) s = .next (completed (.pbrx d a) s
      (mapRegs t fun r => writeT r d.toNat (xOf t a)) .fall))

/-- BR and CALL: not taken, the word only completes; taken to a target that is no multiple of 4 it raises 0x0203, to one that is
not the first unit of an instruction 0x0101; else the flow goes to t[n], and CALL first writes PC + 4 to x62 (08 R152, R153). A
return word, a BR on t7 that no PBR reaches, another statement covers while HDL is set or in slice form. -/
def Sys2Proof.Claims.BranchesAndCalls : Prop :=
  ∀ (s t : State) (pred : BitVec 5) (cond n : BitVec 3),
    let p := readP t.me.regs pred.toNat
    let dest := readT t.me.regs n.toNat
    (∀ i, (i = Instr.br pred cond n ∨ i = Instr.call pred cond n) → issuedIn i s = some t →
      (¬ testHolds cond.toNat p → exec i s = .next (completed i s t .fall))
      ∧ (testHolds cond.toNat p → dest.toNat % 4 ≠ 0 → exec i s = .next (raised i s t 0x0203 none))
      ∧ (testHolds cond.toNat p → dest.toNat % 4 = 0 → isFirst t.me dest.toNat = false →
          exec i s = .next (raised i s t 0x0101 none)))
    ∧ (issuedIn (.br pred cond n) s = some t → testHolds cond.toNat p → isFirst t.me dest.toNat = true →
        n ≠ 7 ∨ isReturn t.me (logicalPc t.me) = false ∨ (t.me.hdl = false ∧ s.me.form = .logical) →
        exec (.br pred cond n) s = .next (completed (.br pred cond n) s t (.taken (ownPc t.me dest))))
    ∧ (issuedIn (.call pred cond n) s = some t → testHolds cond.toNat p → isFirst t.me dest.toNat = true →
        exec (.call pred cond n) s = .next (completed (.call pred cond n) s
          (setX t 62 (BitVec.ofNat 64 ((logicalPc t.me).toNat + 4))) (.taken (ownPc t.me dest))))

/-- Targets prepared, branches and calls (08 R152, R153). -/
def Obligations.BranchWords : Prop := PreparedTargets ∧ BranchesAndCalls

/-- A taken BR or CALL changes nothing of the loop state: what is active stays so, with its counter, START and END (08 R154). A
return word, which is no ordinary taken BR (18 R358), places the slices anew in slice form. -/
def Obligations.TakenBranches : Prop :=
  ∀ (s t : State) (pred : BitVec 5) (cond n : BitVec 3) (i : Instr), i = .br pred cond n ∨ i = .call pred cond n →
    issuedIn i s = some t → testHolds cond.toNat (readP t.me.regs pred.toNat) →
    isFirst t.me (readT t.me.regs n.toNat).toNat = true →
    (i = .call pred cond n ∨ n ≠ 7 ∨ s.me.form = .logical ∨ isReturn t.me (logicalPc t.me) = false) →
    ∃ u : State, exec i s = .next u ∧ u.me.flow.loops = t.me.flow.loops

/-- A LOOP of `u` units in `t` started with a count: 0 clears ACTIVE and skips the body, any other sets the counter, START,
END and ACTIVE, as the loop started last (08 R156). -/
def Sys2Proof.Claims.LoopStarts (i : Instr) (n u body cnt : Nat) (s t : State) : Prop :=
  let start := t.me.flow.pc.toNat + 4 * u
  let old := t.me.flow.loops.getD n .none
  (cnt = 0 → exec i s = .next (completed i s (setLoop t n { old with active := false })
      (.skip (BitVec.ofNat 64 (start + 4 * body + 4)))))
  ∧ (cnt ≠ 0 → ∃ r : Nat,
      exec i s = .next (completed i s (setLoop t n { count := BitVec.ofNat 32 cnt, active := true, start := start,
                                                     stop := start + 4 * body, rank := r }) .fall)
      ∧ ∀ m, m < 4 → (t.me.flow.loops.getD m .none).active = true → (t.me.flow.loops.getD m .none).rank < r)

/-- LOOP, by register or immediate count: a count above 2^32 - 1 raises 0x0102, an END that is no instruction's last unit 0x0101 (of
both at once the model raises the first, log 16); in slice form the count goes to each channel its loop table row names, and a full
one holds the word back (08 R155-R157). -/
def Sys2Proof.Claims.HardwareLoops : Prop :=
  ∀ (s t : State) (l : BitVec 2) (a : BitVec 6) (c8 : BitVec 8) (body : BitVec 14) (i : Instr) (cnt : Nat),
    (i = .loopReg l a body ∧ cnt = (xOf t a).toNat) ∨ (i = .loopImm l c8 body ∧ cnt = c8.toNat + 1) →
    issuedIn i s = some t →
    (2 ^ 32 ≤ cnt → exec i s = .next (raised i s t 0x0102 none))
    ∧ (cnt < 2 ^ 32 → s.me.form = .logical → isLast t.me (t.me.flow.pc.toNat + 4 + 4 * body.toNat) = false →
        exec i s = .next (raised i s t 0x0101 none))
    ∧ (cnt < 2 ^ 32 → s.me.form = .slices → isLast t.me ((logicalPc t.me).toNat + 4 + 4 * logicalBody t body) = false →
        exec i s = .next (raised i s t 0x0101 none))
    ∧ (cnt < 2 ^ 32 → s.me.form = .logical → isLast t.me (t.me.flow.pc.toNat + 4 + 4 * body.toNat) = true →
        LoopStarts i l.toNat 1 body.toNat cnt s t)
    ∧ (cnt < 2 ^ 32 → s.me.form = .slices → isLast t.me ((logicalPc t.me).toNat + 4 + 4 * logicalBody t body) = true →
        (∃ c ∈ loopChans t.me, 16 ≤ (t.me.str.ch.getD c []).length) →
        exec i s = .next (waiting i s t .queue))
    ∧ (cnt < 2 ^ 32 → s.me.form = .slices → isLast t.me ((logicalPc t.me).toNat + 4 + 4 * logicalBody t body) = true →
        (∀ c ∈ loopChans t.me, (t.me.str.ch.getD c []).length < 16) →
        LoopStarts i l.toNat 1 body.toNat cnt s ((loopChans t.me).foldl (fun v c => chanPush v c (.scalar (BitVec.ofNat 64 cnt))) t))

/-- SLOOP, VLOOP and MLOOP take the count from the scalar at the head of ch[c]: an empty channel holds them back, an
entry that is no scalar or a count above 2^32 - 1 raises 0x0102 (09 R181, 10 R200, 12 R249). -/
def Sys2Proof.Claims.SliceLoop (mk : BitVec 2 → BitVec 4 → BitVec 14 → BitVec 19 → Instr) (u : Nat) : Prop :=
  ∀ (s t : State) (l : BitVec 2) (ch : BitVec 4) (body : BitVec 14) (y : BitVec 19), issuedIn (mk l ch body y) s = some t →
    (chanHead t ch.toNat = none → exec (mk l ch body y) s = .next (waiting (mk l ch body y) s t .queue))
    ∧ (∀ v, chanHead t ch.toNat = some (.vector v) → exec (mk l ch body y) s = .next (raised (mk l ch body y) s t 0x0102 none))
    ∧ (chanHead t ch.toNat = some .skipped → exec (mk l ch body y) s = .next (raised (mk l ch body y) s t 0x0102 none))
    ∧ (∀ v, chanHead t ch.toNat = some (.scalar v) → 2 ^ 32 ≤ v.toNat →
        exec (mk l ch body y) s = .next (raised (mk l ch body y) s t 0x0102 none))
    ∧ (∀ v, chanHead t ch.toNat = some (.scalar v) → v.toNat < 2 ^ 32 →
        LoopStarts (mk l ch body y) l.toNat u body.toNat v.toNat s (chanPop t ch.toNat))

/-- The loop words of the three other slices. -/
def Sys2Proof.Claims.SliceLoops : Prop := SliceLoop .sloop 3 ∧ SliceLoop .vloop 3 ∧ SliceLoop .mloop 6

/-- Loops of the four slices (08 R155-R157, 09 R181, 10 R200, 12 R249). -/
def Obligations.LoopWords : Prop := HardwareLoops ∧ SliceLoops

/-- SDBR, VDBR and MDBR pop one decision: where it equals SENSE the slice goes to the unit DISP21 names, else on to the next
word; an empty queue holds them back, a target that is no instruction of the slice's text raises 0x0101 (09 R182, 10 R200, 12
R249). -/
def Sys2Proof.Claims.SliceBranch (mk : BitVec 2 → BitVec 1 → BitVec 21 → BitVec 19 → Instr) : Prop :=
  ∀ (s t : State) (q : BitVec 2) (sense : BitVec 1) (disp : BitVec 21) (y : BitVec 19), issuedIn (mk q sense disp y) s = some t →
    let dest := BitVec.ofInt 64 (t.me.flow.pc.toInt + 4 * disp.toInt)
    (decHead t q.toNat = none → exec (mk q sense disp y) s = .next (waiting (mk q sense disp y) s t .queue))
    ∧ (∀ b, decHead t q.toNat = some b →
        (¬ (b = true ↔ sense = 1) → exec (mk q sense disp y) s = .next (completed (mk q sense disp y) s (decPop t q.toNat) .fall))
        ∧ ((b = true ↔ sense = 1) → dest.toNat % 4 ≠ 0 →
            exec (mk q sense disp y) s = .next (raised (mk q sense disp y) s t 0x0203 none))
        ∧ ((b = true ↔ sense = 1) → dest.toNat % 4 = 0 →
            firstUnit (t.me.code.toList.getD (engIdx t.me.eng) []) 0 (dest.toNat / 4) = false →
            exec (mk q sense disp y) s = .next (raised (mk q sense disp y) s t 0x0101 none))
        ∧ ((b = true ↔ sense = 1) → dest.toNat % 4 = 0 →
            firstUnit (t.me.code.toList.getD (engIdx t.me.eng) []) 0 (dest.toNat / 4) = true →
            exec (mk q sense disp y) s = .next (completed (mk q sense disp y) s (decPop t q.toNat) (.taken dest))))

/-- The deciding words: DPUSH appends the test's value while fewer than 32 decisions have still a reader, DTAKE writes the popped decision to every lane, and the branches of the
other slices pop theirs (08 R158, 09 R182, 10 R200, 12 R249). -/
def Sys2Proof.Claims.DecisionWords : Prop :=
  SliceBranch .sdbr ∧ SliceBranch .vdbr ∧ SliceBranch .mdbr
  ∧ (∀ (s t : State) (pred : BitVec 5) (cond : BitVec 3) (q : BitVec 2), issuedIn (.dpush pred cond q) s = some t →
      let l := t.me.str.dq.getD q.toNat []
      let held := (l.filter fun e => !decFreed (decReaders t.me q.toNat) e).length
      (32 ≤ held → exec (.dpush pred cond q) s = .next (waiting (.dpush pred cond q) s t .queue))
      ∧ (held < 32 → ∃ b : Bool, (b = true ↔ testHolds cond.toNat (readP t.me.regs pred.toNat))
          ∧ exec (.dpush pred cond q) s = .next (completed (.dpush pred cond q) s
              (setDq t q.toNat (l ++ [{ tag := t.me.flow.lsn, bit := b, popped := [] }])) .fall)))
  ∧ (∀ (s t : State) (pd : BitVec 5) (q : BitVec 2), issuedIn (.dtake pd q) s = some t →
      (decHead t q.toNat = none → exec (.dtake pd q) s = .next (waiting (.dtake pd q) s t .queue))
      ∧ (∀ b, decHead t q.toNat = some b → ∃ p : PredWord,
          exec (.dtake pd q) s = .next (completed (.dtake pd q) s (mapRegs (decPop t q.toNat) fun r => writeP r pd.toNat p) .fall)
          ∧ ∀ j, j < 128 → p.getLsbD j = b))

/-- NOP has no effect and takes one LSN; one with a field that is not zero raises 0x0102 (08 R159). -/
def Obligations.NopWord : Prop :=
  (∀ s t : State, issuedIn .nop s = some t → exec .nop s = .next (completed .nop s t .fall))
  ∧ (∀ s t : State, s.me.form = .logical → (completed .nop s t .fall).me.flow.lsn = t.me.flow.lsn + 1
      ∧ (completed .nop s t .fall).me.regs = t.me.regs ∧ (completed .nop s t .fall).mem = t.mem)
  ∧ (∀ x : Nat, x < 2 ^ 24 → decodeWord 0 (0x5B * 2 ^ 24 + x) = if x = 0 then .ok .nop else .error .reserved)
  ∧ Reject.reserved.code = 0x0102

/-- VNOP, MNOP and SNOP only complete; SNOP with mark=1 does so once every older copy of the S path may depart, and they do (09 R183, 10
R200, 11 R218, 12 R249). (That marking SNOP waits and drains so is log 31, DEDUCED.) -/
def Sys2Proof.Claims.EmptyWords : Prop :=
  (∀ (s t : State) (i : Instr), ((∃ y, i = .vnop y) ∨ (∃ y, i = .mnop y) ∨ ∃ w, i = .snop w) → issuedIn i s = some t →
    exec i s = .next (completed i s t .fall))
  ∧ (∀ (s t : State) (w : SWord), issuedIn (.snopMark w) s = some t →
      ((∀ c ∈ t.me.sqS, c.lsn ≤ frontier t.me) →
        exec (.snopMark w) s = .next (completed (.snopMark w) s (drainS t) .fall))
      ∧ ((∃ c ∈ t.me.sqS, frontier t.me < c.lsn) → exec (.snopMark w) s = .next (waiting (.snopMark w) s t .queue)))

/-- Decisions and the words that do nothing in the other slices (08 R158, 09 R182, R183, 11 R218). -/
def Obligations.DecisionAndEmptyWords : Prop := DecisionWords ∧ EmptyWords

/-- CROPEN pushes a region with its handler and its LSN, a fifth raises 0x0102; CRCLOSE pops the innermost, its handles then
count one less deep, with none open it raises 0x0102 (19 R363, 13 R273). -/
def Obligations.ContainmentRegions : Prop :=
  ∀ (s t : State) (disp : BitVec 21),
    (issuedIn (.cropen disp) s = some t →
      (t.me.regions.length < 4 → exec (.cropen disp) s = .next (completed (.cropen disp) s
        { t with me := { t.me with regions := { handler := BitVec.ofInt 64 ((logicalPc t.me).toInt + 4 * disp.toInt),
                                                opened := t.me.flow.lsn } :: t.me.regions } } .fall))
      ∧ (4 ≤ t.me.regions.length → exec (.cropen disp) s = .next (raised (.cropen disp) s t 0x0102 none)))
    ∧ (issuedIn .crclose s = some t →
      (t.me.regions = [] → exec .crclose s = .next (raised .crclose s t 0x0102 none))
      ∧ (∀ g rest, t.me.regions = g :: rest → ∃ u : State, exec .crclose s = .next (completed .crclose s u .fall)
          ∧ u.me.regions = rest ∧ u.mem = t.mem ∧ u.versions = t.versions ∧ u.me.regs.x = t.me.regs.x ∧ u.me.flow = t.me.flow
          ∧ (∀ n, n < 32 → readH u.me.regs n = match readH t.me.regs n with
              | .held h k => .held h (if rest.length < k then rest.length else k)
              | y => y)))

/-- No access waits in a core's queues, nothing stands in its rewind log, no post is owed, and no slice is turned away. -/
def Sys2Proof.Claims.Settled (c : Core) : Prop := c.lqC = [] ∧ c.sqC = [] ∧ c.sqS = [] ∧ c.rewind = [] ∧ c.posts = [] ∧ c.parked = []

/-- `n` bytes of memory as a little-endian number. -/
def Sys2Proof.Claims.memField (s : State) (k n : Nat) : Nat := natOf (cellsGet s.mem k n)

/-- The record of 18 R344 stands at the byte `k` of `u`, for a code taken in the state `t`. -/
def Sys2Proof.Claims.RecordHolds (t u : State) (k depth : Nat) (r : Raise) : Prop :=
  memField u k 2 = r.code % 2 ^ 16 ∧ memField u (k + 2) 1 = engIdx r.origin ∧ memField u (k + 3) 1 = depth % 2 ^ 8
  ∧ memField u (k + 4) 1 = t.me.task.part % 2 ^ 8 ∧ memField u (k + 5) 1 % 2 = (if r.addr.isSome then 1 else 0)
  ∧ memField u (k + 6) 2 = 0 ∧ memField u (k + 8) 8 = r.pc.toNat ∧ memField u (k + 16) 8 = r.lsn % 2 ^ 64
  ∧ memField u (k + 24) 8 = r.addr.getD 0 % 2 ^ 64 ∧ memField u (k + 40) 8 = t.me.task.taskid.toNat
  ∧ memField u (k + 48) 8 = t.me.task.launch % 2 ^ 64 ∧ memField u (k + 58) 2 = r.info % 2 ^ 16 ∧ memField u (k + 60) 4 = 0
  ∧ memField u (k + 72) 8 = t.time % 2 ^ 64 ∧ memField u (k + 80) 8 = t.me.csr.cycle % 2 ^ 64 ∧ memField u (k + 88) 8 = 0
  ∧ memField u (k + 96) 24 = natOf (r.insn.take 24) ∧ memField u (k + 120) 8 = 0

/-- FAULTREC names 128 bytes of the core's own scratch, at the offset `off`. -/
def Sys2Proof.Claims.recordIn (t : State) (off : Nat) : Prop := t.me.csr.faultrec.toNat = 0xF0 * 2 ^ 56 + off ∧ off % 128 = 0 ∧ off + 128 ≤ 2 ^ 20

/-- A handler of traps or emulation is entered from `t` (18 R357): the record, t7 with the PC of the word that follows after the
loop-back, HDL, the handler's PC and the LSN `f`; nothing else of registers, CSRs, regions or memory changes. -/
def Sys2Proof.Claims.HandlerEntered (t u : State) (off f units : Nat) (vec : Word) (r : Raise) : Prop :=
  u.me.hdl = true ∧ u.me.flow.pc = vec ∧ u.me.flow.lsn = f ∧ u.me.flow.loops = (after units t.me.flow).loops
  ∧ u.me.regs = writeT t.me.regs 7 (after units t.me.flow).pc ∧ u.me.csr = t.me.csr ∧ u.me.regions = t.me.regions
  ∧ u.me.run = t.me.run ∧ u.others = t.others ∧ RecordHolds t u (scratchKey t.me.id off) t.me.regions.length r
  ∧ memField u (scratchKey t.me.id off + 64) 8 = (readT t.me.regs 7).toNat
  ∧ (∀ k, (k < scratchKey t.me.id off ∨ scratchKey t.me.id off + 128 ≤ k) → cellGet u.mem k = cellGet t.mem k)

/-- TRAP nn with TRAPVEC and FAULTREC set and HDL clear enters the trap handler at the LSN after its own (18 R354, R355, R357):
in logical form, with the core's queues empty and a record in its scratch. -/
def Sys2Proof.Claims.TrapEntry : Prop :=
  ∀ (s t : State) (n : BitVec 8) (off : Nat), issuedIn (.trap n) s = some t → StateInv t → s.me.form = .logical → Settled t.me →
    recordIn t off → t.me.hdl = false → t.me.csr.trapvec ≠ 0 → isFirst t.me t.me.csr.trapvec.toNat = true → ∃ u : State,
    exec (.trap n) s = .next u
    ∧ u.me.emu = t.me.emu
    ∧ HandlerEntered t u off (t.me.flow.lsn + 1) 1 t.me.csr.trapvec
        { raiseOf t (0x0900 + n.toNat) none with info := n.toNat, insn := encodeBytes (.trap n) }

/-- A code 0x0101 of a kernel with the .emulate flag, EMUVEC and FAULTREC set and HDL clear, enters the emulation handler at the
word's own LSN; t7 takes the PC after the word (18 R354, R357). -/
def Sys2Proof.Claims.EmulationEntry : Prop :=
  ∀ (t : State) (r : Raise) (off : Nat), StateInv t → t.me.form = .logical → Settled t.me → recordIn t off → t.me.hdl = false →
    t.me.emulate = true → t.me.csr.emuvec ≠ 0 → isFirst t.me t.me.csr.emuvec.toNat = true →
    r.code = 0x0101 → r.after = false → r.lsn = t.me.flow.lsn → r.pc = t.me.flow.pc →
    (raiseCode t r).me.emu = true ∧ HandlerEntered t (raiseCode t r) off t.me.flow.lsn (r.insn.length / 4) t.me.csr.emuvec r

/-- A return word, a BR on t7 while HDL is set, clears HDL and EMU and goes to t7 with the next LSN (18 R358); in slice form it
waits for the other slices. -/
def Sys2Proof.Claims.HandlerReturn : Prop :=
  ∀ (s t : State) (pred : BitVec 5) (cond : BitVec 3), issuedIn (.br pred cond 7) s = some t →
    testHolds cond.toNat (readP t.me.regs pred.toNat) → isFirst t.me (readT t.me.regs 7).toNat = true → t.me.hdl = true →
    (isReturn t.me (logicalPc t.me) = true →
      (s.me.form = .logical → ∃ u : State, exec (.br pred cond 7) s = .next u ∧ u.me.hdl = false ∧ u.me.emu = false
        ∧ u.me.flow.pc = readT t.me.regs 7 ∧ u.me.flow.lsn = t.me.flow.lsn + 1 ∧ u.me.flow.loops = t.me.flow.loops
        ∧ u.me.regs = t.me.regs ∧ u.mem = t.mem ∧ u.me.regions = t.me.regions)
      ∧ (s.me.form = .slices → (∃ p ∈ t.me.parked, nextLsn p.2 ≤ t.me.flow.lsn) →
          exec (.br pred cond 7) s = .next (waiting (.br pred cond 7) s t .queue)))
    ∧ (isReturn t.me (logicalPc t.me) = false →
        exec (.br pred cond 7) s = .next (completed (.br pred cond 7) s t (.taken (ownPc t.me (readT t.me.regs 7)))))

/-- Handlers of traps and emulation: entered, and returned from (18 R354, R355, R357, R358). -/
def Obligations.HandlerEntries : Prop := TrapEntry ∧ EmulationEntry ∧ HandlerReturn

/-- Codes that no handler takes, in logical form with empty queues (18 R354, R358, 19 R368, 15 R296). With a region open the
innermost is popped, its handles end, and the handler starts at the failing LSN with the record; 0x0201 saves the task and sends
event 0x0201; inside a handler any other code becomes 0x0107; with no region the code reaches the host with its record and the
task is killed, under policy 2 held. -/
def Obligations.FaultRouting : Prop :=
  ∀ (t : State) (r : Raise), StateInv t → t.me.form = .logical → Settled t.me → r.after = false → r.lsn = t.me.flow.lsn →
    r.pc = t.me.flow.pc → r.code / 256 ≠ 9 → r.code ≠ 0x0101 →
    (r.code ≠ 0x0201 → t.me.hdl = false → ∀ (g : Region) (rest : List Region) (off : Nat), t.me.regions = g :: rest →
      (r.code = 0x0701 → t.me.granted = false) → recordIn t off → isFirst t.me g.handler.toNat = true →
      (raiseCode t r).me.flow.pc = g.handler ∧ (raiseCode t r).me.flow.lsn = r.lsn ∧ (raiseCode t r).me.regions = rest
      ∧ (raiseCode t r).me.regs = clearHandles t.me.regs (rest.length + 1) .empty ∧ (raiseCode t r).me.hdl = false
      ∧ RecordHolds t (raiseCode t r) (scratchKey t.me.id off) (rest.length + 1) r)
    ∧ (r.code = 0x0201 → (∃ v ∈ (raiseCode t r).saved, v.cause = .systemFault ∧ v.raised = some r
          ∧ { v.core.task with place := t.me.task.place } = t.me.task ∧ v.core.regs.x = t.me.regs.x ∧ v.core.flow.pc = r.pc ∧ v.core.flow.lsn = r.lsn)
        ∧ (raiseCode t r).me.run = .idle ∧ ∃ e ∈ (raiseCode t r).events, e.code = 0x0201 ∧ e.part = t.me.task.part)
    ∧ (r.code ≠ 0x0201 → t.me.hdl = true → (raiseCode t r).me.run = .idle
        ∧ ∃ q : FaultRec, HostReply.fault q ∈ (raiseCode t r).hostOut ∧ q.code = 0x0107 ∧ q.pc = r.pc ∧ q.lsn = r.lsn)
    ∧ (r.code ≠ 0x0201 → t.me.hdl = false → t.me.regions = [] → (raiseCode t r).me.run = .idle
        ∧ (∃ q : FaultRec, HostReply.fault q ∈ (raiseCode t r).hostOut ∧ q.code = r.code ∧ q.pc = r.pc ∧ q.lsn = r.lsn)
        ∧ (t.me.task.policy = 2 → ∃ v ∈ (raiseCode t r).saved, v.cause = .policy2 ∧ v.raised = some r
            ∧ { v.core.task with place := t.me.task.place } = t.me.task))

/-- TEXIT makes its word the task's last, TASK_EXIT then frees the core and counts the task as exited (16
R325). -/
def Sys2Proof.Claims.TaskEnd : Prop :=
  (∀ s t : State, issuedIn .texit s = some t →
    exec .texit s = .next (completed .texit s { t with me := { t.me with run := .exiting } } .fall))
  ∧ (∀ (g : Nat) (s : State), (coreOf s g).run = .exiting → (∀ h ∈ handlesFrom (coreOf s g).regs 0, h.home = s.fabric) →
      ∃ u : State, exec (.taskExit g) s = .next u ∧ (coreOf u g).run = .idle ∧ (coreOf u g).regs = Regs.clear
      ∧ (launchOf u (coreOf s g).task.launch).map Launch.exited = (launchOf s (coreOf s g).task.launch).map (fun l => l.exited + 1)
      ∧ ∀ c ∈ u.crews, c.id = (coreOf s g).task.crew → (coreOf s g).task.serial ∉ c.members)

/-- ERLS: its word; it takes its release of module scope and then marks the task released, which the launch counts; a second one
does nothing more; one inside a region raises 0x0705 (16 R324). -/
def Obligations.EarlyRelease : Prop :=
  (∀ x : Nat, x < 2 ^ 24 → decodeWord 0 (0x5C * 2 ^ 24 + x) = if x = 0 then .ok .erls else .error .reserved)
  ∧ (∀ s t : State, issuedIn .erls s = some t →
      (t.me.regions ≠ [] → exec .erls s = .next (raised .erls s t 0x0705 none))
      ∧ (t.me.regions = [] → t.me.erls = true → exec .erls s = .next (completed .erls s t .fall))
      ∧ (t.me.regions = [] → t.me.erls = false →
          let r := releaseAt t 4
          exec .erls s = .next (completed .erls s (updLaunch { r with me := { r.me with erls := true } } r.me.task.launch fun l =>
            { l with released := l.released ++ [r.me.task.serial] }) .fall)))

/-- BKPT halts its task as the debugger does, with its tag, where the context has breakpoints enabled, and only completes where
not: the task stands on its core after the word, its image in a free place of the save area where the host has assigned one (log 68), and the
host has the image's record with slice 7 and the tag; in slice form the word
waits for the other slices (18 R344, R347, R356). -/
def Sys2Proof.Claims.Breakpoints : Prop :=
  ∀ (s t : State) (n : BitVec 8), issuedIn (.bkpt n) s = some t →
    ((myPart t).cfg.brk = false → exec (.bkpt n) s = .next (completed (.bkpt n) s t .fall))
    ∧ ((myPart t).cfg.brk = true → s.me.form = .logical → Settled t.me → ∃ u : State, exec (.bkpt n) s = .next u
        ∧ u.me.run = .halted n.toNat true ∧ u.saved = t.saved ∧ u.me.flow = after 1 t.me.flow
        ∧ { u.me.task with place := t.me.task.place } = t.me.task ∧ u.me.task.place = freePlace t t.me.task.part
        ∧ u.me.regs = t.me.regs ∧ u.me.regions = t.me.regions
        ∧ (freePlace t t.me.task.part = none → u.mem = (settleCore t).mem)
        ∧ ∃ q : FaultRec, HostReply.fault q ∈ u.hostOut ∧ q.code = 0 ∧ q.slice = 7 ∧ q.info = n.toNat ∧ q.lsn = t.me.flow.lsn)
    ∧ ((myPart t).cfg.brk = true → s.me.form = .slices → (∃ p ∈ t.me.parked, nextLsn p.2 ≤ t.me.flow.lsn) →
        exec (.bkpt n) s = .next (waiting (.bkpt n) s t .queue))

/-- The end of a task, and breakpoints (16 R325, 18 R356). -/
def Obligations.TaskEndAndBreakpoints : Prop := TaskEnd ∧ Breakpoints

/-- A join that the slicer placed acts at issue and orders nothing; any other wait takes a crew acquire (16 R312, R313). -/
def Sys2Proof.Claims.joined (t u : State) : State := if isFill t then u else acquire u 1

/-- SWAIT and SWAITGE: where the count is reached SWAIT subtracts it, and the wait takes its acquire; else the word waits (16
R314). -/
def Sys2Proof.Claims.SemWaits (i : Instr) (sem n : Nat) (take : Bool) : Prop :=
  ∀ s t : State, issuedIn i s = some t →
    (n ≤ readS t.me.regs sem → exec i s = .next (completed i s (joined t
      (if take then mapRegs t fun r => writeS r sem (readS r sem - n) else t)) .fall))
    ∧ (readS t.me.regs sem < n → ∃ since,
        exec i s = .next (waiting i s t (.sem (BitVec.ofNat 8 sem) n take none since)))

/-- SWAITT by its limit, the value of x[XA]: one above 2^32 - 1 raises 0x0102. In a cycle up to `since` + limit a reached count is
subtracted, the predicate set and the acquire taken; after it the predicate is cleared; else the word waits (16 R316). (That a wait which
succeeds at once takes its acquire, 16 R312, R313, is log 30, DEDUCED.) -/
def Sys2Proof.Claims.SemaphoreWaits : Prop :=
  (∀ (sem : BitVec 8) (n : BitVec 16), SemWaits (.swait sem n) sem.toNat n.toNat true ∧ SemWaits (.swaitge sem n) sem.toNat n.toNat false)
  ∧ (∀ (s t : State) (sem : BitVec 8) (n : BitVec 16) (a : BitVec 6) (pd : BitVec 5), issuedIn (.swaitt sem n a pd) s = some t →
      let i := Instr.swaitt sem n a pd
      let lim := (xOf t a).toNat
      (2 ^ 32 ≤ lim → exec i s = .next (raised i s t 0x0102 none))
      ∧ (lim < 2 ^ 32 → ∀ since,
          (t.me.wait = .none ∧ since = t.me.csr.cycle) ∨ t.me.wait = .sem sem n.toNat true (some (lim, pd)) since →
          (since + lim < t.me.csr.cycle → exec i s = .next (completed i s (mapRegs t fun r => writeP r pd.toNat 0) .fall))
          ∧ (t.me.csr.cycle ≤ since + lim → n.toNat ≤ readS t.me.regs sem.toNat →
              exec i s = .next (completed i s (joined t (mapRegs t fun r =>
                writeP (writeS r sem.toNat (readS r sem.toNat - n.toNat)) pd.toNat (BitVec.allOnes 128))) .fall))
          ∧ (t.me.csr.cycle ≤ since + lim → readS t.me.regs sem.toNat < n.toNat →
              exec i s = .next (waiting i s t (.sem sem n.toNat true (some (lim, pd)) since)))))

/-- A task's own add of `v` to s[sem]: s128 and above raise 0x0202, but for the slicer's joins on s192 to s255; a sum above
2^32 - 1 raises 0x0304; else the count takes the sum (16 R314, R315). -/
def Sys2Proof.Claims.SemAdds (i : Instr) (s t : State) (sem v : Nat) : Prop :=
  let own := sem < 128 ∨ (isFill t = true ∧ 192 ≤ sem)
  (¬ own → exec i s = .next (raised i s t 0x0202 none))
  ∧ (own → 2 ^ 32 ≤ readS t.me.regs sem + v → exec i s = .next (raised i s t 0x0304 none))
  ∧ (own → readS t.me.regs sem + v < 2 ^ 32 →
      exec i s = .next (completed i s (mapRegs t fun r => writeS r sem (readS r sem + v)) .fall))

/-- SADD in both forms; SPOSTX to a core of the issuer's crew, whose post is on its way after the release, and its arrival, which
saturates (16 R314, R315, R317). (That a number of 128 or more with a position that is no member raises 0x0202 is log 16, DESIGN CHOICE.)
-/
def Sys2Proof.Claims.SemaphorePosts : Prop :=
  (∀ (s t : State) (sem : BitVec 8) (n : BitVec 16), issuedIn (.saddImm sem n) s = some t →
    SemAdds (.saddImm sem n) s t sem.toNat n.toNat)
  ∧ (∀ (s t : State) (lo a : BitVec 6) (hi : BitVec 2), issuedIn (.saddReg lo a hi) s = some t →
      (2 ^ 32 ≤ (xOf t a).toNat → exec (.saddReg lo a hi) s = .next (raised (.saddReg lo a hi) s t 0x0102 none))
      ∧ ((xOf t a).toNat < 2 ^ 32 → SemAdds (.saddReg lo a hi) s t (64 * hi.toNat + lo.toNat) (xOf t a).toNat))
  ∧ (∀ (s t : State) (sem : BitVec 8) (n : BitVec 16) (a : BitVec 6), issuedIn (.spostx sem n a) s = some t →
      let g := (xOf t a).toNat
      let ok := g < 384 ∧ g / 8 = t.me.id / 8 ∧ isMate t g = true
      (sem.toNat < 128 → ok → exec (.spostx sem n a) s = .next (completed (.spostx sem n a) s
        { releaseAt t 1 with spostq := (releaseAt t 1).spostq ++ [(g, sem.toNat, n.toNat, (releaseAt t 1).cycles)] } .fall))
      ∧ (sem.toNat < 128 → ¬ ok → exec (.spostx sem n a) s = .next (raised (.spostx sem n a) s t 0x0204 none))
      ∧ (128 ≤ sem.toNat → exec (.spostx sem n a) s = .next (raised (.spostx sem n a) s t 0x0202 none)))
  ∧ (∀ (s : State) (g sem n since : Nat) (rest : List (Nat × Nat × Nat × Nat)), s.spostq = (g, sem, n, since) :: rest → sem < 256 → ∃ u : State,
      exec .spostxArrival s = .next u ∧ u.spostq = rest ∧ u.mem = s.mem
      ∧ readS (coreOf u g).regs sem = min (2 ^ 32 - 1) (readS (coreOf s g).regs sem + n)
      ∧ (∀ k, k ≠ sem → readS (coreOf u g).regs k = readS (coreOf s g).regs k))

/-- Waits, adds and posts on semaphores (16 R314-R317). -/
def Obligations.SemaphoreWords : Prop := SemaphoreWaits ∧ SemaphorePosts

/-- PUSH to the member at a crew position, after its release: to one above 7 it raises 0x0102, to one that runs no member 0x0204;
it waits while the member's queue holds 8 entries. POPY pops the head or waits; with nb it tells in p23 (16 R318). -/
def Obligations.ResultQueues : Prop :=
  (∀ (s t : State) (y : BitVec 2) (a b : BitVec 6), issuedIn (.push y a b) s = some t →
    let pos := (xOf t b).toNat
    let g := 8 * (t.me.id / 8) + pos
    let r := releaseAt t 1
    (8 ≤ pos → exec (.push y a b) s = .next (raised (.push y a b) s t 0x0102 none))
    ∧ (pos < 8 → isMate t g = false → exec (.push y a b) s = .next (raised (.push y a b) s t 0x0204 none))
    ∧ (pos < 8 → isMate t g = true → (readY (coreOf r g).regs y.toNat).length < 8 → ∃ u : State,
        exec (.push y a b) s = .next (completed (.push y a b) s u .fall)
        ∧ readY (coreOf u g).regs y.toNat = readY (coreOf r g).regs y.toNat ++ [xOf t a] ∧ u.mem = r.mem ∧ u.me.regs.x = r.me.regs.x)
    ∧ (pos < 8 → isMate t g = true → 8 ≤ (readY (coreOf r g).regs y.toNat).length →
        exec (.push y a b) s = .next (waiting (.push y a b) s r (.push y.toNat pos (xOf t a)))))
  ∧ (∀ (s t : State) (y : BitVec 2) (d : BitVec 6), issuedIn (.popy d y) s = some t →
      (readY t.me.regs y.toNat = [] → exec (.popy d y) s = .next (waiting (.popy d y) s t (.pop y.toNat d)))
      ∧ (∀ v rest, readY t.me.regs y.toNat = v :: rest → exec (.popy d y) s = .next (completed (.popy d y) s
          (acquire (setX (mapRegs t fun r => writeY r y.toNat rest) d v) 1) .fall)))
  ∧ (∀ (s t : State) (y : BitVec 2) (d : BitVec 6), issuedIn (.popyNb d y) s = some t →
      (readY t.me.regs y.toNat = [] → exec (.popyNb d y) s = .next (completed (.popyNb d y) s
        (mapRegs t fun r => writeP r 23 (BitVec.allOnes 128)) .fall))
      ∧ (∀ v rest, readY t.me.regs y.toNat = v :: rest → exec (.popyNb d y) s = .next (completed (.popyNb d y) s
          (mapRegs (acquire (setX (mapRegs t fun r => writeY r y.toNat rest) d v) 1) fun r => writeP r 23 0) .fall)))

/-- The completion test of a barrier with its members (16 R320). -/
def Sys2Proof.Claims.phaseAfter (members : Nat) (b : Barrier) : Barrier :=
  if b.arr.length = members ∧ 0 < members ∧ b.out = 0 then { b with phase := b.phase + 1, arr := [], out := 0 } else b

/-- The moving task's wait at a barrier is over: it is in no crew, its TGT is NONE, or TGT - PHASE in 33 bits is not positive. -/
def Sys2Proof.Claims.barPassed (t : State) (bar : Nat) : Prop :=
  ∀ c, crewOf t t.me.task.crew = some c → ∀ x, assoc (barOf c bar).tgt t.me.task.serial = some x →
    (BitVec.ofNat 33 x - BitVec.ofNat 33 (barOf c bar).phase.toNat).toInt ≤ 0

/-- BARARR counts the member as arrived and sets its TGT, after its release; a second arrival in one phase, as the release leaves it,
raises 0x0305. BAREXP
adds to OUT what the credit pool does not cover. Each tests the phase (16 R320, R321). -/
def Sys2Proof.Claims.BarrierArrivals : Prop :=
  (∀ (s t : State) (bar : BitVec 4) (c0 c : Crew), issuedIn (.bararr bar) s = some t →
    crewOf t t.me.task.crew = some c0 → crewOf (releaseAt t 1) t.me.task.crew = some c →
    let me := t.me.task.serial
    let b := barOf c bar.toNat
    (assoc b.tgt me = some (b.phase.toNat + 1) →
      exec (.bararr bar) s = .next (raised (.bararr bar) s (releaseAt t 1) 0x0305 none))
    ∧ (assoc b.tgt me ≠ some (b.phase.toNat + 1) → ∃ (u : State) (k : Crew),
        exec (.bararr bar) s = .next (completed (.bararr bar) s u .fall) ∧ crewOf u t.me.task.crew = some k
        ∧ k.members = c.members ∧ k.cp = c.cp ∧ assoc (barOf k bar.toNat).tgt me = some (b.phase.toNat + 1)
        ∧ (let n := phaseAfter c.members.length { b with arr := me :: b.arr }
           (barOf k bar.toNat).phase = n.phase ∧ (barOf k bar.toNat).arr = n.arr ∧ (barOf k bar.toNat).out = n.out)))
  ∧ (∀ (s t : State) (bar : BitVec 4) (a : BitVec 6) (c : Crew), issuedIn (.barexp bar a) s = some t →
      crewOf t t.me.task.crew = some c →
      let v := (xOf t a).toNat
      let b := barOf c bar.toNat
      (2 ^ 48 ≤ v ∨ 2 ^ 48 ≤ b.out + v → exec (.barexp bar a) s = .next (raised (.barexp bar a) s t 0x0102 none))
      ∧ (v < 2 ^ 48 → b.out + v < 2 ^ 48 → ∃ (u : State) (k : Crew),
          exec (.barexp bar a) s = .next (completed (.barexp bar a) s u .fall) ∧ crewOf u t.me.task.crew = some k
          ∧ k.cp = c.cp - min c.cp (b.out + v)
          ∧ barOf k bar.toNat = phaseAfter c.members.length { b with out := b.out + v - min c.cp (b.out + v) }))

/-- BARWAIT goes on with its acquire where the wait is over, else waits; BARWAITT does so up to its limit and tells in p[PD5] (16 R320,
R316). (That one which goes on at once takes its acquire, R313, is log 30, DEDUCED.) -/
def Sys2Proof.Claims.BarrierWaits : Prop :=
  (∀ (s t : State) (bar : BitVec 4), issuedIn (.barwait bar) s = some t →
    (barPassed t bar.toNat → exec (.barwait bar) s = .next (completed (.barwait bar) s (acquire t 1) .fall))
    ∧ (¬ barPassed t bar.toNat → ∃ since, exec (.barwait bar) s = .next (waiting (.barwait bar) s t (.bar bar.toNat none since))))
  ∧ (∀ (s t : State) (bar : BitVec 4) (a : BitVec 6) (pd : BitVec 5), issuedIn (.barwaitt bar a pd) s = some t →
      let i := Instr.barwaitt bar a pd
      let lim := (xOf t a).toNat
      (2 ^ 32 ≤ lim → exec i s = .next (raised i s t 0x0102 none))
      ∧ (lim < 2 ^ 32 → ∀ since,
          (t.me.wait = .none ∧ since = t.me.csr.cycle) ∨ t.me.wait = .bar bar.toNat (some (lim, pd)) since →
          (since + lim < t.me.csr.cycle → exec i s = .next (completed i s (mapRegs t fun r => writeP r pd.toNat 0) .fall))
          ∧ (t.me.csr.cycle ≤ since + lim → barPassed t bar.toNat → exec i s = .next (completed i s
              (acquire (mapRegs t fun r => writeP r pd.toNat (BitVec.allOnes 128)) 1) .fall))
          ∧ (t.me.csr.cycle ≤ since + lim → ¬ barPassed t bar.toNat →
              exec i s = .next (waiting i s t (.bar bar.toNat (some (lim, pd)) since)))))

/-- Arrivals and waits at barriers (16 R316, R319-R321). -/
def Obligations.BarrierWords : Prop := BarrierArrivals ∧ BarrierWaits

/-- The core `g` as the moving one with its control slice, whose word is tried again when its wait is over. -/
def Sys2Proof.Claims.retried (g : Nat) (s : State) : State := { focus g s with me := (focus g s).me.turn .c }

/-- The event `ev` lets the waiting word `i` of core `g` act. -/
def Sys2Proof.Claims.Retries (ev i : Instr) (g : Nat) (s : State) : Prop :=
  ∃ v : State, exec i (retried g s) = .next v ∧ exec ev s = .next (focus s.me.id v)

/-- The events that end a wait on a semaphore, a result queue or a barrier, by its success or its limit, let the waiting word act
(16 R312, R314, R316, R318, R320). -/
def Obligations.WaitEvents : Prop :=
  ∀ (g : Nat) (s : State) (i : Instr),
    let c := (retried g s).me
    c.run = .running → c.stops = [] → stoppedFor c = false → fetch c = .word i →
    (∀ n cnt take since, c.wait = .sem n cnt take none since → cnt ≤ readS c.regs n.toNat →
      (∃ a b, i = .swait a b) ∨ (∃ a b, i = .swaitge a b) → Retries (.semaphoreWaitSuccess g) i g s)
    ∧ (∀ n cnt take k pd since, c.wait = .sem n cnt take (some (k, pd)) since → (∃ a b x d, i = .swaitt a b x d) →
        (cnt ≤ readS c.regs n.toNat → c.csr.cycle ≤ since + k → Retries (.semaphoreWaitSuccess g) i g s)
        ∧ (since + k < c.csr.cycle → Retries (.swaittTimeout g) i g s))
    ∧ (∀ y pos v, c.wait = .push y pos v → (readY (coreOf (retried g s) (8 * (c.id / 8) + pos)).regs y).length < 8 →
        (∃ z a b, i = .push z a b) → Retries (.resultQueueReady g) i g s)
    ∧ (∀ y d, c.wait = .pop y d → readY c.regs y ≠ [] → (∃ z e, i = .popy z e) → Retries (.resultQueueReady g) i g s)
    ∧ (∀ bar since, c.wait = .bar bar none since → barPassed (retried g s) bar → (∃ b, i = .barwait b) →
        Retries (.barrierWaitSuccess g) i g s)
    ∧ (∀ bar k pd since, c.wait = .bar bar (some (k, pd)) since → (∃ b a d, i = .barwaitt b a d) →
        (barPassed (retried g s) bar → c.csr.cycle ≤ since + k → Retries (.barrierWaitSuccess g) i g s)
        ∧ (since + k < c.csr.cycle → Retries (.barwaittTimeout g) i g s))

/-- The register h[n] of `u` holds a handle with what the statement says of it, at the depth of `t`. -/
def Sys2Proof.Claims.holdsHandle (t u : State) (n : BitVec 5) (fill : Bool) (ver home k : Nat) : Prop :=
  ∃ h : Handle, readH u.me.regs n.toNat = .held h t.me.regions.length ∧ h.fill = fill ∧ h.ver = ver ∧ h.home = home ∧ h.k = k

/-- A see count has risen by one: at this module's table, or by a notice on its way to the home. -/
def Sys2Proof.Claims.seeRises (t u : State) (ver home : Nat) (lost : Bool) : Prop :=
  (home = t.fabric → (verOf u ver).map Version.see = (verOf t ver).map (fun v => v.see + 1))
  ∧ (home ≠ t.fabric → lost = false → t.rmap.gone.contains home = false →
      ∃ p : Packet, u.outbox = t.outbox ++ [p] ∧ p.dst = home ∧ p.ptype = 0x0F ∧ p.body = .seeDelta ver true)

/-- HNEW and HSEE in the order of 13 R263, R264: a full destination 0x0407, a name outside the tile window's pools 0x0204, then for
HNEW a name that is no multiple of 2^k 0x0203, another size 0x0409, the quotas 0x0406, for HSEE no current version 0x0408. HNEW makes
a new current version, FILLING, whose fill the task holds; HSEE counts one more see handle on the current one. -/
def Sys2Proof.Claims.NewHandles : Prop :=
  (∀ (s t : State) (hd : BitVec 5) (a k : BitVec 6), issuedIn (.hnew hd a k) s = some t →
    let i := Instr.hnew hd a k
    let x := (xOf t a).toNat
    let part := t.me.task.part
    ((heldOf t hd).isSome = true → exec i s = .next (raised i s t 0x0407 none))
    ∧ (heldOf t hd = none → tileName x = none → exec i s = .next (raised i s t 0x0204 (some x)))
    ∧ (∀ n, heldOf t hd = none → tileName x = some n →
        (n % 2 ^ 49 % 2 ^ k.toNat ≠ 0 → exec i s = .next (raised i s t 0x0203 (some x)))
        ∧ (n % 2 ^ 49 % 2 ^ k.toNat = 0 → (∃ v ∈ t.versions, v.part = part ∧ v.name = n ∧ v.k ≠ k.toNat) →
            exec i s = .next (raised i s t 0x0409 none))
        ∧ (n % 2 ^ 49 % 2 ^ k.toNat = 0 → (∀ v ∈ t.versions, v.part = part → v.name = n → v.k = k.toNat) →
            (quotaOk t (myPart t) n k.toNat = false → exec i s = .next (raised i s t 0x0406 none))
            ∧ (quotaOk t (myPart t) n k.toNat = true → ∃ (u : State) (v : Version),
                exec i s = .next (completed i s u .fall) ∧ verOf u t.verNext = some v ∧ v.part = part ∧ v.name = n ∧ v.k = k.toNat
                ∧ v.state = .filling ∧ v.see = 0 ∧ v.cur = true ∧ v.holder = .task t.me.task.launch t.me.task.serial
                ∧ v.num = (match currentOf t part n with | some w => (w.num + 1) % 2 ^ 32 | none => 0)
                ∧ (∀ w ∈ u.versions, w.part = part → w.name = n → w.cur = true → w.id = t.verNext)
                ∧ holdsHandle t u hd true t.verNext t.fabric k.toNat ∧ u.me.regs.x = t.me.regs.x))))
  ∧ (∀ (s t : State) (hd : BitVec 5) (a : BitVec 6), issuedIn (.hsee hd a) s = some t →
      let i := Instr.hsee hd a
      let x := (xOf t a).toNat
      ((heldOf t hd).isSome = true → exec i s = .next (raised i s t 0x0407 none))
      ∧ (heldOf t hd = none → tileName x = none → exec i s = .next (raised i s t 0x0204 (some x)))
      ∧ (∀ n, heldOf t hd = none → tileName x = some n →
          (currentOf t t.me.task.part n = none → exec i s = .next (raised i s t 0x0408 none))
          ∧ (∀ v, currentOf t t.me.task.part n = some v → ∃ u : State, exec i s = .next (completed i s u .fall)
              ∧ seeRises t u v.id t.fabric false ∧ holdsHandle t u hd false v.id t.fabric v.k ∧ u.mem = t.mem ∧ u.me.regs.x = t.me.regs.x)))

/-- HSEEOF and HDUP make one more see handle from a fill or a see handle: an empty source 0x0404, one of the other kind 0x0405, a
full destination 0x0407 (13 R263, R264). -/
def Sys2Proof.Claims.SeeFrom (mk : BitVec 5 → BitVec 5 → Instr) (fill : Bool) : Prop :=
  ∀ (s t : State) (hd hs : BitVec 5), issuedIn (mk hd hs) s = some t →
    (heldOf t hs = none → exec (mk hd hs) s = .next (raised (mk hd hs) s t 0x0404 none))
    ∧ (∀ h, heldOf t hs = some h →
        (h.fill ≠ fill → exec (mk hd hs) s = .next (raised (mk hd hs) s t 0x0405 none))
        ∧ (h.fill = fill → (heldOf t hd).isSome = true → exec (mk hd hs) s = .next (raised (mk hd hs) s t 0x0407 none))
        ∧ (h.fill = fill → heldOf t hd = none → ∃ u : State, exec (mk hd hs) s = .next (completed (mk hd hs) s u .fall)
            ∧ seeRises t u h.ver h.home (lostHandle t h) ∧ holdsHandle t u hd false h.ver h.home h.k
            ∧ readH u.me.regs hs.toNat = readH t.me.regs hs.toNat ∧ u.mem = t.mem ∧ u.me.regs.x = t.me.regs.x))

/-- HSEEOF, HDUP, and HDROP of a see handle, of a fill handle of this module's version and of one whose home is another module. A
fill handle is sealed once its stores have departed and its release is taken, at once or, where the model's choice (log 1) lets the
word wait, when VERSION_SEAL comes (13 R263-R265, R274, R257). -/
def Sys2Proof.Claims.HandleCopiesAndDrops : Prop :=
  SeeFrom .hseeof true ∧ SeeFrom .hdup false
  ∧ (∀ (s t : State) (hs : BitVec 5), issuedIn (.hdrop hs) s = some t →
      let i := Instr.hdrop hs
      (heldOf t hs = none → exec i s = .next (raised i s t 0x0404 none))
      ∧ (∀ h, heldOf t hs = some h →
          (h.fill = false → ∃ u : State, exec i s = .next (completed i s u .fall) ∧ readH u.me.regs hs.toNat = .empty
            ∧ (h.home = t.fabric → ∀ v, verOf u h.ver = some v → ∃ w ∈ t.versions, w.id = h.ver ∧ v.see = w.see - 1)
            ∧ (h.home ≠ t.fabric → lostHandle t h = false → t.rmap.gone.contains h.home = false →
                ∃ p : Packet, u.outbox = t.outbox ++ [p] ∧ p.dst = h.home ∧ p.body = .seeDelta h.ver false))
          ∧ (h.fill = true → h.home = t.fabric → deferNow t = false → unacked (releaseAt (popDefer t) 4) h = false → ∃ u : State, exec i s = .next (completed i s u .fall)
              ∧ readH u.me.regs hs.toNat = .empty ∧ (∀ v, verOf u h.ver = some v → v.state ≠ .filling)
              ∧ ∀ b ∈ u.me.l1, b.2.dirty = false)
          ∧ (h.fill = true → deferNow t = true → exec i s = .next (waiting i s (popDefer t) (.hdrop h.ver)))
          ∧ (h.fill = true → deferNow t = false → h.home ≠ t.fabric → lostHandle t h = false → (releaseAt (popDefer t) 4).rmap.gone.contains h.home = false →
              (unacked (releaseAt (popDefer t) 4) h = true →
                exec i s = .next (waiting i s (releaseAt (popDefer t) 4) .queue))
              ∧ (unacked (releaseAt (popDefer t) 4) h = false → h.home ≠ (releaseAt (popDefer t) 4).fabric →
                  ∃ (u : State) (p : Packet), exec i s = .next (completed i s u .fall) ∧ readH u.me.regs hs.toNat = .empty
                  ∧ p ∈ u.outbox ∧ p.dst = h.home ∧ p.ptype = 0x0F ∧ p.body = .seal h.ver false))))
  ∧ (∀ (s : State) (g ver : Nat) (hs : BitVec 5), let c := (retried g s).me
      c.run = .running → c.stops = [] → stoppedFor c = false → fetch c = .word (.hdrop hs) →
      (allCores s).filter (fun d => waitOf d .c == .hdrop ver) = [coreOf s g] → c.wait = .hdrop ver → ∃ v : State,
      exec (.hdrop hs) { retried g s with me := { c with defer := false :: c.defer } } = .next v
      ∧ exec (.versionSeal ver) s = .next (focus s.me.id v))

/-- HSEND gives its handle up: to a mailbox of this module with room it goes at once, else it waits here for MAILBOX_RETRY, and to
another module it leaves in a packet, marked where its version is lost for the sender. HRECV takes a mailbox's oldest handle, or waits until HANDLE_RECEIVED finds one (13 R263,
R266). -/
def Obligations.Mailboxes : Prop :=
  (∀ (s t : State) (hs : BitVec 5) (b : BitVec 6), issuedIn (.hsend hs b) s = some t →
    let i := Instr.hsend hs b
    let x := (xOf t b).toNat
    let part := t.me.task.part
    (heldOf t hs = none → exec i s = .next (raised i s t 0x0404 none))
    ∧ (∀ h, heldOf t hs = some h → (2 ^ 44 ≤ x ∨ x / 2 ^ 8 % 2 ^ 24 ≠ 0) → exec i s = .next (raised i s t 0x0102 none))
    ∧ (∀ h, heldOf t hs = some h → x < 2 ^ 44 → x / 2 ^ 8 % 2 ^ 24 = 0 → ∃ u : State, exec i s = .next (completed i s u .fall)
        ∧ readH u.me.regs hs.toNat = .empty ∧ u.mem = t.mem ∧ u.me.regs.x = t.me.regs.x
        ∧ (t.outHands = [] → x / 2 ^ 32 = t.fabric → t.rmap.gone.contains t.fabric = false →
            ((mailboxOf t part (x % 2 ^ 8)).length < 16 →
              mailboxOf u part (x % 2 ^ 8) = mailboxOf t part (x % 2 ^ 8) ++ [h] ∧ u.outHands = [])
            ∧ (16 ≤ (mailboxOf t part (x % 2 ^ 8)).length → mailboxOf u part (x % 2 ^ 8) = mailboxOf t part (x % 2 ^ 8)
                ∧ u.outHands = [{ part := part, dst := t.fabric, mailbox := x % 2 ^ 8, handle := h, sent := none, die := coreDie t.me.id }]))
        ∧ (t.outHands = [] → x / 2 ^ 32 ≠ t.fabric → t.rmap.gone.contains (x / 2 ^ 32) = false →
            ∃ p : Packet, u.outbox = t.outbox ++ [p] ∧ p.ptype = 0x07 ∧ p.dst = x / 2 ^ 32 ∧ p.srcDie = coreDie t.me.id
              ∧ p.body = .handle (x % 2 ^ 8) (sentAs t h))))
  ∧ (∀ (s : State) (part mb : Nat) (h : Handle),
      ∀ die, s.outHands = [{ part := part, dst := s.fabric, mailbox := mb, handle := h, sent := none, die := die }] →
      (mailboxOf s part mb).length < 16 → ∃ u : State, exec (.mailboxRetry part) s = .next u
      ∧ mailboxOf u part mb = mailboxOf s part mb ++ [h] ∧ u.outHands = [])
  ∧ (∀ (s t : State) (hd : BitVec 5) (a : BitVec 6), issuedIn (.hrecv hd a) s = some t →
      let i := Instr.hrecv hd a
      let mb := (xOf t a).toNat
      ((heldOf t hd).isSome = true → exec i s = .next (raised i s t 0x0407 none))
      ∧ (heldOf t hd = none → 2 ^ 8 ≤ mb → exec i s = .next (raised i s t 0x0102 none))
      ∧ (heldOf t hd = none → mb < 2 ^ 8 → mailboxOf t t.me.task.part mb = [] →
          exec i s = .next (waiting i s t (.hrecv mb hd)))
      ∧ (∀ h rest, heldOf t hd = none → mb < 2 ^ 8 → mailboxOf t t.me.task.part mb = h :: rest → ∃ u : State,
          exec i s = .next (completed i s u .fall) ∧ readH u.me.regs hd.toNat = .held h t.me.regions.length
          ∧ u.me.regs.x = t.me.regs.x ∧ u.mem = t.mem ∧ (t.outHands = [] → mailboxOf u t.me.task.part mb = rest)))
  ∧ (∀ (s : State) (g mb : Nat) (hd hd' : BitVec 5) (a : BitVec 6),
      (retried g s).me.run = .running → (retried g s).me.stops = [] → stoppedFor (retried g s).me = false → fetch (retried g s).me = .word (.hrecv hd a) →
      (retried g s).me.wait = .hrecv mb hd' → mailboxOf (retried g s) (retried g s).me.task.part mb ≠ [] →
      Retries (.handleReceived g) (.hrecv hd a) g s)

/-- HSTAT reports number, size, pool, whether the home is another module, currency, state and kind; of a version homed elsewhere the
handle reads FILLING while this module holds its fill, a state once known for good stays, one not known is free (log 2) but never the code 3, a lost one reads
ABANDONED (13 R267, R275). PARKED_ACCESS_UNPARK ends a wait
on a version that has left FILLING, with the acquire where it was sealed (13 R268, R270). -/
def Sys2Proof.Claims.HandleState : Prop :=
  (∀ (s t : State) (d : BitVec 6) (hs : BitVec 5), issuedIn (.hstat d hs) s = some t →
    let i := Instr.hstat d hs
    (heldOf t hs = none → exec i s = .next (raised i s t 0x0404 none))
    ∧ (∀ h, heldOf t hs = some h → ∃ (u : State) (state cur : Nat), cur < 2
        ∧ exec i s = .next (completed i s (setX u d (BitVec.ofNat 64
            (2 ^ 16 * (h.num % 2 ^ 32) + 2 ^ 8 * (h.k % 2 ^ 5) + 2 ^ 6 * (h.pool % 4) + (if h.home = t.fabric then 0 else 2 ^ 5)
              + 2 ^ 4 * cur + 2 ^ 2 * state + (if h.fill then 1 else 0)))) .fall)
        ∧ u.me = t.me ∧ u.mem = t.mem ∧ u.versions = t.versions
        ∧ (h.home = t.fabric → ∀ v, verOf t h.ver = some v →
            (cur = 1 ↔ v.cur = true) ∧ (state = 0 ↔ v.state = .filling) ∧ (state = 1 ↔ v.state = .sealed)
            ∧ (state = 2 ↔ v.state = .abandoned))
        ∧ (h.home = t.fabric → state < 3)
        ∧ (h.home ≠ t.fabric → lostHandle t h = true → state = 2)
        ∧ (h.home ≠ t.fabric → lostHandle t h = false → (h.fill = true ∨ fillHere t h = true → state = 0)
            ∧ (h.fill = false → fillHere t h = false → (∀ st c, knownOf t h.home h.ver = some (st, c) → st = 0) → state < 3)
            ∧ (∀ st c, h.fill = false → fillHere t h = false → knownOf t h.home h.ver = some (st, c) → st ≠ 0 → state = st))))
  ∧ (∀ (s : State) (g ver : Nat) (v : Version), (coreOf s g).wait = .parked ver s.fabric → verOf s ver = some v → v.state ≠ .filling →
      ∃ u : State, exec (.parkedAccessUnpark g) s = .next u ∧ (coreOf u g).wait = .none
      ∧ (v.state = .sealed → ∀ b ∈ (coreOf u g).l1, b.2.dirty = true))

/-- Handles made, copied, dropped and asked about (13 R263-R265, R267, R268). -/
def Obligations.HandleWords : Prop := NewHandles ∧ HandleCopiesAndDrops ∧ HandleState

/-- MAPRD reads an 8-byte word of the resource map record (20 R374, R377): an offset above 2^16 - 1 raises 0x0102, one that is no multiple
of 8 raises 0x0203. MAPACK raises the context's acknowledged version, a version above MAPVER raises 0x0102 (20 R378). (That the record of
0x0203 names no address is log 39, DEDUCED.) -/
def Obligations.MapWords : Prop :=
  (∀ (s t : State) (d a : BitVec 6), issuedIn (.maprd d a) s = some t →
    let o := (xOf t a).toNat
    let m := t.rmap
    (2 ^ 16 ≤ o → exec (.maprd d a) s = .next (raised (.maprd d a) s t 0x0102 none))
    ∧ (o < 2 ^ 16 → o % 8 ≠ 0 → exec (.maprd d a) s = .next (raised (.maprd d a) s t 0x0203 none))
    ∧ (o < 2 ^ 16 → o % 8 = 0 → ∃ w : Word, exec (.maprd d a) s = .next (completed (.maprd d a) s (setX t d w) .fall)
        ∧ (o = 0x00 → w.toNat = m.version % 2 ^ 64) ∧ (o = 0x08 → w.toNat = m.time % 2 ^ 64)
        ∧ (o = 0x18 → w.toNat = (m.unit.map UnitBits).getD 0 % 2 ^ 64)
        ∧ (0x20 ≤ o → o < 0x50 → w.toNat = m.cores.toNat / 2 ^ (8 * (o - 0x20)) % 2 ^ 64)
        ∧ (o = 0x58 → w.toNat = m.l2.toNat % 2 ^ 48) ∧ (o = 0x60 → w.toNat = m.l2.toNat / 2 ^ 48)
        ∧ (o = 0x70 → w.toNat = m.banks.toNat % 2 ^ 48) ∧ (o = 0x78 → w.toNat = m.banks.toNat / 2 ^ 48)
        ∧ (0x80 ≤ o → o < 0x98 → w.toNat = m.channels.toNat / 2 ^ (8 * (o - 0x80)) % 2 ^ 64)
        ∧ (o = 0xA0 → w.toNat = m.aclk % 2 ^ 32 + 2 ^ 32 * (m.aclk / 2 % 2 ^ 32))))
  ∧ (∀ (s t : State) (a : BitVec 6), issuedIn (.mapack a) s = some t →
      let v := (xOf t a).toNat
      (t.rmap.version < v → exec (.mapack a) s = .next (raised (.mapack a) s t 0x0102 none))
      ∧ (v ≤ t.rmap.version → ∃ u : State, exec (.mapack a) s = .next (completed (.mapack a) s u .fall)
          ∧ u.me = t.me ∧ u.mem = t.mem
          ∧ ∀ p, partOf t t.me.task.part = some p → ∃ q, partOf u t.me.task.part = some q ∧ q.acked = max p.acked v
              ∧ (p.acked < v → v = t.rmap.version → q.window = none)))

/-- LAUNCH and its non-blocking form place a record that passes its checks: into the pool, the blocking form where that is full
into the overflow ring, with both full it raises 0x0704; the non-blocking form waits for room in y[n] and appends 1, or 0 where the
pool takes nothing. A record off its alignment raises 0x0203, one outside the global and stack windows 0x0204, a refused one its
code (16 R323, 15 R295, R299). -/
def Obligations.LaunchWords : Prop :=
  ∀ (s t : State) (a : BitVec 6) (y : BitVec 2) (i : Instr), i = .launch a ∨ i = .launchNb y a → issuedIn i s = some t →
    let free := (readY t.me.regs y.toNat).length < 8
    let v := releaseAt t 4
    let x := (xOf t a).toNat
    (i = .launchNb y a → ¬ free → exec i s = .next (waiting i s t (.room y.toNat)))
    ∧ (i = .launch a ∨ free →
        (x % 128 ≠ 0 → exec i s = .next (raised i s v 0x0203 (some x)))
        ∧ (x % 128 = 0 → 2 ^ 52 ≤ x → x / 2 ^ 56 ≠ 0xF3 → exec i s = .next (raised i s v 0x0204 (some x)))
        ∧ (∀ w bs, readRecordAt v x = (w, .ok bs) →
            (∀ c, checkRecord w w.me.task.part bs false = .error c → exec i s = .next (raised i s w c none))
            ∧ (∀ r p, checkRecord w w.me.task.part bs false = .ok r → partOf w w.me.task.part = some p →
                (p.pool.length < 512 → p.ring = [] → ∃ (u : State) (q : Partition),
                  exec i s = .next (completed i s u .fall) ∧ partOf u w.me.task.part = some q
                  ∧ q.pool = p.pool ++ [{ arrival := p.arrivals, cycle := uncore w, source := 64, record := r }] ∧ q.ring = []
                  ∧ u.me.regs.y = (if i = .launch a then w.me.regs else
                      writeY w.me.regs y.toNat (readY w.me.regs y.toNat ++ [1])).y)
                ∧ (512 ≤ p.pool.length ∨ p.ring ≠ [] →
                    (i = .launch a → p.ring.length < p.cfg.ringSize → ∃ (u : State) (q : Partition),
                      exec i s = .next (completed i s u .fall) ∧ partOf u w.me.task.part = some q ∧ q.pool = p.pool
                      ∧ q.ringNext = p.ringNext + 1
                      ∧ q.ring = p.ring ++ [{ arrival := p.arrivals, cycle := uncore w, source := 64, record := r }])
                    ∧ (i = .launch a → p.cfg.ringSize ≤ p.ring.length → exec i s = .next (raised i s w 0x0704 none))
                    ∧ (i = .launchNb y a → exec i s = .next (completed i s
                        (mapRegs w fun g => writeY g y.toNat (readY g y.toNat ++ [0])) .fall))))))

/-- The number a word of `w` bits stands for in two's complement. -/
def Sys2Proof.Claims.signedValue (w x : Nat) : Int := if 2 ^ (w - 1) ≤ x then (x : Int) - 2 ^ w else x

/-- The operations of AMO on `w` bits by OPN4 (12 R250). -/
def Sys2Proof.Claims.amoRule (op w old b : Nat) : Nat :=
  match op with
  | 0 => (old + b) % 2 ^ w
  | 1 => old &&& b
  | 2 => old ||| b
  | 3 => old ^^^ b
  | 4 => if signedValue w old ≤ signedValue w b then old else b
  | 5 => if signedValue w old ≤ signedValue w b then b else old
  | 6 => if old ≤ b then old else b
  | 7 => if old ≤ b then b else old
  | _ => b

/-- What the atomic `a` leaves of the `n` bytes `old` at its home, none where an unequal CAS writes nothing (12 R250). -/
def Sys2Proof.Claims.atomicLeaves (a : AtomicOp) (old : Nat) : Nat :=
  let w := if a.wide then 64 else 32
  if a.cas then if old = a.b.toNat % 2 ^ w then a.c.toNat % 2 ^ w else old else amoRule a.op.toNat w old (a.b.toNat % 2 ^ w)

/-- One Atomic step between two states of a core: the bytes at the key take the new value, every other byte of memory stands,
and the register takes the old value (11 R219, 12 R250, R251). -/
def Sys2Proof.Claims.AtomicDone (t u : State) (r r' : Regs) (a : AtomicOp) (k : Nat) : Prop :=
  let n := if a.wide then 8 else 4
  let old := memField t k n
  memField u k n = atomicLeaves a old ∧ (∀ j, j < k ∨ k + n ≤ j → cellGet u.mem j = cellGet t.mem j)
  ∧ (a.xd ≠ 0 → readX r' a.xd = BitVec.ofNat 64 old) ∧ (∀ x, x ≠ a.xd → readX r' x = readX r x)

/-- AMO and CAS at a byte of this module that passes its checks, with no other access of the C path waiting and no dirty byte in
L1: the Atomic step is taken, or, in slice form where the model's choice (log 1) lets it wait, the atomic joins SQ(C), markers beside
it where it has an order, and ATOMIC takes it at the frontier; a failed check raises its code (12 R250, R251, 11 R219). -/
def Sys2Proof.Claims.AtomicWord (i : Instr) (a : BitVec 6) (hb : BitVec 1) (disp : Int) (op : State → AtomicOp) : Prop :=
  ∀ (s t v : State) (k : Acc1), issuedIn i s = some t →
    (∀ c x, checkAtomic t hb a disp (if (op t).wide then 8 else 4) = (v, .bad c x) → exec i s = .next (raised i s v c
      (if c = 0x0404 then none else some x)))
    ∧ (checkAtomic t hb a disp (if (op t).wide then 8 else 4) = (v, .ok k) → k.remote = none → markOf v k.key = none →
        StateInv v → v.me.lqC = [] → v.me.sqC = [] → (∀ b ∈ v.me.l1, b.2.dirty = false) →
        (deferNow v = false ∨ s.me.form = .logical → ∃ u : State, exec i s = .next (completed i s u .fall)
          ∧ AtomicDone v u v.me.regs u.me.regs (op t) k.key ∧ u.me.sqC = [])
        ∧ (deferNow v = true → s.me.form = .slices → ∃ (u : State) (e : SqEntry), exec i s = .next (completed i s u .fall)
            ∧ e ∈ u.me.sqC ∧ (∀ f ∈ u.me.sqC, f ≠ e → f.mark.isSome = true) ∧ e.mark = none ∧ e.lsn = v.me.flow.lsn
            ∧ e.atomic = some (op t) ∧ e.key = k.key ∧ u.mem = v.mem ∧ u.me.regs = v.me.regs))

/-- AMO and CAS take their one Atomic step, or join SQ(C) for ATOMIC to take it at the frontier: the bytes take the new value, the
register the old one, nothing else changes; a failed check raises its code (12 R250, R251, 11 R219). (That the record of 0x0404 names no
address is log 39, DEDUCED.) -/
def Obligations.AtomicWords : Prop :=
  (∀ (o : BitVec 4) (sz : BitVec 1) (ord : BitVec 2) (scope : BitVec 3) (c d a b : BitVec 6) (hb : BitVec 1) (disp : BitVec 13),
    AtomicWord (.amo o sz ord scope d a b hb disp) a hb disp.toInt (fun t =>
      { op := o, cas := false, wide := sz == 1, ord := ord, scope := scope, xd := d, b := xOf t b, c := 0 })
    ∧ AtomicWord (.cas sz ord scope c d a b hb disp) a hb disp.toInt (fun t =>
      { op := 0, cas := true, wide := sz == 1, ord := ord, scope := scope, xd := d, b := xOf t b, c := xOf t c }))
  ∧ (∀ (g : Nat) (s : State) (e : SqEntry) (rest : List SqEntry) (a : AtomicOp), StateInv s → (coreOf s g).sqC = e :: rest → e.atomic = some a →
      e.mark = none → markOf s e.key = none → (coreOf s g).lqC = [] → e.lsn ≤ frontier (coreOf s g) → (∀ b ∈ (coreOf s g).l1, b.2.dirty = false) →
      ∃ u : State, exec (.atomic g) s = .next u ∧ (coreOf u g).sqC = rest
        ∧ AtomicDone s u (coreOf s g).regs (coreOf u g).regs a e.key)

/-- FRONTIER_POST makes every post that is due, each count saturating: one deferred to the frontier once the frontier has reached its
word, one of a stream command once that has left SQ(S) (05 R94, 16 R315). -/
def Sys2Proof.Claims.FrontierPosts : Prop :=
  (∀ (c : Core) (p : PendPost), postDue c p = true ↔
    (p.late = true → p.lsn ≤ frontier c) ∧ ¬ (p.eng = .s ∧ ∃ q ∈ c.sqS, q.lsn = p.lsn))
  ∧ ∀ (g : Nat) (s : State), ∃ u : State, exec (.frontierPost g) s = .next u ∧ u.mem = s.mem
    ∧ (coreOf u g).posts = (coreOf s g).posts.filter (fun p => !postDue (coreOf s g) p)
    ∧ ∀ n, n < 256 → readS (coreOf u g).regs n = min (2 ^ 32 - 1) (readS (coreOf s g).regs n
        + ((coreOf s g).posts.filter fun p => postDue (coreOf s g) p = true ∧ p.sem.toNat = n).length)

/-- PERFORM of the C path takes the head of LQ(C) that nothing holds back: a load takes its bytes and writes its register, a marker
takes its Invalidate and goes; an access that comes to act at a bad sector raises instead. On the S path it reads the next unread
sector of the oldest copy (08 R151, 11 R212, R213, R216). -/
def Sys2Proof.Claims.PerformSteps : Prop :=
  (∀ (g : Nat) (s : State), (lateAccess (focus g s)).isSome = true →
    exec (.perform g .c) s = .next (focus s.me.id (raiseLate (focus g s))))
  ∧ (∀ (g : Nat) (s : State) (e : LqEntry) (rest : List LqEntry), (coreOf s g).lqC = e :: rest → lqReady (focus g s) e = true →
    lateAccess (focus g s) = none →
    (e.mark = none → lqMark (focus g s) e = none → (coreOf s g).l1.length < 1024 → ∃ u : State, exec (.perform g .c) s = .next u ∧ (coreOf u g).lqC = rest ∧ u.mem = s.mem
      ∧ (e.xd ≠ 0 → readX (coreOf u g).regs e.xd = extendedValue e.signed
          (loadBytes { focus g s with me := { (focus g s).me with lqC := rest } } e.lsn e.key e.bytes e.global).2)
      ∧ ∀ x, x ≠ e.xd → readX (coreOf u g).regs x = readX (coreOf s g).regs x)
    ∧ (e.mark.isSome = true → ∃ u : State, exec (.perform g .c) s = .next u ∧ (coreOf u g).lqC = rest ∧ u.mem = s.mem
      ∧ (coreOf u g).regs = (coreOf s g).regs))
  ∧ (∀ (g : Nat) (s : State) (c : SCmd) (rest : List SCmd) (w : SWrite) (p : SPiece),
      (coreOf s g).sqS = c :: rest → c.writes = [w] → w.src = [p] → p.got = none → p.global = false → p.len ≠ 0 →
      markOf s p.key = none → lateAccess (focus g s) = none → ∃ u : State, exec (.perform g .s) s = .next u ∧ u.mem = s.mem
      ∧ (coreOf u g).sqS = { c with writes := [{ w with src := [], bytes := cellsGet s.mem p.key p.len, poison := false }] } :: rest)

/-- When a byte of L1 that a store writes became dirty: at an older store if it is dirty still, else now (11 R214). -/
def Sys2Proof.Claims.dirtySince (c : Core) (key now : Nat) : Nat :=
  match assoc c.l1 key with
  | some o => if o.dirty then o.since else now
  | none => now

/-- DEPART at the frontier: a plain store of the C path becomes dirty bytes of L1 where it is global, else bytes of memory; the
one sector of a copy of the S path lands at its home, and the copy's completion posts its semaphore (11 R212, R220, 12 R232). -/
def Sys2Proof.Claims.DepartSteps : Prop :=
  (∀ (g : Nat) (s : State) (e : SqEntry) (rest : List SqEntry), StateInv s → (coreOf s g).sqC = e :: rest → e.lsn ≤ frontier (coreOf s g) →
    e.atomic = none → e.mark = none → e.remote = none → sqReady (focus g s) e = true → ∃ u : State,
    exec (.depart g .c) s = .next u ∧ (coreOf u g).sqC = rest ∧ (coreOf u g).regs = (coreOf s g).regs
    ∧ (e.global = true → (coreOf s g).l1.length < 1024 → u.mem = s.mem
        ∧ ∀ i b, e.bytes[i]? = some b → assoc (coreOf u g).l1 (e.key + i) =
            some { val := b, dirty := true, since := dirtySince (coreOf s g) (e.key + i) s.cycles })
    ∧ (e.global = false → (coreOf u g).l1 = (coreOf s g).l1 ∧ cellsGet u.mem e.key e.bytes.length = e.bytes
        ∧ ∀ j, j < e.key ∨ e.key + e.bytes.length ≤ j → cellGet u.mem j = cellGet s.mem j))
  ∧ (∀ (g : Nat) (s : State) (c : SCmd) (rest : List SCmd) (w : SWrite) (k : Nat) (gl : Bool), StateInv s → (coreOf s g).sqS = c :: rest →
      c.lsn ≤ frontier (coreOf s g) → c.writes = [w] → c.sent = 0 → c.ckm = 0 → c.xid = none → w.dest = .here k gl → w.src = [] →
      (c.kind = .sld ∨ c.kind = .sst ∨ c.kind = .cpy ∨ c.kind = .stage) → c.bad = false → ∃ u : State,
      exec (.depart g .s) s = .next u ∧ (coreOf u g).sqS = rest ∧ cellsGet u.mem k w.bytes.length = w.bytes
      ∧ (∀ j, j < k ∨ k + w.bytes.length ≤ j → cellGet u.mem j = cellGet s.mem j)
      ∧ (let n := match c.kind with | .sld => 84 | .sst => 85 | .cpy => 86 | _ => 89
         readS (coreOf u g).regs n = min (2 ^ 32 - 1) (readS (coreOf s g).regs n + 1)))

/-- Steps of the store and load queues, and posts at the frontier (05 R94, 11 R212, R213). -/
def Obligations.QueueSteps : Prop := FrontierPosts ∧ PerformSteps ∧ DepartSteps

/-- WRITEBACK writes the dirty bytes of the chosen words of a sector to their home and leaves them clean; the same happens to a
whole sector 65,536 uncore cycles after it became dirty (11 R212, R214). -/
def Sys2Proof.Claims.WriteBacks : Prop :=
  ∀ (g sec : Nat) (words : BitVec 16) (s : State) (i : Instr), StateInv s → (i = .writeback g sec words
      ∨ i = .dirtyWritebackTimeout g sec ∧ words = BitVec.allOnes 16) → ∃ u : State, exec i s = .next u
    ∧ (∀ j, cellGet u.mem j = match assoc (coreOf s g).l1 j with
        | some b => if j / 64 = sec ∧ words.getLsbD (j % 64 / 4) = true ∧ b.dirty = true then b.val else cellGet s.mem j
        | none => cellGet s.mem j)
    ∧ (∀ j, assoc (coreOf u g).l1 j = (assoc (coreOf s g).l1 j).map fun b =>
        if j / 64 = sec ∧ words.getLsbD (j % 64 / 4) = true then { b with dirty := false } else b)
    ∧ (coreOf u g).regs = (coreOf s g).regs

/-- FILL makes every byte of a sector of this die valid, the invalid ones as clean copies of the home, while L1 has room; DROP makes a sector without
dirty bytes invalid and leaves any other; RVFILL copies a sector of the other die into a die's remote view, RVDROP drops it (11
R209, R212; what a full cache gives up is the model's choice, log 59, and no clause rests on it). -/
def Sys2Proof.Claims.CacheSteps : Prop :=
  (∀ (g sec : Nat) (s : State), 64 * sec < 2 ^ 40 → keyDie (64 * sec) = coreDie (coreOf s g).id → markOf s (64 * sec) = none →
    (coreOf s g).l1.length < 1024 → ∃ u : State, exec (.fill g sec) s = .next u ∧ u.mem = s.mem
    ∧ ∀ j, assoc (coreOf u g).l1 j = match assoc (coreOf s g).l1 j with
        | some b => some b
        | none => if j / 64 = sec then some { val := cellGet s.mem j, dirty := false, since := 0 } else none)
  ∧ (∀ (g sec : Nat) (s : State), ∃ u : State, exec (.drop g sec) s = .next u ∧ u.mem = s.mem
      ∧ ((∀ e ∈ (coreOf s g).l1, e.1 / 64 = sec → e.2.dirty = false) →
          ∀ j, assoc (coreOf u g).l1 j = if j / 64 = sec then none else assoc (coreOf s g).l1 j)
      ∧ ((∃ e ∈ (coreOf s g).l1, e.1 / 64 = sec ∧ e.2.dirty = true) → (coreOf u g).l1 = (coreOf s g).l1))
  ∧ (∀ (die sec : Nat) (s : State), die < 2 → 64 * sec < 2 ^ 40 → keyDie (64 * sec) ≠ die → markOf s (64 * sec) = none → 0 < rvCap s die →
      ∃ (u : State) (v : BitVec 512), exec (.rvfill die sec) s = .next u ∧ rvGet u die sec = some v ∧ u.mem = s.mem
      ∧ v.toNat = memField s (64 * sec) 64)
  ∧ (∀ (die sec : Nat) (s : State), ∃ u : State, exec (.rvdrop die sec) s = .next u ∧ rvGet u die sec = none ∧ u.mem = s.mem
      ∧ ∀ d x, (d ≠ die ∨ x ≠ sec) → rvGet u d x = rvGet s d x)

/-- L1 and the remote view: write-backs, fills and drops (11 R209, R212, R214). -/
def Obligations.CacheWork : Prop := WriteBacks ∧ CacheSteps

/-- A stream word whose register values are `vs` in the state `t`; one that lacks a channel entry waits (12 R227). -/
def Sys2Proof.Claims.StreamIssues (i : Instr) (fs : List (BitVec 6)) (s t : State) (vs : List Nat) : Prop :=
  issuedIn i s = some t ∧ sValues t fs = some vs

/-- A stream word whose effect leaves `v`: it completes, and besides it pops the channels it takes (03 R53); the facts `P` hold of
the state it leaves. -/
def Sys2Proof.Claims.StreamDone (i : Instr) (s : State) (P : State → Prop) : Prop := ∃ u : State, exec i s = .next (completed i s u .fall) ∧ P u

/-- The vector slice has still to run words before this one. -/
def Sys2Proof.Claims.vectorLags (t : State) : Prop := t.me.form = .slices ∧ nextLsn (flowOf t.me .v) < t.me.flow.lsn

/-- The first answer of a home that refuses its run, as its code and the run's address (12 R228). -/
def Sys2Proof.Claims.firstRefused (l : List ((Nat × Nat × Acc1) × Reply)) : Option (Nat × Nat) :=
  l.findSome? fun p => (refusal p.2).map fun c => (c, p.1.1)

/-- The checks of the bytes that a binding will touch, in access order (12 R228): a byte that parks holds the word; else the homes of versions
of other modules that are read are asked, and the first byte that its check or its home refuses gives its code; where none does, `P`. -/
def Sys2Proof.Claims.BindChecks (i : Instr) (s t : State) (rs : List (Nat × Nat)) (wr : Bool) (P : State → Prop) : Prop :=
  ∀ v l stop, checkPrefix t (heldHandles t.me.regs) rs wr = (v, l, stop) →
    (∀ x h, stop = some (.park x h) → exec i s = .next (waiting i s v (.parked x h)))
    ∧ ((∀ x h, stop ≠ some (.park x h)) →
        let far := if wr then [] else farVersions l []
        (∀ x, fabricRuns (unpark v) 0 far = (x, none) → exec i s = .next (waiting i s x x.me.wait))
        ∧ (∀ x bs, fabricRuns (unpark v) 0 far = (x, some bs) →
            let y := learn x (far.zip bs)
            (∀ p, firstRefused (far.zip bs) = some p → exec i s = .next (raised i s y p.1 (some p.2)))
            ∧ (firstRefused (far.zip bs) = none →
                (∀ c a, stop = some (.bad c a) → exec i s = .next (raised i s y c (some a))) ∧ (stop = none → P y))))

/-- SBIND: a field beyond its dimensions, or more than 65,536 entries, raises 0x0102, a base that is no multiple of 64 0x0203, a
failing byte its code; else q[n] is bound to the pattern, the old binding ended; it keeps the handles that its checks went through,
and where it reads a tile of another module through a see handle the word first waits for the answer of that home. SUNBIND ends a binding (12 R228, R233, R234). -/
def Sys2Proof.Claims.Bindings : Prop :=
  (∀ (s t : State) (w : SWord) (base xb xc : Nat), StreamIssues (.sbind w) [w.xa, w.xb, w.xc] s t [base, xb, xc] →
    let d := w.dims.toNat + 1
    let n := (xc % 2 ^ 16 + 1) * (xc / 2 ^ 16 % 2 ^ 16 + 1) * (xc / 2 ^ 32 % 2 ^ 16 + 1) * (xc / 2 ^ 48 % 2 ^ 16 + 1)
    let ok := xb < 2 ^ (16 * d) ∧ xc < 2 ^ (16 * d) ∧ n ≤ 65536
    let q : QReg := { QReg.unbound with kind := .sbind, base := BitVec.ofNat 64 base, strides := BitVec.ofNat 64 xb,
                                        counts := BitVec.ofNat 64 xc, dims := d, out := w.dir == 1 }
    let rs := (List.range n).flatMap fun m => runs (entryAddr q m) 512
    (¬ ok → exec (.sbind w) s = .next (raised (.sbind w) s t 0x0102 none))
    ∧ (ok → base % 64 ≠ 0 → exec (.sbind w) s = .next (raised (.sbind w) s t 0x0203 (some base)))
    ∧ (ok → base % 64 = 0 → vectorLags t → exec (.sbind w) s = .next (waiting (.sbind w) s t .queue))
    ∧ (ok → base % 64 = 0 → ¬ vectorLags t → BindChecks (.sbind w) s t rs (w.dir == 1) fun _ => StreamDone (.sbind w) s fun u =>
        qOf u w.qr.toNat = { q with hands := heldHandles t.me.regs } ∧ ∀ k, k ≠ w.qr.toNat → qOf u k = qOf t k))
  ∧ (∀ (s t : State) (w : SWord), issuedIn (.sunbind w) s = some t →
      (vectorLags t → exec (.sunbind w) s = .next (waiting (.sunbind w) s t .queue))
      ∧ (¬ vectorLags t → StreamDone (.sunbind w) s fun u => qOf u w.qr.toNat = .unbound ∧ u.mem = t.mem
          ∧ u.me.regs = t.me.regs ∧ ∀ k, k ≠ w.qr.toNat → qOf u k = qOf t k))

/-- The entry under way with its next sector read behind the commands older than an LSN (11 R213, R221): every unread piece of that sector has its bytes, the others stand. -/
def Sys2Proof.Claims.SectorRead (s : State) (l : Nat) (ps : List SPiece) : Prop :=
  ∀ p, ps.find? unread = some p → ∀ (i : Nat) (q : SPiece), ps[i]? = some q → (partNext s l ps).2[i]? = some
    (if unread q = true ∧ q.key / 64 = p.key / 64 then { q with got := some (runBytes s (cmdsBelow s l) q) } else q)

/-- The entries of a pattern in order, dimension 0 fastest, and of an index list (12 R233, R237). Q_ENTRY_FETCH, while fewer than eight
entries stand in a q register's FIFO, begins the next entry, whose failed check is kept with it, or reads its next sector; an entry
with its last sector read joins the FIFO (11 R221, 12 R228, R233, R235). -/
def Sys2Proof.Claims.EntryFetches : Prop :=
  (∀ (q : QReg) (i0 i1 i2 i3 : Nat), i0 < qCount q 0 → i1 < qCount q 1 → i2 < qCount q 2 →
    ((entryAddr q (i0 + qCount q 0 * (i1 + qCount q 1 * (i2 + qCount q 2 * i3))) : Nat) : Int)
      = ((q.base.toNat : Int) + 64 * (i0 * (q.strides.extractLsb' 0 16).toInt + i1 * (q.strides.extractLsb' 16 16).toInt
          + i2 * (q.strides.extractLsb' 32 16).toInt + i3 * (q.strides.extractLsb' 48 16).toInt)) % 2 ^ 64)
  ∧ (∀ (q : QReg) (t : Nat), elemAddr q t = (q.base.toNat + q.idx.getD t 0 * 2 ^ q.width) % 2 ^ 64)
  ∧ (∀ (s : State) (l : Nat) (ps : List SPiece), SectorRead s l ps)
  ∧ (∀ (g n : Nat) (s : State) (q : QReg), n < 16 → (coreOf s g).run = .running → (coreOf s g).str.q.getD n .unbound = q →
      q.kind ≠ .unbound → q.out = false → q.fifo.length < 8 →
      let m := q.done + q.held.length + q.fifo.length
      let l := takerLsn (focus g s) .v
      m < qTotal q →
      (q.part = [] → ∀ v ps, readOpen (focus g s) l q.hands (entryRuns q m) = (v, .ok ps) → v.me.id = (focus g s).me.id →
        ps.any unread = true → ∃ u : State, exec (.qEntryFetch g n) s = .next u
        ∧ (coreOf u g).str.q.getD n .unbound = { qOf v n with part := ps })
      ∧ (q.part = [] → ∀ v c a, readOpen (focus g s) l q.hands (entryRuns q m) = (v, .error (.bad c a)) →
        v.me.id = (focus g s).me.id → (qOf v n).part = [] → ∃ u : State, exec (.qEntryFetch g n) s = .next u
        ∧ (coreOf u g).str.q.getD n .unbound
          = { qOf v n with fifo := (qOf v n).fifo ++ [{ data := 0, poison := none, failed := some (c, a) }] })
      ∧ (q.part ≠ [] →
        let ps := (partNext (focus g s) l q.part).2
        (ps.any unread = true → ∃ u : State, exec (.qEntryFetch g n) s = .next u
          ∧ (coreOf u g).str.q.getD n .unbound = { q with part := ps })
        ∧ (ps.any unread = false → badPiece ps = none → ∃ u : State, exec (.qEntryFetch g n) s = .next u
          ∧ (coreOf u g).str.q.getD n .unbound = { q with part := [], fifo := q.fifo ++
              [{ data := BitVec.ofNat 4096 (natOf (ps.flatMap fun p => (p.got.map Prod.fst).getD [])), poison := none, failed := none }] })))

/-- Patterns bound to q registers and their entries (12 R233-R235). -/
def Obligations.BindingWords : Prop := Bindings ∧ EntryFetches

/-- SGATHER and SSCATTER: the index pair's limits 0x0102, an array beyond the scratch 0x0204, a misaligned base 0x0203; then the
indices are read, a sector at a time where the model's choice (log 1) says so, a bad one raises 0x0601 or 0x0603, and they are bound with
the base (12 R237, 11 R221). -/
def Sys2Proof.Claims.Gathers (i : Instr) (w : SWord) (out : Bool) : Prop :=
  ∀ (s t : State) (base pair : Nat), StreamIssues i [w.xa, w.xb] s t [base, pair] →
    let off := pair % 2 ^ 20
    let n := pair / 2 ^ 32 % 2 ^ 16 + 1
    let ok := pair / 2 ^ 20 % 2 ^ 12 = 0 ∧ pair < 2 ^ 48 ∧ off % 4 = 0
    (¬ ok → exec i s = .next (raised i s t 0x0102 none))
    ∧ (ok → 2 ^ 20 < off + 4 * n → exec i s = .next (raised i s t 0x0204 (some (0xF000000000000000 + off))))
    ∧ (ok → off + 4 * n ≤ 2 ^ 20 → base % 2 ^ w.mode.toNat ≠ 0 → exec i s = .next (raised i s t 0x0203 (some base)))
    ∧ (ok → off + 4 * n ≤ 2 ^ 20 → base % 2 ^ w.mode.toNat = 0 → ¬ vectorLags t →
        (∀ v u x, readIndices t off n = (v, .error (.wait u x)) → exec i s = .next (waiting i s u x))
        ∧ (∀ v u r, readIndices t off n = (v, .error (.raise u r)) → (r.code = 0x0601 ∨ r.code = 0x0603)
            ∧ exec i s = .next (raiseCode (givenBack i s u) { r with insn := insnOf s i, origin := originOf s i r }))
        ∧ ∀ v idx, readIndices t off n = (v, .ok idx) →
        let q : QReg := { QReg.unbound with kind := if out then .sscatter else .sgather, base := BitVec.ofNat 64 base,
                                            pair := BitVec.ofNat 64 pair, out := out, width := w.mode.toNat, idx := idx }
        let rs := (List.range n).map fun j => (elemAddr q j, 2 ^ w.mode.toNat)
        BindChecks i s v rs out fun _ => StreamDone i s fun u =>
          qOf u w.qr.toNat = { q with hands := heldHandles t.me.regs } ∧ ∀ k, k ≠ w.qr.toNat → qOf u k = qOf v k)

/-- SGATHER, SSCATTER, SMETA and the fetch of metadata entries: a count outside 1 to 65,536 raises 0x0102, a start that is no multiple of
64 0x0203; a fifth run with entries left waits. A metadata entry is read sector by sector, and joins its FIFO with the last of them (11
R221, 12 R237, R238). (That an entry with a bad sector is kept as an entry without failure is log 18, DEDUCED.) -/
def Obligations.GathersAndMetadata : Prop :=
  (∀ w : SWord, Gathers (.sgather w) w false ∧ Gathers (.sscatter w) w true)
  ∧ (∀ (s t : State) (w : SWord) (a n : Nat), StreamIssues (.smeta w) [w.xa, w.xb] s t [a, n] →
      let m := w.imm.toNat % 2
      ((n = 0 ∨ 65536 < n) → exec (.smeta w) s = .next (raised (.smeta w) s t 0x0102 none))
      ∧ (0 < n → n ≤ 65536 → a % 64 ≠ 0 → exec (.smeta w) s = .next (raised (.smeta w) s t 0x0203 (some a)))
      ∧ (0 < n → n ≤ 65536 → a % 64 = 0 → BindChecks (.smeta w) s t (runs a (2048 * n)) false fun v =>
          (4 ≤ ((mqOf v m).runs.filter fun r => r.popped < r.count).length →
            exec (.smeta w) s = .next (waiting (.smeta w) s v .queue))
          ∧ (((mqOf v m).runs.filter fun r => r.popped < r.count).length < 4 → StreamDone (.smeta w) s fun u =>
              mqOf u m = { mqOf v m with runs := (mqOf v m).runs ++ [{ addr := BitVec.ofNat 64 a, count := n, popped := 0,
                                                                          hands := heldHandles t.me.regs }] })))
  ∧ (∀ (g n : Nat) (s : State) (m : MqReg) (a : Nat) (hands : List Handle), n < 2 → (coreOf s g).run = .running →
      (coreOf s g).str.mq.getD n .empty = m → m.fifo.length < 16 →
      let l := takerLsn (focus g s) .m
      (m.part = [] → mqAddr m.runs m.fifo.length = some (a, hands) → ∀ v ps, readOpen (focus g s) l hands (runs a 2048) = (v, .ok ps) →
        v.me.id = (focus g s).me.id → ps.any unread = true → ∃ u : State, exec (.mqEntryFetch g n) s = .next u
        ∧ (coreOf u g).str.mq.getD n .empty = { mqOf v n with part := ps })
      ∧ (m.part ≠ [] →
        let ps := (partNext (focus g s) l m.part).2
        (ps.any unread = true → ∃ u : State, exec (.mqEntryFetch g n) s = .next u
          ∧ (coreOf u g).str.mq.getD n .empty = { m with part := ps })
        ∧ (ps.any unread = false → ∃ u : State, exec (.mqEntryFetch g n) s = .next u
          ∧ (coreOf u g).str.mq.getD n .empty = { m with part := [], fifo := m.fifo ++ [{ data := pieceBytes ps, failed := none }] })))

/-- A command that has passed its checks joins SQ(S) with its fields, in the order of the words; with all sixteen places of stream words
taken the oldest departs, and the word waits while the frontier has not reached that (11 R212, 12 R229, 14 R293). -/
def Sys2Proof.Claims.Joins (i : Instr) (s v : State) (c : SCmd) : Prop :=
  let held := (v.me.sqS.filter fun d => !isPushed d).length
  (held < 16 → StreamDone i s fun u => u.me.sqS = (v.me.sqS.takeWhile fun d => d.lsn ≤ c.lsn) ++ c :: (v.me.sqS.dropWhile fun d => d.lsn ≤ c.lsn)
    ∧ u.mem = v.mem ∧ u.me.regs = v.me.regs)
  ∧ (16 ≤ held → ∀ pre h rest, v.me.sqS = pre ++ h :: rest → (∀ d ∈ pre, isPushed d = true) → isPushed h = false →
      ((∃ d ∈ pre ++ [h], frontier v.me < d.lsn) → exec i s = .next (waiting i s v .queue))
      ∧ ((∀ d ∈ pre ++ [h], d.lsn ≤ frontier v.me) → StreamDone i s fun u => c ∈ u.me.sqS))

/-- The checks of the bytes that a word's command reads, in access order (12 R228): a byte that parks holds the word; else the homes of runs on
other modules are asked, and the first run that its check or its home refuses gives its code; where none does, `P`. -/
def Sys2Proof.Claims.ReadChecks (i : Instr) (s t : State) (rs : List (Nat × Nat)) (P : State → List ((Nat × Nat × Acc1) × Reply) → Prop) : Prop :=
  ∀ v l stop, checkPrefix t (heldHandles t.me.regs) rs false = (v, l, stop) →
    (∀ x h, stop = some (.park x h) → exec i s = .next (waiting i s v (.parked x h)))
    ∧ ((∀ x h, stop ≠ some (.park x h)) →
        (∀ x y, askHomes (unpark v) t.me.flow.lsn l = (x, .error y) → exec i s = .next (waiting i s x y))
        ∧ (∀ x bs, askHomes (unpark v) t.me.flow.lsn l = (x, .ok bs) →
            (∀ p, firstRefused (l.zip bs) = some p → exec i s = .next (raised i s x p.1 (some p.2)))
            ∧ (firstRefused (l.zip bs) = none →
                (∀ c a, stop = some (.bad c a) → exec i s = .next (raised i s x c (some a))) ∧ (stop = none → P x (l.zip bs)))))

/-- The runs of the sources of a copy in the order of their destination sectors (11 R220, 12 R228). -/
def Sys2Proof.Claims.sourceRuns (dst src n : Nat) : List (Nat × Nat) := (copyCuts (runs dst n) src).flatMap fun c => c.2.2

/-- A copy of `n` bytes in the state `t`: the first source byte that fails its checks raises its code, a source that parks waits,
then the first failing destination byte raises its code (that every source comes first is the model's choice, log 17); a copy within one sector on both sides of this module joins SQ(S) with
that one write, any other with the writes of `copyCmd` (12 R228, R229, R240). -/
def Sys2Proof.Claims.Copies (i : Instr) (kind : SKind) (dst src n : Nat) (f : SCmd → SCmd) (s t : State) : Prop :=
  (ReadChecks i s t (sourceRuns dst src n) fun v _ =>
    ∀ w c a, checkRuns v (runs dst n) true = (w, .bad c a) → exec i s = .next (raised i s w c (some a)))
  ∧ (∀ v c, copyCmd t kind dst src n = (v, .ok c) → Joins i s v (f c))
  ∧ (∀ v w a b, 0 < n → dst < 2 ^ 64 → src < 2 ^ 64 → dst % 64 + n ≤ 64 → src % 64 + n ≤ 64 → checkRuns t [(src, n)] false = (v, .ok [(src, n, a)]) →
      a.remote = none → checkRuns (unpark v) [(dst, n)] true = (w, .ok [(dst, n, b)]) → b.remote = none →
      copyCmd t kind dst src n = (w, .ok {
        lsn := w.me.flow.lsn, kind := kind, sent := 0, xid := none, ckm := 0, ckr := 0, op := 0, fmt := 0, ver := none, tag := 0,
        bad := false,
        writes := [{ dest := .here b.key b.global, src := [{ key := a.key, len := n, global := a.global }], bytes := [], poison := false }] }))

/-- SLD and SST move 2^(12+k) bytes between x[XA] and a declared stage: one not declared or too small raises 0x0102, an address that is no
multiple of 64 0x0203. CPY and STAGE: a length above 2^32 - 1 raises 0x0102, STAGE with neither end in the staging window 0x0204, ADD32
off its alignment 0x0203 (12 R236, R239, R240, R245). (Which of two failing ends gives the code is log 17, DEDUCED.) -/
def Obligations.StageAndCopyWords : Prop :=
  (∀ (s t : State) (w : SWord) (st : Bool) (a : Nat), let i : Instr := if st then .sst w else .sld w
    StreamIssues i [w.xa] s t [a] →
    let n := 2 ^ (12 + w.size.toNat)
    (stageAddr t w.slot.toNat w.stage.toNat n = none → exec i s = .next (raised i s t 0x0102 none))
    ∧ (∀ b, stageAddr t w.slot.toNat w.stage.toNat n = some b →
        (a % 64 ≠ 0 → exec i s = .next (raised i s t 0x0203 (some a)))
        ∧ (a % 64 = 0 → if st then Copies i .sst a b n id s t else Copies i .sld b a n id s t)))
  ∧ (∀ (s t : State) (w : SWord) (stg : Bool) (dst src n : Nat), let i : Instr := if stg then .stage w else .cpy w
      StreamIssues i [w.xa, w.xb, w.xc] s t [dst, src, n] →
      (2 ^ 32 ≤ n → exec i s = .next (raised i s t 0x0102 none))
      ∧ (n < 2 ^ 32 → stg = true → dst / 2 ^ 56 ≠ 0xF2 → src / 2 ^ 56 ≠ 0xF2 → exec i s = .next (raised i s t 0x0204 (some dst)))
      ∧ (n < 2 ^ 32 → (stg = false ∨ dst / 2 ^ 56 = 0xF2 ∨ src / 2 ^ 56 = 0xF2) →
          (w.ckm = 1 → dst % 4 ≠ 0 ∨ n % 4 ≠ 0 → exec i s = .next (raised i s t 0x0203 (some dst)))
          ∧ (w.ckm ≠ 1 ∨ (dst % 4 = 0 ∧ n % 4 = 0) →
              Copies i (if stg then .stage else .cpy) dst src n (fun c => { c with ckm := w.ckm, ckr := w.ckr }) s t)))

/-- CPYMC: a mask above 2^8 - 1 raises 0x0102, an offset or source that is no multiple of 64 0x0203, bytes beyond the scratch 0x0204,
a position without a member of the crew 0x0204; a zero mask moves and touches nothing; else sector by sector each receiver's scratch is written in ascending position (12
R239, R241). -/
def Sys2Proof.Claims.MulticastCopies : Prop :=
  ∀ (s t : State) (w : SWord) (off src mask : Nat), StreamIssues (.cpymc w) [w.xa, w.xb, w.xc] s t [off, src, mask] →
    let n := 2 ^ (12 + w.size.toNat)
    let poss := (List.range 8).filter fun p => mask / 2 ^ p % 2 == 1
    (2 ^ 8 ≤ mask → exec (.cpymc w) s = .next (raised (.cpymc w) s t 0x0102 none))
    ∧ (mask < 2 ^ 8 → off % 64 ≠ 0 → exec (.cpymc w) s = .next (raised (.cpymc w) s t 0x0203 (some off)))
    ∧ (mask < 2 ^ 8 → off % 64 = 0 → src % 64 ≠ 0 → exec (.cpymc w) s = .next (raised (.cpymc w) s t 0x0203 (some src)))
    ∧ (mask < 2 ^ 8 → off % 64 = 0 → src % 64 = 0 → 2 ^ 20 < off + n →
        exec (.cpymc w) s = .next (raised (.cpymc w) s t 0x0204 (some (0xF100000000000000 + off))))
    ∧ (mask = 0 → off % 64 = 0 → src % 64 = 0 → off + n ≤ 2 ^ 20 → Joins (.cpymc w) s t (cmdOf t .cpymc []))
    ∧ (mask ≠ 0 → mask < 2 ^ 8 → off % 64 = 0 → src % 64 = 0 → off + n ≤ 2 ^ 20 →
        ReadChecks (.cpymc w) s t (runs src n) fun v l =>
          (∀ p rest, poss.filter (fun p => !isMate v (8 * (v.me.id / 8) + p)) = p :: rest →
            exec (.cpymc w) s = .next (raised (.cpymc w) s v 0x0204 (some (0xF100000000000000 + p * 2 ^ 20 + off))))
          ∧ ((∀ p ∈ poss, isMate v (8 * (v.me.id / 8) + p) = true) → (∀ r ∈ l, r.1.2.2.remote = none) →
              Joins (.cpymc w) s v (cmdOf v .cpymc (l.zipIdx.flatMap fun r => poss.map fun p =>
                { dest := .crew (scratchKey (8 * (v.me.id / 8) + p) (off + 64 * r.2)),
                  src := [{ key := r.1.1.2.2.key, len := r.1.1.2.1, global := r.1.1.2.2.global }], bytes := [], poison := false }))))

/-- CPYR and CPYF. CPYR: a length above 2^32 - 1 raises 0x0102, ends or a length that are no multiples of 64 0x0203, a scratch or crew
destination 0x0202, but of length 0 by the model's choice (log 65). CPYF: reserved descriptor bits, or a module named beside a tile, raise
0x0102, ADD32 off its alignment 0x0203, a destination in no global, stack or tile window 0x0204; the command names the module and its
addresses (12 R239, R242, R243, R245). (Which of two failing ends gives the code is log 17, DEDUCED.) -/
def Sys2Proof.Claims.ReducingAndFabricCopies : Prop :=
  (∀ (s t : State) (w : SWord) (dst src n : Nat), StreamIssues (.cpyr w) [w.xa, w.xb, w.xc] s t [dst, src, n] →
    let i := Instr.cpyr w
    (2 ^ 32 ≤ n → exec i s = .next (raised i s t 0x0102 none))
    ∧ (n < 2 ^ 32 → dst % 64 ≠ 0 → exec i s = .next (raised i s t 0x0203 (some dst)))
    ∧ (n < 2 ^ 32 → dst % 64 = 0 → (src % 64 ≠ 0 ∨ n % 64 ≠ 0) → exec i s = .next (raised i s t 0x0203 (some src)))
    ∧ (n < 2 ^ 32 → dst % 64 = 0 → src % 64 = 0 → n % 64 = 0 → ∀ v c, copyCmd t .cpyr dst src n = (v, .ok c) →
        ((dst / 2 ^ 56 = 0xF0 ∨ dst / 2 ^ 56 = 0xF1) → n ≠ 0 → exec i s = .next (raised i s v 0x0202 (some dst)))
        ∧ (¬ ((dst / 2 ^ 56 = 0xF0 ∨ dst / 2 ^ 56 = 0xF1) ∧ n ≠ 0) →
            Joins i s v { c with ckm := w.ckm, ckr := w.ckr, op := w.mode.toNat % 4, fmt := w.mode.toNat / 4 })))
  ∧ (∀ (s t : State) (w : SWord) (dst src desc : Nat), StreamIssues (.cpyf w) [w.xa, w.xb, w.xc] s t [dst, src, desc] →
      let i := Instr.cpyf w
      let n := desc % 2 ^ 32
      let m := desc / 2 ^ 32 % 2 ^ 12
      let tile := dst / 2 ^ 52 = 0xF40
      ((2 ^ 44 ≤ desc ∨ (tile ∧ m ≠ 0)) → exec i s = .next (raised i s t 0x0102 none))
      ∧ (desc < 2 ^ 44 → (tile → m = 0) → w.ckm = 1 → (dst % 4 ≠ 0 ∨ n % 4 ≠ 0) → exec i s = .next (raised i s t 0x0203 (some dst)))
      ∧ (desc < 2 ^ 44 → (w.ckm ≠ 1 ∨ (dst % 4 = 0 ∧ n % 4 = 0)) →
          (tile → m = 0 → Copies i .cpyf dst src n (fun c => { c with ckm := w.ckm, ckr := w.ckr }) s t)
          ∧ (¬ tile →
              ReadChecks i s t (sourceRuns dst src n) fun v l =>
                (2 ^ 52 ≤ dst → dst / 2 ^ 56 ≠ 0xF3 → exec i s = .next (raised i s v 0x0204 (some dst)))
                ∧ ((dst < 2 ^ 52 ∨ dst / 2 ^ 56 = 0xF3) → 0 < n → dst % 64 + n ≤ 64 → src % 64 + n ≤ 64 → ∀ a b, l = [((src, n, a), b)] →
                    a.remote = none →
                    Joins i s v { cmdOf v .cpyf
                        [{ dest := if m = v.fabric then .own dst else .away m dst none,
                           src := [{ key := a.key, len := n, global := a.global }], bytes := [], poison := false }]
                      with ckm := w.ckm, ckr := w.ckr }))))

/-- Multicast, reducing and fabric copies (12 R239, R241-R245). -/
def Obligations.OtherCopies : Prop := MulticastCopies ∧ ReducingAndFabricCopies

/-- CKRD waits for every older command that names ck[k], then reads it zero-extended into x[XA] or a channel, or writes the low 32
bits of x[XA]; SPF only completes; GPUSH sends a block of 65,536 bytes that starts at a multiple of 64 (0x0203, first by the model's choice, log 66) outside the tile window (12
R246-R248). -/
def Obligations.ChecksumAndBlockWords : Prop :=
  (∀ (s t : State) (w : SWord), issuedIn (.ckrdRead w) s = some t →
    let k := w.ckr.toNat
    let c := w.xa.toNat % 16
    (ckPending t k = true → exec (.ckrdRead w) s = .next (waiting (.ckrdRead w) s t (.ckrd k)))
    ∧ (ckPending t k = false → s.me.form = .logical → exec (.ckrdRead w) s = .next (completed (.ckrdRead w) s
        (setX t w.xa (BitVec.ofNat 64 (readCk t.me.regs k).toNat)) .fall))
    ∧ (ckPending t k = false → s.me.form = .slices →
        ((t.me.str.ch.getD c []).length < 16 → exec (.ckrdRead w) s = .next (completed (.ckrdRead w) s
          (chanPush t c (.scalar (BitVec.ofNat 64 (readCk t.me.regs k).toNat))) .fall))
        ∧ (16 ≤ (t.me.str.ch.getD c []).length → exec (.ckrdRead w) s = .next (waiting (.ckrdRead w) s t .queue))))
  ∧ (∀ (s t : State) (w : SWord) (x : Nat), StreamIssues (.ckrdLoad w) [w.xa] s t [x] →
      let k := w.ckr.toNat
      (ckPending t k = true → exec (.ckrdLoad w) s = .next (waiting (.ckrdLoad w) s t (.ckrd k)))
      ∧ (ckPending t k = false → StreamDone (.ckrdLoad w) s fun u =>
          u.me.regs = writeCk t.me.regs k (BitVec.ofNat 32 x) ∧ u.mem = t.mem))
  ∧ (∀ (s t : State) (w : SWord) (a n : Nat), StreamIssues (.spf w) [w.xa, w.xc] s t [a, n] →
      StreamDone (.spf w) s fun u => u.me.regs = t.me.regs ∧ u.mem = t.mem ∧ u.me.sqS = t.me.sqS ∧ u.me.l1 = t.me.l1)
  ∧ (∀ (s t : State) (w : SWord) (a tag : Nat), StreamIssues (.gpush w) [w.xa, w.xb] s t [a, tag] →
      let i := Instr.gpush w
      (a % 64 ≠ 0 → exec i s = .next (raised i s t 0x0203 (some a)))
      ∧ (a % 64 = 0 → a / 2 ^ 56 = 0xF4 → exec i s = .next (raised i s t 0x0204 (some a)))
      ∧ (a % 64 = 0 → a / 2 ^ 56 ≠ 0xF4 →
          ReadChecks i s t (runs a 65536) fun v l => (∀ r ∈ l, r.1.2.2.remote = none) →
            Joins i s v { cmdOf v .gpush [{
                dest := .away (tag / 2 ^ 52) 0 none,
                src := l.map fun r => { key := r.1.2.2.key, len := r.1.2.1, global := r.1.2.2.global }, bytes := [], poison := false }]
              with tag := tag }))

/-- A vector word on the operands of `t` (09 R164, R165, R167): a failed binding check raises its code; with VL = 0 it does nothing
unless VL does not limit it, but for the channel entries its x registers stand in (log 57); a full destination holds it; else, its q entries fetched, every repetition reads, pops and puts. -/
def Sys2Proof.Claims.VectorWord (i : Instr) (v : VWord) (us : List SrcUse) (dst always : Bool) (put : State → Nat → List VecWord → State)
    (s t : State) : Prop :=
  match qChecks t v us dst (always || vlOf t != 0) with
  | some c => exec i s = .next (raised i s t c none)
  | none =>
    if (always || vlOf t != 0) = false then exec i s = .next (if skipReady v us t = true ∧ dstRoom t v dst = true
      then completed i s (skipWord v us dst t) .fall else waiting i s t .queue)
    else if dstRoom t v dst = false then exec i s = .next (waiting i s t .queue)
    else
      (∀ x y, qReadyAll (List.range 16) t v us = (x, some y) → exec i s = .next (waiting i s x y))
      ∧ ∀ x u, qReadyAll (List.range 16) t v us = (x, none) → vecReps v us put (v.rep.toNat + 1) 0 x = .ok u →
        exec i s = .next (completed i s u .fall)

/-- A vector word that rounds by a mode its RND4 gives: rdyn with an RMODE from 5 on raises 0x0102 (05 R84). -/
def Sys2Proof.Claims.InMode (i : Instr) (v : VWord) (P : Nat → State → State → Prop) : Prop :=
  ∀ s t : State, issuedIn i s = some t →
    match roundMode t v.rnd.toNat with
    | none => exec i s = .next (raised i s t 0x0102 none)
    | some m => P m s t

/-- A vector word that rounds nothing. -/
def Sys2Proof.Claims.Plainly (i : Instr) (P : State → State → Prop) : Prop := ∀ s t : State, issuedIn i s = some t → P s t

/-- Elements of the word's type a repetition covers: min(VL, 4096 / w). -/
def Sys2Proof.Claims.spanOf (v : VWord) (t : State) : Nat := min (vlOf t) (4096 / fmtWidth v.ty.toNat)

/-- Element i of the destination is `f` of the sources, for each active i below `m`. -/
def Sys2Proof.Claims.eachActive (v : VWord) (m : State → Nat) (f : State → Nat → List VecWord → Nat → Nat) (t : State) (r : Nat)
    (l : List VecWord) : State :=
  putElems t v r (fmtWidth v.ty.toNat) (((List.range (m t)).filter fun i => active t v (fmtWidth v.ty.toNat) i).map
    fun i => (i, f t r l i))

/-- What a repetition's put leaves (09 R161, R163): in a v register every element written by the list holds its low bits, every
other keeps its value; a push onto q or a channel carries zeros in the others. -/
def Obligations.VectorElements : Prop :=
  ∀ (s : State) (v : VWord) (r w n : Nat) (f : Nat → Nat) (keep : Nat → Bool),
    w ∈ [4, 8, 16, 32] → n ≤ 4096 / w → ∀ i, i < 4096 / w →
    let l := ((List.range n).filter keep).map fun j => (j, f j)
    let u := putElems s v r w l
    let held := fun old : Nat => if i < n ∧ keep i = true then f i % 2 ^ w else old
    (opFile v.dst = 0 → regAt v v.dst 3 r < 32 →
      getElem (readV u.me.regs (regAt v v.dst 3 r)) w i = held (getElem (readV s.me.regs (regAt v v.dst 3 r)) w i)
      ∧ (∀ k, k ≠ regAt v v.dst 3 r → readV u.me.regs k = readV s.me.regs k)
      ∧ u.mem = s.mem)
    ∧ (opFile v.dst = 1 → ∃ x, u = qPush s (regAt v v.dst 3 r) x ∧ getElem x w i = held 0)
    ∧ (opFile v.dst = 2 → ∃ x, u = chanPush s (opIndex v.dst % 16) (.vector x) ∧ getElem x w i = held 0)

/-- A floating word: its sources by their values, its result rounded once at the site i of its repetition (09 R169). -/
def Sys2Proof.Claims.FloatWord (mk : VWord → Instr) (us : VWord → List SrcUse) (op : Bool → FNum → FNum → FNum → FNum) : Prop :=
  ∀ v : VWord, InMode (mk v) v fun m s t => VectorWord (mk v) v (us v) true false
    (eachActive v (spanOf v) fun _ r l i =>
      let x := fun k => decodeFloat v.ty.toNat (getElem (nthSrc l k) (fmtWidth v.ty.toNat) i)
      encodeFloat v.ty.toNat m (drawBits (drawOf t) m r i) false (op (m == 2) (x 0) (x 1) (x 2))) s t

/-- One, two and three sources of the word's width. -/
def Sys2Proof.Claims.oneSrc (v : VWord) : List SrcUse := [{ field := v.sa, pos := 2, width := fmtWidth v.ty.toNat }]
def Sys2Proof.Claims.twoSrcs (v : VWord) : List SrcUse := oneSrc v ++ [{ field := v.sb, pos := 1, width := fmtWidth v.ty.toNat }]
def Sys2Proof.Claims.threeSrcs (v : VWord) : List SrcUse := twoSrcs v ++ [{ field := v.sc, pos := 0, width := fmtWidth v.ty.toNat }]

/-- The floating words of 09 R169, each rounded once: sums, differences and products, the fused forms, the lesser and greater, magnitude and
sign, scaling, from the exact value; quotient, root, power, logarithm and reciprocal root from the value that the model's integer functions
give, to more bits than a format holds (log 5, DEDUCED); VCLASS sets exactly one bit. -/
def Obligations.VectorFloats : Prop :=
  FloatWord .vadd twoSrcs (fun rd a b _ => numAdd rd a b)
  ∧ FloatWord .vsub twoSrcs (fun rd a b _ => numAdd rd a (numNeg b))
  ∧ FloatWord .vmul twoSrcs (fun _ a b _ => numMul a b)
  ∧ FloatWord .vfma threeSrcs (fun rd a b c => numAdd rd (numMul a b) c)
  ∧ FloatWord .vfms threeSrcs (fun rd a b c => numAdd rd (numMul a b) (numNeg c))
  ∧ FloatWord .vfnma threeSrcs (fun rd a b c => numAdd rd c (numNeg (numMul a b)))
  ∧ FloatWord .vmin twoSrcs (fun _ a b _ => if a = .nan ∨ b = .nan then .nan else if numLt true b a = true then b else a)
  ∧ FloatWord .vmax twoSrcs (fun _ a b _ => if a = .nan ∨ b = .nan then .nan else if numLt true a b = true then b else a)
  ∧ FloatWord .vabs oneSrc (fun _ a _ _ => numAbs a)
  ∧ FloatWord .vneg oneSrc (fun _ a _ _ => numNeg a)
  ∧ FloatWord .vdiv twoSrcs (fun _ a b _ => numDiv a b)
  ∧ FloatWord .vsqrt oneSrc (fun _ a _ _ => numSqrt a)
  ∧ FloatWord .vexp2 oneSrc (fun _ a _ _ => numExp2 a)
  ∧ FloatWord .vlog2 oneSrc (fun _ a _ _ => numLog2 a)
  ∧ FloatWord .vrsq oneSrc (fun _ a _ _ => numRsq a)
  ∧ (∀ v : VWord, InMode (.vscale v) v fun m s t => VectorWord (.vscale v) v (twoSrcs v) true false
      (eachActive v (spanOf v) fun _ r l i =>
        let w := fmtWidth v.ty.toNat
        encodeFloat v.ty.toNat m (drawBits (drawOf t) m r i) false
          (numScale (decodeFloat v.ty.toNat (getElem (nthSrc l 0) w i)) (signedOf w (getElem (nthSrc l 1) w i)))) s t)
  ∧ (∀ v : VWord, Plainly (.vclass v) fun s t => VectorWord (.vclass v) v (oneSrc v) true false
      (eachActive v (spanOf v) fun _ _ l i =>
        match decodeFloat v.ty.toNat (getElem (nthSrc l 0) (fmtWidth v.ty.toNat) i) with
        | .nan => 2 ^ 0
        | .inf true => 2 ^ 1
        | .inf false => 2 ^ 8
        | .fin n m e _ =>
          let sub := e + m.log2 < (if v.ty.toNat = 1 then -14 else -126)
          if m = 0 then (if n then 2 ^ 4 else 2 ^ 5)
          else if n then (if sub then 2 ^ 3 else 2 ^ 2) else (if sub then 2 ^ 6 else 2 ^ 7)) s t)

/-- An integer word: its result computed exactly on the integers its type reads, written as its low w bits (09 R172). -/
def Sys2Proof.Claims.IntWord (mk : VWord → Instr) (us : VWord → List SrcUse) (op : Nat → (Nat → Int) → Nat → Nat → Nat → Int) : Prop :=
  ∀ v : VWord, Plainly (mk v) fun s t => VectorWord (mk v) v (us v) true false
    (eachActive v (spanOf v) fun _ _ l i =>
      let w := fmtWidth v.ty.toNat
      let x := fun k => getElem (nthSrc l k) w i
      (op w (decodeInt v.ty.toNat) (x 0) (x 1) (x 2) % 2 ^ w).toNat) s t

/-- The integer words of 09 R172, R173: wrapping sums and products, the bitwise ones, shifts that reach 0 or the sign from w on,
minima and maxima by the type, and the hash of its rounds. -/
def Obligations.VectorIntegers : Prop :=
  IntWord .viadd twoSrcs (fun _ int a b _ => int a + int b)
  ∧ IntWord .visub twoSrcs (fun _ int a b _ => int a - int b)
  ∧ IntWord .vimul twoSrcs (fun _ int a b _ => int a * int b)
  ∧ IntWord .vimad threeSrcs (fun _ int a b c => int a * int b + int c)
  ∧ IntWord .vand twoSrcs (fun _ _ a b _ => ((a &&& b : Nat) : Int))
  ∧ IntWord .vor twoSrcs (fun _ _ a b _ => ((a ||| b : Nat) : Int))
  ∧ IntWord .vxor twoSrcs (fun _ _ a b _ => ((a ^^^ b : Nat) : Int))
  ∧ IntWord .vshl twoSrcs (fun w _ a b _ => if w ≤ b then 0 else ((a * 2 ^ b : Nat) : Int))
  ∧ IntWord .vshr twoSrcs (fun w _ a b _ => if w ≤ b then 0 else ((a / 2 ^ b : Nat) : Int))
  ∧ IntWord .vsar twoSrcs (fun w _ a b _ => if w ≤ b then (if signedOf w a < 0 then -1 else 0) else signedOf w a / 2 ^ b)
  ∧ IntWord .vimin twoSrcs (fun _ int a b _ => if int a ≤ int b then int a else int b)
  ∧ IntWord .vimax twoSrcs (fun _ int a b _ => if int a ≤ int b then int b else int a)
  ∧ (∀ v : VWord, Plainly (.vhash v) fun s t => VectorWord (.vhash v) v
      [{ field := v.sa, pos := 2, width := 32 }, { field := v.sb, pos := 1, width := 32 }] true false
      (eachActive v (spanOf v) fun _ _ l i =>
        (List.range (v.imm.toNat + 1)).foldl (fun h _ =>
          let g := (h ^^^ getElem (nthSrc l 1) 32 i) * 0x85EBCA6B % 2 ^ 32
          g ^^^ (g / 2 ^ 13)) (getElem (nthSrc l 0) 32 i)) s t)

/-- A compare word (09 R170): a lane whose guard is off keeps its value, a lane without elements below VL is cleared, any other is
set exactly when the relation holds for every element of it. -/
def Sys2Proof.Claims.LaneWord (mk : VWord → Instr) (rel : VWord → Nat → Nat → Bool) : Prop :=
  ∀ v : VWord, Plainly (mk v) fun s t =>
    ∃ put : State → Nat → List VecWord → State,
      (∀ (x : State) (r : Nat) (l : List VecWord), ∃ p : PredWord,
        put x r l = mapRegs x (fun g => writeP g (regAt v v.dst 3 r) p)
        ∧ ∀ j, j < 128 →
          let w := fmtWidth v.ty.toNat
          if (readP x.me.regs v.pred.toNat).getLsbD j = (v.neg == 1) then
            p.getLsbD j = (readP x.me.regs (regAt v v.dst 3 r)).getLsbD j
          else (p.getLsbD j = true ↔ (∃ i, i < spanOf v x ∧ i * w / 32 = j)
            ∧ ∀ i, i < spanOf v x → i * w / 32 = j → rel v (getElem (nthSrc l 0) w i) (getElem (nthSrc l 1) w i) = true))
      ∧ VectorWord (mk v) v (twoSrcs v) false false put s t

/-- VCMP and VICMP (09 R170) and VSEL, whose guard chooses between its sources for every element below VL (09 R171). -/
def Sys2Proof.Claims.VectorCompares : Prop :=
  LaneWord .vcmpOrdered (fun v a b =>
    let x := decodeFloat v.ty.toNat a
    let y := decodeFloat v.ty.toNat b
    if x = .nan ∨ y = .nan then v.imm.toNat == 1
    else match v.imm.toNat with
      | 0 => numEq x y | 1 => !numEq x y | 2 => numLt false x y | 3 => numLt false x y || numEq x y
      | 4 => numLt false y x | _ => numLt false y x || numEq x y)
  ∧ LaneWord .vcmpUnordered (fun v a b =>
    let x := decodeFloat v.ty.toNat a
    let y := decodeFloat v.ty.toNat b
    if x = .nan ∨ y = .nan then true
    else match v.imm.toNat with
      | 0 => false | 1 => numEq x y | 2 => numLt false x y | 3 => numLt false x y || numEq x y
      | 4 => numLt false y x | _ => numLt false y x || numEq x y)
  ∧ LaneWord .vicmp (fun v a b =>
    let w := fmtWidth v.ty.toNat
    let x := signedOf w a
    let y := signedOf w b
    match v.imm.toNat with
    | 0 => a == b | 1 => a != b | 2 => decide (x < y) | 3 => decide (x ≤ y) | 4 => decide (y < x) | 5 => decide (y ≤ x)
    | 8 => decide (a < b) | 9 => decide (a ≤ b) | 10 => decide (b < a) | _ => decide (b ≤ a))
  ∧ (∀ v : VWord, Plainly (.vsel v) fun s t => VectorWord (.vsel v) v (twoSrcs v) true false
      (fun x r l => putElems x v r (fmtWidth v.ty.toNat) ((List.range (spanOf v x)).map fun i =>
        (i, if active x v (fmtWidth v.ty.toNat) i = true then getElem (nthSrc l 0) (fmtWidth v.ty.toNat) i
            else getElem (nthSrc l 1) (fmtWidth v.ty.toNat) i))) s t)

/-- The elements that enter a tree (09 R174): the identity where inactive and from VL on. -/
def Sys2Proof.Claims.treeLeaves (v : VWord) (t : State) (x : VecWord) : List Nat :=
  (List.range (4096 / fmtWidth v.ty.toNat)).map fun i =>
    if i < spanOf v t ∧ active t v (fmtWidth v.ty.toNat) i = true then getElem x (fmtWidth v.ty.toNat) i
    else identityOf v.ty.toNat v.imm.toNat

/-- A node of the tree, in the word's mode at the site W * k + i (07 R124, R130). -/
def Sys2Proof.Claims.treeAt (v : VWord) (t : State) (m r k i a b : Nat) : Nat :=
  roundOp v.ty.toNat v.imm.toNat m (drawBits (drawOf t) m r (4096 / fmtWidth v.ty.toNat * k + i)) a b

/-- A scalar result: sign-extended for i types, else zero-extended (09 R174, R178). -/
def Sys2Proof.Claims.scalarResult (v : VWord) (c : Nat) : Word :=
  if fmtSigned v.ty.toNat = true then BitVec.ofInt 64 (signedOf (fmtWidth v.ty.toNat) c) else BitVec.ofNat 64 c

/-- VRED writes the root of the tree into element 0 or a scalar destination, VSCAN the inclusive scan, NaN results canonical (09 R174, 06 R110); VCVT and VCVTI
convert element by element, VPACK and VUNPK by halves and quarters (09 R175, R176). -/
def Sys2Proof.Claims.VectorTreesAndConversions : Prop :=
  (∀ v : VWord, InMode (.vred v) v fun m s t => VectorWord (.vred v) v (oneSrc v) true false (fun x r l =>
      let c := (reduceTree 10 (treeAt v t m r) (4096 / fmtWidth v.ty.toNat / 2) 0 (treeLeaves v x (nthSrc l 0))).headD 0
      if opFile v.dst = 2 then putScalar x v (scalarResult v c) else putElems x v r (fmtWidth v.ty.toNat) [(0, c)]) s t)
  ∧ (∀ v : VWord, InMode (.vscan v) v fun m s t => VectorWord (.vscan v) v (oneSrc v) true false
      (eachActive v (spanOf v) fun x r l i =>
        convert v.ty.toNat v.ty.toNat 0 0 false ((scanTree 10 (treeAt v t m r) 1 0 (treeLeaves v x (nthSrc l 0))).getD i 0)) s t)
  ∧ (∀ (mk : VWord → Instr), mk = .vcvt ∨ mk = .vcvti → ∀ v : VWord, InMode (mk v) v fun m s t =>
      VectorWord (mk v) v [{ field := v.sa, pos := 2, width := fmtWidth v.sc.toNat }] true false
      (eachActive v (fun x => min (vlOf x) (4096 / max (fmtWidth v.sc.toNat) (fmtWidth v.ty.toNat))) fun x r l i =>
        convert v.sc.toNat v.ty.toNat m (drawBits (drawOf t) m r i) v.imm[0] (getElem (nthSrc l 0) (fmtWidth v.sc.toNat) i)) s t)
  ∧ (∀ v : VWord, InMode (.vpack v) v fun m s t =>
      let ws := fmtWidth v.sc.toNat
      let n := 4096 / ws
      let first := 2 * n * (v.imm.toNat / 2)
      VectorWord (.vpack v) v [{ field := v.sa, pos := 2, width := ws }, { field := v.sb, pos := 1, width := ws }] true false
      (fun x r l =>
        let cvt := fun (k i j : Nat) => (j, convert v.sc.toNat v.ty.toNat m (drawBits (drawOf t) m r j) v.imm[0] (getElem (nthSrc l k) ws i))
        putElems x v r (fmtWidth v.ty.toNat)
          (((List.range (min (vlOf x) n)).map (fun i => cvt 0 i (first + i)) ++ (List.range (min (vlOf x) n)).map (fun i => cvt 1 i (first + n + i))).filter
            fun p => active x v (fmtWidth v.ty.toNat) p.1)) s t)
  ∧ (∀ v : VWord, InMode (.vunpk v) v fun m s t =>
      let ws := fmtWidth v.sc.toNat
      VectorWord (.vunpk v) v [{ field := v.sa, pos := 2, width := ws }] true false
      (eachActive v (spanOf v) fun x r l i =>
        convert v.sc.toNat v.ty.toNat m (drawBits (drawOf t) m r i) v.imm[0]
          (getElem (nthSrc l 0) ws (4096 / fmtWidth v.ty.toNat * (v.imm.toNat / 2) + i))) s t)

/-- Vector compares, selection, trees and conversions (09 R170, R171, R174-R176). -/
def Obligations.ComparesAndConversions : Prop := VectorCompares ∧ VectorTreesAndConversions

/-- Element `j` of a source, 0 past its end (09 R177). -/
def Sys2Proof.Claims.elemAt (v : VWord) (x : VecWord) (j : Nat) : Nat :=
  if j < 4096 / fmtWidth v.ty.toNat then getElem x (fmtWidth v.ty.toNat) j else 0

/-- A word that copies bit patterns. -/
def Sys2Proof.Claims.MoveWord (mk : VWord → Instr) (us : VWord → List SrcUse) (f : VWord → List VecWord → Nat → Nat) : Prop :=
  ∀ v : VWord, Plainly (mk v) fun s t => VectorWord (mk v) v (us v) true false (eachActive v (spanOf v) fun _ _ l i => f v l i) s t

/-- The moves of 09 R177; VLEN counts and VEXTR reads one element whatever VL (R178); VACCRD reads and VACCWR writes two rows of an
accumulator (R179, R180); VDOT4 adds four signed byte products a lane, from the repetition that an earlier fault left unfinished on (R104,
R184). (VDOT4's lanes are log 20, DEDUCED, its resumed repetition log 58, DEDUCED, the errors found in an accumulator log 53, DESIGN CHOICE.) -/
def Obligations.VectorMoves : Prop :=
  MoveWord .vperm twoSrcs (fun v l i => elemAt v (nthSrc l 0) (getElem (nthSrc l 1) (fmtWidth v.ty.toNat) i))
  ∧ MoveWord .vbcast twoSrcs (fun v l _ => elemAt v (nthSrc l 0) (getElem (nthSrc l 1) (fmtWidth v.ty.toNat) 0))
  ∧ MoveWord .viota oneSrc (fun v l i => (getElem (nthSrc l 0) (fmtWidth v.ty.toNat) 0 + i) % 2 ^ fmtWidth v.ty.toNat)
  ∧ MoveWord .vmov oneSrc (fun v l i => getElem (nthSrc l 0) (fmtWidth v.ty.toNat) i)
  ∧ (∀ v : VWord, Plainly (.vlen v) fun s t => VectorWord (.vlen v) v [] true true (fun x _ _ =>
      putScalar x v (BitVec.ofNat 64 ((List.range (spanOf v x)).filter fun i => active x v (fmtWidth v.ty.toNat) i).length)) s t)
  ∧ (∀ v : VWord, Plainly (.vextr v) fun s t => VectorWord (.vextr v) v (twoSrcs v) true true (fun x _ l =>
      putScalar x v (scalarResult v
        (elemAt v (nthSrc l 0) (16 * v.imm.toNat + getElem (nthSrc l 1) (fmtWidth v.ty.toNat) 0 % 16)))) s t)
  ∧ (∀ v : VWord, InMode (.vaccrd v) v fun m s t => VectorWord (.vaccrd v) v [] true false
      (fun y k l => eachActive v (fun x => min (vlOf x) 128) (fun x r _ i =>
          let row := 2 * (v.imm.toNat + r) + i / 64
          encodeFloat v.ty.toNat m (drawBits (drawOf t) m r (64 * row + i % 64)) false
            (decodeFloat 0 (accElem (readA x.me.regs v.sa.toNat) row (i % 64))))
        (match (readA y.me.regs v.sa.toNat).err with
          | .clean => y
          | .corrected => bump y y.me.task.part 5
          | .uncorrectable => bump y y.me.task.part 6) k l) s t)
  ∧ (∀ v : VWord, Plainly (.vaccwr v) fun s t => ∃ put : State → Nat → List VecWord → State,
      (∀ (x : State) (r : Nat) (l : List VecWord), v.imm.toNat + r < 32 → ∃ a : Acc,
        put x r l = mapRegs x (fun g => writeA g v.dst.toNat a) ∧ a.valid = true
        ∧ a.suspect = (readA x.me.regs v.dst.toNat).suspect ∧ a.err = (readA x.me.regs v.dst.toNat).err
        ∧ ∀ j, j < 4096 → (readA x.me.regs v.dst.toNat).elems.length = 4096 → a.elems.getD j 0 =
            (let i := j - 128 * (v.imm.toNat + r)
             if 128 * (v.imm.toNat + r) ≤ j ∧ i < min (vlOf x) 128 ∧ active x v 32 i = true
             then BitVec.ofNat 32 (getElem (nthSrc l 0) 32 i)
             else if (readA x.me.regs v.dst.toNat).valid = true then (readA x.me.regs v.dst.toNat).elems.getD j 0 else 0))
      ∧ VectorWord (.vaccwr v) v [{ field := v.sa, pos := 2, width := 32 }] false false put s t)
  ∧ (∀ (v : VWord) (s t : State), issuedIn (.vdot4 v) s = some t →
      let us : List SrcUse := [{ field := v.sa, pos := 2, width := 32 }, { field := v.sb, pos := 1, width := 32 }]
      let put := eachActive v (fun x => min (vlOf x) 32) fun x r l i =>
        let byte := fun (k j : Nat) => signedOf 8 (getElem (nthSrc l k) 8 (4 * i + j))
        (((if opFile v.dst = 0 then (getElem (readV x.me.regs (regAt v v.dst 3 r)) 32 i : Int) else 0)
          + byte 0 0 * byte 1 0 + byte 0 1 * byte 1 1 + byte 0 2 * byte 1 2 + byte 0 3 * byte 1 3) % 2 ^ 32).toNat
      (t.me.rho = 0 → VectorWord (.vdot4 v) v us true false put s t)
      ∧ (s.me.form = .logical → t.me.flow.lsn ≤ frontier t.me → vlOf t ≠ 0 → qChecksFrom t v us true true t.me.rho = none →
          ∀ x u, qReadyAllFrom (List.range 16) t v us t.me.rho = (x, none) →
          vecReps v us put (v.rep.toNat + 1 - t.me.rho) t.me.rho x = .ok u →
          exec (.vdot4 v) s = .next (completed (.vdot4 v) s u .fall)))

/-- A scratch element of a row (10 R189): byte k·w/8 of it, or the low or high four bits of byte k/2. -/
def Sys2Proof.Claims.scratchAt (x : State) (fmt row k : Nat) : FNum :=
  decodeFloat fmt (if fmtWidth fmt = 4 then scratchNat x (row + k / 2) 1 / 16 ^ (k % 2) % 16
    else scratchNat x (row + k * (fmtWidth fmt / 8)) (fmtWidth fmt / 8))

/-- A value of A at row `m` and stored K index `j` of repetition `r`: from scratch (10 R189), or the source accumulator's element
rounded into AFMT (10 R193); MMA16's step reads zero beyond its 16 (05 R105). -/
def Sys2Proof.Claims.valueA (x : State) (w : MWord) (g : MStep) (mode : Nat) (src : Acc) (r m j : Nat) : FNum :=
  let fmt := w.afmt.toNat
  if w.asrc = 0 then
    if j < g.ka then scratchAt x fmt (64 * w.aoff.toNat + 64 * w.apitch.toNat * m + g.ka * fmtWidth fmt / 8 * r) j else .zero false
  else
    let col := g.kd * r + j
    decodeFloat fmt (encodeFloat fmt mode (drawBits (drawOf x) mode r (64 * m + col)) (w.asat == 1) (decodeFloat 0 (accElem src m col)))

/-- A value of B at column `n`, stored either way (10 R189). -/
def Sys2Proof.Claims.valueB (x : State) (w : MWord) (g : MStep) (r n j : Nat) : FNum :=
  let fmt := w.bfmt.toNat
  let pitch := 64 * w.bpitch.toNat
  if g.kb ≤ j then .zero false
  else if w.bt = 1 then scratchAt x fmt (64 * w.boff.toNat + pitch * n + g.kb * fmtWidth fmt / 8 * r) j
  else scratchAt x fmt (64 * w.boff.toNat + pitch * (g.kb * r + j)) n

/-- The scale code of block `b` of row or column `i` (06 R121). -/
def Sys2Proof.Claims.scaleCode (x : State) (off : BitVec 14) (g : MStep) (r i b : Nat) : Nat :=
  scratchNat x (64 * off.toNat + 64 * (g.kd / 32) * r + g.kd / 32 * i + b) 1

/-- The value with its MX scale: NaN under the scale's NaN code (06 R120). -/
def Sys2Proof.Claims.withScale (mx : BitVec 1) (code : Nat) (y : FNum) : FNum :=
  if mx = 1 then (if code = 0xFF then .nan else numScale y ((code : Int) - 127)) else y

/-- The dense position of product `c` of a step: 4g + IDX0 or IDX1 of its group by the metadata of row or column `i` (10 R194). -/
def Sys2Proof.Claims.denseAt (entry : List Byte) (k i c : Nat) : Nat :=
  let v := natOf ((entry.drop (k / 4 * i)).take (k / 4)) / 16 ^ (c / 2)
  4 * (c / 2) + (if c % 2 = 0 then v % 4 else v / 4 % 4)

/-- The products of one step at element (m, n), in ascending k; a pruned position forms none (07 R129). -/
def Sys2Proof.Claims.stepProducts (x : State) (w : MWord) (g : MStep) (mode : Nat) (src : Acc) (entry : List Byte) (r m n : Nat) : List FNum :=
  (List.range (if w.spm = 0 then g.kd else g.k)).map fun c =>
    let d := if w.spm = 0 then c else denseAt entry g.k (if w.spm = 1 then m else n) c
    numMul (withScale w.mxe (scaleCode x w.sca g r m (d / 32)) (valueA x w g mode src r m (if w.spm = 1 then c else d)))
      (withScale w.mxe (scaleCode x w.scb g r n (d / 32)) (valueB x w g r n (if w.spm = 2 then c else d)))

/-- The exact sum of a step (07 R129): an exact zero is +0 unless every product is -0. -/
def Sys2Proof.Claims.stepSum (ps : List FNum) : FNum := ps.tail.foldl (fun a p => numAdd false a p) (ps.headD (.zero false))

/-- Whether a step trips its exponent bound (07 R131): the largest block scale, the formats' largest exponents, log2 of the
products formed, and one. -/
def Sys2Proof.Claims.stepTrips (x : State) (w : MWord) (g : MStep) (r m n : Nat) (sum : FNum) : Bool :=
  let block := fun b => ((scaleCode x w.sca g r m b : Int) - 127) + ((scaleCode x w.scb g r n b : Int) - 127)
  let top := if w.mxe = 1 then ((List.range (g.kd / 32)).map block).tail.foldl max (block 0) else 0
  match sum with
  | .fin _ mag e _ => mag != 0 && decide (top + emaxOf w.afmt.toNat + emaxOf w.bfmt.toNat + log2Up g.k + 1 < e + mag.log2)
  | _ => false

/-- The element written (07 R129, step 4): repetition 0 by ACC2, later ones accumulate; into an accumulator whose valid bit is clear the sum
as it stands, but NaN where FSCALE × 0 is NaN (10 R192, by the model's reading of it, log 61). -/
def Sys2Proof.Claims.stepWrite (w : MWord) (r : Nat) (valid : Bool) (old : Nat) (sum : FNum) : Nat :=
  let s := decodeFloat 0 (roundF32 sum)
  if valid = false then
    (if r = 0 ∧ w.acc2.toNat = 2 ∧ numMul (decodeFloat 0 w.fscale.toNat) (.zero false) = .nan then roundF32 .nan else roundF32 sum)
  else if r = 0 ∧ w.acc2.toNat = 0 then roundF32 sum
  else if r = 0 ∧ w.acc2.toNat = 2 then roundF32 (numAdd false (numMul (decodeFloat 0 w.fscale.toNat) (decodeFloat 0 old)) s)
  else roundF32 (numAdd false (decodeFloat 0 old) s)

/-- What a repetition reads as its metadata: the head entry of the word's queue. -/
def Sys2Proof.Claims.stepEntry (x : State) (w : MWord) : List Byte :=
  if w.spm = 0 then [] else (((mqOf x w.mqs.toNat).fifo.head?).map MqEntry.data).getD []

/-- Whether some element of the repetition trips a check that is on. -/
def Sys2Proof.Claims.repTrips (x : State) (w : MWord) (g : MStep) (mode : Nat) (src : Acc) (r : Nat) : Prop :=
  w.chk ≠ 0 ∧ ∃ m n, m < 64 ∧ n < 64 ∧ stepTrips x w g r m n (stepSum (stepProducts x w g mode src (stepEntry x w) r m n)) = true

/-- No ECC finds an error in what repetition `r` reads: no correctable one anywhere, none in its accumulators (10 R203, 17 R336). -/
def Sys2Proof.Claims.SoundReads (x : State) (w : MWord) (r : Nat) : Prop :=
  x.soft = [] ∧ (w.asrc = 1 → (readA x.me.regs (w.aoff.toNat / 1024)).err = .clean)
  ∧ (r ≠ 0 ∨ w.acc2 ≠ 0 → (readA x.me.regs w.cidx.toNat).err = .clean)

/-- A repetition that completes with nothing to count: its metadata, its scratch and its accumulators are good and no trap trips. -/
def Sys2Proof.Claims.RepFine (x : State) (w : MWord) (g : MStep) (mode : Nat) (src : Acc) (r : Nat) : Prop :=
  (w.spm ≠ 0 → (∀ e, (mqOf x w.mqs.toNat).fifo.head? = some e → e.failed = none) ∧ metaOk (stepEntry x w) g.k = true)
  ∧ badRows x (repRegions w g r) = none ∧ SoundReads x w r ∧ ¬ (w.chk = 2 ∧ repTrips x w g mode src r)

/-- What a repetition leaves: every element of C written, C valid, its suspect flag set where a check tripped, the metadata popped;
nothing else changed. -/
def Sys2Proof.Claims.RepDone (x : State) (w : MWord) (g : MStep) (mode : Nat) (src : Acc) (r : Nat) (u : State) : Prop :=
  ∃ a : Acc, a.valid = true ∧ a.err = .clean ∧ a.elems.length = 4096
    ∧ (a.suspect = true ↔ (readA x.me.regs w.cidx.toNat).suspect = true ∨ repTrips x w g mode src r)
    ∧ (∀ m n, m < 64 → n < 64 → a.elems.getD (64 * m + n) 0 = BitVec.ofNat 32
        (stepWrite w r (readA x.me.regs w.cidx.toNat).valid (accElem (readA x.me.regs w.cidx.toNat) m n) (stepSum (stepProducts x w g mode src (stepEntry x w) r m n))))
    ∧ u = (let y := mapRegs x fun q => writeA q w.cidx.toNat a
           if w.spm = 0 then y else mqPop y w.mqs.toNat)

/-- Repetitions `r` to `r + n - 1`, one after the other. -/
def Sys2Proof.Claims.RepsDone (w : MWord) (g : MStep) (mode : Nat) (src : Acc) : Nat → Nat → State → State → Prop
  | 0, _, x, u => x = u
  | n + 1, r, x, u => RepFine x w g mode src r ∧ ∃ y, RepDone x w g mode src r y ∧ RepsDone w g mode src n (r + 1) y u

/-- MMA, MMAS and MMA16 complete where their last repetition is fine (07 R129, R131; 10 R188-R194, R201): an A from an accumulator needs its rounding mode (else 0x0102); the
regions end inside scratch (else 0x0204); a compressed word waits for its metadata. Then each repetition writes all of C, one
repetition a step with the next one noted as the resume repetition; a bad group raises 0x0303 and a trap that trips 0x0606, C
unchanged. A word whose A is the accumulator it writes runs whole. -/
def Sys2Proof.Claims.MatrixProducts : Prop :=
  ∀ (mk : MWord → Instr) (half : Bool), (mk = .mma ∧ half = false) ∨ (mk = .mmas ∧ half = false) ∨ (mk = .mma16 ∧ half = true) →
  ∀ (w : MWord) (s t : State), issuedIn (mk w) s = some t →
    let x := settleStages t
    let g := mmaStep w half
    let n := w.aoff.toNat / 1024
    ((w.asrc = 1 ∧ roundMode x w.arnd.toNat = none) → exec (mk w) s = .next (raised (mk w) s x 0x0102 none))
    ∧ (∀ mode, (if w.asrc = 1 then roundMode x w.arnd.toNat else some 0) = some mode →
      (∀ o, regionCheck w g = some o → exec (mk w) s = .next (raised (mk w) s x 0x0204 (some (0xF000000000000000 + o))))
      ∧ (regionCheck w g = none → ∀ y, (if w.spm = 0 then (x, none) else mqFetch x w.mqs.toNat 1) = (y, none) →
        let src := readA y.me.regs n
        let r := y.me.rho
        ((w.asrc = 1 ∧ n = w.cidx.toNat) → ∀ u, RepsDone w g mode src (w.rep.toNat + 1) 0 y u →
          exec (mk w) s = .next (completed (mk w) s u .fall))
        ∧ (¬ (w.asrc = 1 ∧ n = w.cidx.toNat) → (w.spm ≠ 0 → ∀ e, (mqOf y w.mqs.toNat).fifo.head? = some e → e.failed = none) →
          ((w.spm ≠ 0 ∧ metaOk (stepEntry y w) g.k = false) → exec (mk w) s = .next (raised (mk w) s y 0x0303 none))
          ∧ ((w.spm ≠ 0 → metaOk (stepEntry y w) g.k = true) → badRows y (repRegions w g r) = none →
            SoundReads y w r → w.chk = 2 → repTrips y w g mode src r → exec (mk w) s = .next (raised (mk w) s y 0x0606 none))
          ∧ (RepFine y w g mode src r → ∃ u, RepDone y w g mode src r u ∧
            exec (mk w) s = .next (if w.rep.toNat ≤ r then completed (mk w) s u .fall
              else waiting (mk w) s { u with me := { u.me with rho := r + 1 } } .none)))))

/-- MZERO, MLOAD, MSTORE, MSCALE and MFLAG complete. MZERO clears an accumulator's flags (10 R196); MLOAD widens scratch into it, a NaN canonical, and MSTORE writes it back, higher
rows over lower ones (R197); MSCALE rounds FSCALE times each element (R198); MFLAG reads suspect and valid (R199).
A correctable error in what they read would be counted besides, an uncorrectable one in an accumulator raises 0x0601 (R203). -/
def Sys2Proof.Claims.AccumulatorWords : Prop :=
  ∀ (w : MWord) (s t : State),
    let a := readA t.me.regs w.cidx.toNat
    let bytes := fmtWidth w.afmt.toNat / 8
    let row := fun m => 64 * w.aoff.toNat + 64 * w.apitch.toNat * m
    let x := settleStages t
    let c := readA x.me.regs w.cidx.toNat
    (issuedIn (.mzero w) s = some t → ∃ b : Acc, exec (.mzero w) s =
      .next (completed (.mzero w) s (mapRegs t fun q => writeA q w.cidx.toNat b) .fall)
      ∧ b.valid = false ∧ b.suspect = false ∧ ∀ m n, accElem b m n = 0)
    ∧ (issuedIn (.mload w) s = some t →
      (∀ o, pastScratch (row 0) (64 * w.apitch.toNat) 64 (64 * bytes) = some o →
        exec (.mload w) s = .next (raised (.mload w) s x 0x0204 (some (0xF000000000000000 + o))))
      ∧ (row 63 + 64 * bytes ≤ 2 ^ 20 → badRows x [(row 0, 64 * w.apitch.toNat, 64, 64 * bytes)] = none → x.soft = [] → ∃ b : Acc,
        exec (.mload w) s = .next (completed (.mload w) s (mapRegs x fun q => writeA q w.cidx.toNat b) .fall)
        ∧ b.valid = true ∧ b.suspect = c.suspect
        ∧ ∀ m n, m < 64 → n < 64 → b.elems.getD (64 * m + n) 0 =
            BitVec.ofNat 32 (encodeFloat 0 0 0 false (scratchAt x w.afmt.toNat (row m) n))))
    ∧ (issuedIn (.mstore w) s = some t → StateInv x →
      (roundMode x w.arnd.toNat = none → exec (.mstore w) s = .next (raised (.mstore w) s x 0x0102 none))
      ∧ (∀ mode, roundMode x w.arnd.toNat = some mode → row 63 + 64 * bytes ≤ 2 ^ 20 → c.err = .clean → ∃ u : State,
        exec (.mstore w) s = .next (completed (.mstore w) s u .fall)
        ∧ u.me.regs = x.me.regs
        ∧ (∀ m n b, m < 64 → n < 64 → b < bytes →
            (∀ m', m < m' → m' < 64 → row m' + 64 * bytes ≤ row m + n * bytes + b ∨ row m + n * bytes + b < row m') →
            cellGet u.mem (scratchKey x.me.id (row m + n * bytes + b)) = BitVec.ofNat 8
              ((if w.afmt = 0 then accElem c m n
                else encodeFloat w.afmt.toNat mode (drawBits (drawOf x) mode 0 (64 * m + n)) (w.asat == 1)
                  (decodeFloat 0 (accElem c m n))) / 256 ^ b))
        ∧ (∀ k, (∀ m, m < 64 → k < scratchKey x.me.id (row m) ∨ scratchKey x.me.id (row m) + 64 * bytes ≤ k) →
            cellGet u.mem k = cellGet x.mem k)))
    ∧ (issuedIn (.mscale w) s = some t → roundMode t w.arnd.toNat = none →
      exec (.mscale w) s = .next (raised (.mscale w) s t 0x0102 none))
    ∧ (issuedIn (.mscale w) s = some t → ∀ mode, roundMode t w.arnd.toNat = some mode → a.err = .clean → ∃ b : Acc,
      exec (.mscale w) s = .next (completed (.mscale w) s (mapRegs t fun q => writeA q w.cidx.toNat b) .fall)
      ∧ b.valid = true ∧ b.suspect = a.suspect
      ∧ ∀ m n, m < 64 → n < 64 → b.elems.getD (64 * m + n) 0 = BitVec.ofNat 32
          (encodeFloat 0 mode (drawBits (drawOf t) mode 0 (64 * m + n)) false
            (numMul (decodeFloat 0 w.fscale.toNat) (decodeFloat 0 (accElem a m n)))))
    ∧ (issuedIn (.mflag w) s = some t →
      let v : Word := (if a.suspect then 1 else 0) + (if a.valid then 2 else 0)
      exec (.mflag w) s = .next (match t.me.form with
        | .logical => completed (.mflag w) s (setX t w.xd v) .fall
        | .slices => if (t.me.str.ch.getD (w.xd.toNat % 16) []).length < 16
            then completed (.mflag w) s (chanPush t (w.xd.toNat % 16) (.scalar v)) .fall
            else waiting (.mflag w) s t .queue))

/-- Matrix products and the words on accumulators (10 R188-R201). -/
def Obligations.MatrixWords : Prop := MatrixProducts ∧ AccumulatorWords

/-- An arrival comes before another: the earlier one, in one uncore cycle that of the lower source (15 R297). -/
def Sys2Proof.Claims.arrivesFirst (a b : Pending) : Prop :=
  a.cycle < b.cycle ∨ a.cycle = b.cycle ∧ (a.source < b.source ∨ a.source = b.source ∧ a.arrival < b.arrival)

/-- The host's submission and the acceptance of launches (15 R295, R297): a refused record is reported with its code, another waits
in its queue with the partition's next arrival; of the queued records and the pool's head, the one that arrived first is accepted, in
one uncore cycle that of the lower source, once that cycle is over, and receives the next number of its source. -/
def Sys2Proof.Claims.LaunchAcceptance : Prop :=
  (∀ (s : State) (part queue : Nat) (bs : List Byte) (p : Partition), partOf s part = some p → queue < 64 →
    ∃ u : State, exec (.launchQueueSubmit part queue bs) s = .next u ∧ u.me = s.me ∧ u.others = s.others ∧ u.mem = s.mem
    ∧ (∀ c, checkRecord s part bs (p.cfg.preQueues.getLsbD queue) = .error c → u.parts = s.parts
        ∧ ∃ e : EventMsg, u.events = s.events ++ [e] ∧ e.part = part ∧ e.launch = 0 ∧ e.first = c ∧ e.vec = fieldN bs 104 2)
    ∧ (∀ r, checkRecord s part bs (p.cfg.preQueues.getLsbD queue) = .ok r → u.events = s.events
        ∧ ∃ q, partOf u part = some q ∧ q.arrivals = p.arrivals + 1 ∧ q.pool = p.pool
          ∧ q.queues = p.queues ++ [{ arrival := p.arrivals, cycle := uncore s, source := queue, record := r }]))
  ∧ (∀ (s : State) (part : Nat) (p : Partition) (e : Pending), partOf s part = some p → e ∈ p.queues ++ p.pool.take 1 →
      (∀ f ∈ p.queues ++ p.pool.take 1, f = e ∨ arrivesFirst e f) → e.cycle < uncore s →
      ∃ (u : State) (q : Partition), exec (.launchAccept part e.source) s = .next u ∧ partOf u part = some q
      ∧ (e.source ≠ 64 → ∃ more, q.queues = (p.queues.filter fun f => f.arrival != e.arrival) ++ more)
      ∧ (e.source = 64 → q.pool = p.pool.tail ++ p.ring.take 1 ∧ q.ring = p.ring.drop 1)
      ∧ ∃ l ∈ u.launches, l.id = part * 2 ^ 64 + e.source * 2 ^ 56 + ((assoc p.seqs e.source).getD 0 + 1) ∧ l.part = part
          ∧ l.record = e.record ∧ l.arrival = e.arrival ∧ l.next = 0 ∧ l.bound = [] ∧ l.done = false)

/-- The walker binds a launch's next task ahead of the oldest undispatched one by at most 4,096: a see handle for each read template
with a current version, a fill handle on a new version for each write template (13 R271, R272, 15 R300). The choice of a cluster
dispatches a task or a whole crew, each with its serial and its handles (15 R302, R304). -/
def Sys2Proof.Claims.BindingAndDispatch : Prop :=
  (∀ (s : State) (id : Nat) (l : Launch), launchOf s id = some l → l.next < taskCount l.record →
    l.record.rtiles.length ≤ 8 →
    (∀ b, l.bound.head? = some b → l.next < b.serial + 4096) →
    ((l.record.rtiles ++ l.record.wtiles) = [] ∨ earlierBound s.launches l = true) →
    ∀ w, bindWrites (bindReads s l (walkAt l.record l.next) l.record.rtiles.zipIdx).1 l (walkAt l.record l.next)
        l.record.wtiles.zipIdx = some w → ∃ (u : State) (k : Launch) (b : Bound), exec (.taskBind id) s = .next u
      ∧ launchOf u id = some k ∧ k.next = l.next + 1 ∧ k.bound = l.bound ++ [b] ∧ b.serial = l.next
      ∧ (∀ x ∈ b.handles, x.2.fill = decide (8 ≤ x.1))
      ∧ (∀ x ∈ b.handles, x.1 < 8 → ∃ t, l.record.rtiles[x.1]? = some t
          ∧ ∃ v, (tileName (templateName t (walkAt l.record l.next))).bind (currentOf s l.part) = some v ∧ x.2.ver = v.id)
      ∧ u.me = s.me)
  ∧ (∀ (s : State) (cores : List Nat) (g : Nat) (l : Launch) (bs : List Bound), cores.head? = some g →
      chooseOn s (g / 8) = some (l, .start bs) → cores.length = bs.length → cores.Nodup →
      (∀ h ∈ cores, h / 8 = g / 8 ∧ freeCore s l h = true) → ∃ u : State, exec (.taskDispatch cores) s = .next u
      ∧ u.mem = s.mem
      ∧ (∀ (j h : Nat) (b : Bound), cores[j]? = some h → bs[j]? = some b →
          (coreOf u h).run = .starting ∧ (coreOf u h).task.launch = l.id ∧ (coreOf u h).task.part = l.part
          ∧ (coreOf u h).task.serial = b.serial ∧ (coreOf u h).task.pblock = l.record.pblock
          ∧ (coreOf u h).task.idx = (walkAt l.record b.serial).map (BitVec.ofNat 64) ∧ (coreOf u h).task.crew = s.crewNext)
      ∧ (∃ c ∈ u.crews, c.id = s.crewNext ∧ c.launch = l.id ∧ c.cluster = g / 8 ∧ c.members = bs.map Bound.serial)
      ∧ (∀ h, h ∉ cores → (coreOf u h) = coreOf s h)
      ∧ (∀ k, launchOf u l.id = some k → ∀ b ∈ bs, b ∉ k.bound))

/-- Launches submitted, accepted, bound and dispatched (13 R271, 15 R295, R297, R300-R304). -/
def Obligations.LaunchBinding : Prop := LaunchAcceptance ∧ BindingAndDispatch

/-- No core is listed twice among the others. -/
def Sys2Proof.Claims.CoresOnce (s : State) : Prop := (s.others.map Core.id).Nodup

/-- A task starts with its indices in x1 to x6, its serial in x7 and its PBLOCK in x8, VL 512, its limit in CYCLEFT, every slice at its
place for PC 0 and LSN 0, over scratch that reads zero where another context ran before; the dispatched tasks of its crew start with it,
and none before an earlier serial of its launch (02 R31, R32, 03 R54, R58); a launch whose tasks have all ended completes with its event
(15 R298); a granule that arrives is no longer missing (14 R279). -/
def Sys2Proof.Claims.TaskStartAndCompletion : Prop :=
  (∀ (s : State) (g : Nat) (l : Launch), (coreOf s g).run = .starting → launchOf s (coreOf s g).task.launch = some l →
    startsLater s (coreOf s g).task = false → StateInv s → CoresOnce s →
    (∀ k ∈ startersOf s (coreOf s g).task, k.task.bindErr = false ∧ Settled k) → ∃ u : State, exec (.taskStart g) s = .next u
    ∧ (∀ c ∈ startersOf s (coreOf s g).task,
       let k := coreOf u c.id
       k.run = .running ∧ (∀ d, d < 6 → readX k.regs (BitVec.ofNat 6 (d + 1)) = c.task.idx.getD d 0)
       ∧ readX k.regs 7 = BitVec.ofNat 64 c.task.serial ∧ readX k.regs 8 = c.task.pblock ∧ k.regs.h = c.regs.h
       ∧ k.csr.vl = 512 ∧ k.csr.cycleft = l.record.limit ∧ k.csr.seed = l.record.seed ∧ k.csr.gotbase = l.record.gotbase
       ∧ k.csr.trapvec = 0 ∧ k.csr.emuvec = 0 ∧ k.csr.faultrec = 0 ∧ k.form = .slices ∧ k.eng = .c
       ∧ (∀ x, kernelOf s l.part l.record.kernel.toNat = some x → k.text = x.kernel.units ∧ k.code = x.sliced.code
            ∧ k.anns = x.sliced.anns ∧ k.map = x.sliced.map)
       ∧ (∀ e, flowOf k e = sliceAt k Flow.entry e)
       ∧ ((∀ p, partOf s l.part = some p → c.lastCtx ≠ some p.ctx → ∀ o, o < 2 ^ 20 → cellGet u.mem (scratchKey c.id o) = 0)))
    ∧ (∀ a, (∀ c ∈ startersOf s (coreOf s g).task, a < scratchKey c.id 0 ∨ scratchKey c.id 0 + 2 ^ 20 ≤ a) →
        cellGet u.mem a = cellGet s.mem a))
  ∧ (∀ (s : State) (g : Nat), (coreOf s g).run ≠ .starting ∨ startsLater s (coreOf s g).task = true → exec (.taskStart g) s = .next s)
  ∧ (∀ (s : State) (id : Nat) (l : Launch), launchOf s id = some l → l.id = id →
      (l.done = false → l.exited + l.killed + l.cancelled = taskCount l.record → ∃ u : State,
        exec (.launchComplete id) s = .next u ∧ (launchOf u id).map Launch.done = some true ∧ u.me = s.me ∧ u.mem = s.mem
        ∧ (∀ r, l.record1 = some r → u.hostOut = s.hostOut ++ [.fault r])
        ∧ ∃ e : EventMsg, u.events = s.events ++ [e] ∧ e.part = l.part ∧ e.launch = id % 2 ^ 64 ∧ e.killed = l.killed
          ∧ e.cancelled = l.cancelled ∧ e.vec = l.record.evvec ∧ e.first = (match l.first with | some f => f.1 | none => 0))
      ∧ (¬ (l.done = false ∧ l.exited + l.killed + l.cancelled = taskCount l.record) → exec (.launchComplete id) s = .next s))
  ∧ (∀ (s : State) (g n : Nat) (e : Engine), ∃ u : State, exec (.granuleArrival g e n) s = .next u ∧ u.mem = s.mem
      ∧ coreOf u g = { coreOf s g with absent := (coreOf s g).absent.filter (fun a => a != (e, n)),
                                       weak := (coreOf s g).weak.filter fun a => a.1 != (e, n) })

/-- LOAD_CODE_OBJECT (04 R70, 14 R278): a malformed header refuses the object and every launch of it with 0x0A01, another object
version with 0x0A02; without room for a data object or the GOT nothing is submitted, the model's choice but for tile objects (log 9);
else every accepted kernel is sliced and recorded where it was put. -/
def Sys2Proof.Claims.CodeObjects : Prop :=
  ∀ (s : State) (part : Nat) (o : CodeObject) (p : Partition), partOf s part = some p →
    ∃ u : State, exec (.loadCodeObject part o) s = .next u
    ∧ (let h := objHeader o.image
      ((h.magic ≠ 0x314F594B ∨ h.reserved = true ∨ objectWhole o = false) →
        u.hostOut = s.hostOut ++ [.refused 0x0A01] ∧ u.kernels = s.kernels ∧ u.mem = s.mem
        ∧ u.events.map EventMsg.first = s.events.map EventMsg.first ++ o.launches.map fun _ => 0x0A01)
      ∧ (h.magic = 0x314F594B → h.reserved = false → objectWhole o = true → h.objver ≠ 1 →
        u.hostOut = s.hostOut ++ [.refused 0x0A02] ∧ u.kernels = s.kernels ∧ u.mem = s.mem
        ∧ u.events.map EventMsg.first = s.events.map EventMsg.first ++ o.launches.map fun _ => 0x0A02)
      ∧ (h.magic = 0x314F594B → h.reserved = false → objectWhole o = true → h.objver = 1 →
        let d := placeObjs s part o
        let g := takeGlobal d.1 part (8 * o.got.length) 64
        (∀ i, d.2[i]? = some none → (∀ j, j < i → d.2[j]? ≠ some none) →
          u.hostOut = s.hostOut ++ [.notPlaced part i] ∧ u.kernels = s.kernels ∧ u.parts.map Partition.queues = s.parts.map Partition.queues)
        ∧ ((∀ x ∈ d.2, x ≠ none) → g.2 = none → u.hostOut = s.hostOut ++ [.notPlaced part o.data.length] ∧ u.kernels = s.kernels
            ∧ u.parts.map Partition.queues = s.parts.map Partition.queues)
        ∧ ((∀ x ∈ d.2, x ≠ none) → g.2 ≠ none → ∀ (n a : Nat) (k : KernelEntry), o.dir[n]? = some k →
            (n, Except.ok a) ∈ (placeKernels g.1 part o).2 → ∃ x : Sliced, sliceKernel (kernelAt o k) = .ok x
              ∧ ({ part := part, addr := a, kernel := kernelAt o k, sliced := x } : Loaded) ∈ u.kernels)))

/-- Tasks that start, launches that complete, code that is loaded (02 R32, 14 R278, R279, 15 R298). -/
def Obligations.TasksAndCode : Prop := TaskStartAndCompletion ∧ CodeObjects

/-- A member of the crew on core `g` that has not been rebuilt for a stop. -/
def Sys2Proof.Claims.MateLeft (s : State) (g : Nat) (cause : SaveCause) : Prop :=
  ∃ k ∈ allCores s, k.id ≠ g ∧ k.task.launch = (coreOf s g).task.launch ∧ k.task.crew = (coreOf s g).task.crew
    ∧ (k.run = .running ∨ k.run = .starting) ∧ cause ∈ k.stops

/-- The core `g` alone holds a task of its crew. -/
def Sys2Proof.Claims.NoMate (s : State) (g : Nat) : Prop :=
  ∀ k ∈ allCores s, k.id = g ∨ k.task.launch ≠ (coreOf s g).task.launch ∨ k.task.crew ≠ (coreOf s g).task.crew

/-- Forced stops (15 R307-R309, 16 R322, 18 R344, R347, R360, R361): a debugger's halt is asked of the core; class 0 asks those of the
fewest victims that free enough cores, which are then the launch's (log 35, DEDUCED); the rebuild applies the first one asked, once the
frontier has passed a word whose gated act is done (02 R43): the task is saved with its cause and the core is free, with its crew once
every member has been rebuilt, or under a debugger halt stands on its core; the host has the image's record (log 24, DEDUCED); an
expired cycle limit takes 0x0701 at the frontier, before the stop. -/
def Sys2Proof.Claims.ForcedStops : Prop :=
  (∀ (s : State) (g : Nat), ∃ u : State, exec (.debugHalt g) s = .next u ∧ u.mem = s.mem ∧ u.saved = s.saved
    ∧ coreOf u g = (if (coreOf s g).run = .idle ∨ (coreOf s g).run = .exiting then coreOf s g
        else { coreOf s g with stops := insertStop .debugger (coreOf s g).stops }))
  ∧ (∀ (s : State) (id c : Nat) (l : Launch), launchOf s id = some l → l.record.cls = 0 → l.record.pre = true → CoresOnce s →
      l.handler = false → fitsSome s l = false → served s l = false → choosesLater s l = false → c ∈ clustersFor s l →
      (victimsFor s l c).isSome = true →
      ∃ (u : State) (k : Nat) (vs : List Victim), exec (.class0Preemption id) s = .next u ∧ k ∈ clustersFor s l
      ∧ victimsFor s l k = some vs ∧ u.reserved = s.reserved ∧ u.mem = s.mem ∧ u.saved = s.saved
      ∧ (let gs := vs.flatMap Victim.cores
         let mine := (gs ++ freeIn s l k).take (max gs.length (((pickOn s l k).map Pick.size).getD 9))
         u.claims = mine.map (·, id) ++ s.claims.filter fun r => r.2 != id && !mine.contains r.1)
      ∧ ∀ g ∈ vs.flatMap Victim.cores, (coreOf s g).run ≠ .exiting → (coreOf u g).stops = insertStop .class0 (coreOf s g).stops)
  ∧ (∀ (s : State) (l : Launch), launchOf s l.id = some l → l.handler = true → exec (.class0Preemption l.id) s = .next s)
  ∧ (∀ (s : State) (g : Nat) (cause : StopCause), (coreOf s g).run = .running → (coreOf s g).fault = none →
      frontier (coreOf s g) < (coreOf s g).gate → ∃ u : State, exec (.rebuild g cause) s = .next u ∧ coreOf u g = coreOf s g
      ∧ u.mem = s.mem ∧ u.saved = s.saved)
  ∧ (∀ (s : State) (g : Nat) (cause : StopCause), CoresOnce s → (coreOf s g).run = .running → (coreOf s g).fault = none →
      (coreOf s g).csr.cycleft ≠ 0 → (coreOf s g).gate ≤ frontier (coreOf s g) →
      (coreOf s g).stops.head? = some (stopOf cause) → ∃ u : State, exec (.rebuild g cause) s = .next u
      ∧ (∃ r : FaultRec, HostReply.fault r ∈ u.hostOut ∧ r.code = 0 ∧ r.slice = 7 ∧ r.taskid = (coreOf s g).task.taskid)
      ∧ (cause ≠ .debug → MateLeft s g (stopOf cause) → u.saved = s.saved ∧ (coreOf u g).run = .stopping (stopOf cause)
        ∧ (coreOf u g).stops = (coreOf s g).stops.tail ∧ (coreOf u g).task = (coreOf s g).task)
      ∧ (cause ≠ .debug → NoMate s g → ∃ v : Saved, u.saved = s.saved ++ [v] ∧ v.cause = stopOf cause ∧ v.raised = none
        ∧ v.core.task = { (coreOf s g).task with place := v.core.task.place } ∧ v.onCore = none ∧ (coreOf u g).run = .idle
        ∧ (cause = .evict → ∀ n h k, readH v.core.regs n ≠ .held h k)
        ∧ ((coreOf s g).form = .logical → Settled (coreOf s g) → (coreOf s g).eng = .c → (coreOf s g).flow.ended = false →
            v.core.regs.x = (coreOf s g).regs.x ∧ v.core.csr = (coreOf s g).csr ∧ v.core.flow = (coreOf s g).flow))
      ∧ (cause = .debug → u.saved = s.saved ∧ (coreOf u g).run = .halted 0 true
        ∧ (coreOf u g).task = { (coreOf s g).task with place := (coreOf u g).task.place }
        ∧ (coreOf u g).stops = (coreOf s g).stops.tail ∧ (coreOf u g).stepTo = none
        ∧ ((coreOf s g).form = .logical → Settled (coreOf s g) → (coreOf s g).eng = .c → (coreOf s g).flow.ended = false →
            (coreOf u g).regs = (coreOf s g).regs ∧ (coreOf u g).csr = (coreOf s g).csr ∧ (coreOf u g).flow = (coreOf s g).flow)))
  ∧ (∀ (s : State) (g : Nat), (¬ ((coreOf s g).run = .running ∧ (coreOf s g).csr.cycleft = 0
          ∧ (coreOf s g).gate ≤ frontier (coreOf s g)) →
        ∃ u : State, exec (.cycleLimitExpiry g) s = .next u ∧ coreOf u g = coreOf s g ∧ u.mem = s.mem ∧ u.saved = s.saved)
      ∧ ((coreOf s g).run = .running → (coreOf s g).csr.cycleft = 0 → (coreOf s g).gate ≤ frontier (coreOf s g) → ∃ r : Raise, r.code = 0x0701 ∧ r.lsn = frontier (coreOf s g)
        ∧ r.addr = none ∧ r.after = false
        ∧ exec (.cycleLimitExpiry g) s = .next (onCore g (fun t => takeFault t r false) s)))

/-- A saved task goes on (15 R308, 18 R353, R354): on the core assigned to it, with its registers, its position and its scratch, unless
its launch no longer dispatches there, which takes the assignment; one whose PC is no instruction is refused with 0x0A01. A task held
for 0x0201 becomes ready by the host's word, one halted on a core that failed by the debugger's. -/
def Sys2Proof.Claims.ImagesResumed : Prop :=
  ∀ (s : State) (l n : Nat) (v : Saved), savedOf s l n = some v →
    (∀ g, v.onCore = some g → (v.cause = .class0 ∨ v.release = true) → (coreOf s g).run = .idle →
      (s.saved.filter fun w => w.core.task.launch == l && w.core.task.crew == v.core.task.crew && resumesNow s w) = [v] →
      (mayResume s v g = false → ∃ u : State, exec (.taskResume l n g) s = .next u ∧ savedOf u l n = some { v with onCore := none }
        ∧ u.me = s.me ∧ u.mem = s.mem)
      ∧ (mayResume s v g = true → (isFirst v.core v.core.flow.pc.toNat = false ∨ v.sound = false) → ∃ u : State,
        exec (.taskResume l n g) s = .next u ∧ u.hostOut = s.hostOut ++ [.refused 0x0A01]
        ∧ savedOf u l n = some { v with onCore := none, release := false })
      ∧ (mayResume s v g = true → isFirst v.core v.core.flow.pc.toNat = true → v.sound = true → (v.deliver = false ∨ v.raised = none) →
        Settled v.core → ∃ u : State, exec (.taskResume l n g) s = .next u
        ∧ savedOf u l n = none ∧ (coreOf u g).run = .running ∧ (coreOf u g).regs = v.core.regs ∧ (coreOf u g).csr = v.core.csr
        ∧ (coreOf u g).task = { v.core.task with place := none } ∧ (coreOf u g).stepTo = v.core.stepTo ∧ (coreOf u g).regions = v.core.regions
        ∧ (v.core.form = .logical → (coreOf u g).flow = v.core.flow)
        ∧ (v.core.form = .slices → ∀ e, flowOf (coreOf u g) e = sliceAt v.core v.core.flow e)
        ∧ (StateInv s → Memory.wf v.scratch = true → ∀ o, o < 2 ^ 20 → cellGet u.mem (scratchKey g o) = cellGet v.scratch o)))
    ∧ (∀ d : Bool, ∃ u : State, exec (.hostFaultResume l n d) s = .next u ∧ u.me = s.me ∧ u.mem = s.mem
        ∧ savedOf u l n = some (if v.cause = .systemFault then { v with release := true, deliver := d } else v))
    ∧ (coreOfTask s l n = none →
      (v.cause = .debugger → ∃ u w : State, exec (.debugRelease l n) s = .next u ∧ exec (.debugSingleStep l n) s = .next w
        ∧ (savedOf u l n).map Saved.release = some true ∧ (savedOf w l n).map Saved.release = some true
        ∧ (savedOf w l n).map (fun x => x.core.stepTo) = some (some (v.core.flow.lsn + 1)))
      ∧ (v.cause = .debugger → ∀ e : ImageEdit,
        (headerEdit e = true → noTransit v.core = false →
          exec (.debugImageEdit l n e) s = .next { s with hostOut := s.hostOut ++ [.refused 0x0A01] })
        ∧ ((headerEdit e = false ∨ noTransit v.core = true) → ∃ (u : State) (w : Saved), exec (.debugImageEdit l n e) s = .next u
          ∧ savedOf u l n = some w ∧ w.cause = .debugger ∧ u.me = s.me ∧ (v.core.task.place = none → u.mem = s.mem)
          ∧ (∀ i x, e = .x i x → w.core = { v.core with regs := writeX v.core.regs i x } ∧ w.scratch = v.scratch)
          ∧ (∀ x, e = .pc x → w.core = { v.core with flow := { v.core.flow with pc := x } } ∧ w.scratch = v.scratch)
          ∧ (∀ o b, e = .scratch o b → o < 2 ^ 20 → w.core = v.core ∧ w.scratch = cellSet v.scratch o b)))
      ∧ (v.cause ≠ .debugger → ∀ e : ImageEdit, exec (.debugImageEdit l n e) s = .next s
        ∧ exec (.debugRelease l n) s = .next s ∧ exec (.debugSingleStep l n) s = .next s))

/-- A task under a debugger halt stands on its core (18 R360): a release lets it go on as it stands, a single step up to the next LSN; an
image whose PC is no instruction is refused with 0x0A01. The debugger edits the image, with its bytes where it has a place in the save area (log 68, DESIGN CHOICE), but
neither PC nor header while transit entries stand in it (log 23, DEDUCED). -/
def Sys2Proof.Claims.HaltedTasks : Prop :=
  ∀ (s : State) (l n tag : Nat) (sound : Bool) (c : Core), CoresOnce s → coreOfTask s l n = some c → c.run = .halted tag sound →
    ((isFirst c c.flow.pc.toNat = false ∨ sound = false) → ∀ i, (i = .debugRelease l n ∨ i = .debugSingleStep l n) → ∃ u : State,
      exec i s = .next u ∧ u.hostOut = s.hostOut ++ [.refused 0x0A01] ∧ coreOf u c.id = c ∧ u.mem = s.mem)
    ∧ (isFirst c c.flow.pc.toNat = true → sound = true → Settled c → ∀ i, (i = .debugRelease l n ∨ i = .debugSingleStep l n) →
      ∃ u : State, exec i s = .next u ∧ u.mem = s.mem
      ∧ (let k := coreOf u c.id
         k.run = .running ∧ k.regs = c.regs ∧ k.csr = c.csr ∧ k.task = { c.task with place := none } ∧ k.regions = c.regions
         ∧ k.stepTo = (if i = .debugSingleStep l n then some (c.flow.lsn + 1) else none)
         ∧ (c.form = .logical → k.flow = c.flow) ∧ (c.form = .slices → ∀ e, flowOf k e = sliceAt c c.flow e)))
    ∧ (∀ e : ImageEdit,
      (headerEdit e = true → noTransit c = false →
        exec (.debugImageEdit l n e) s = .next { s with hostOut := s.hostOut ++ [.refused 0x0A01] })
      ∧ ((headerEdit e = false ∨ noTransit c = true) → ∃ u : State, exec (.debugImageEdit l n e) s = .next u
        ∧ (∀ i x, e = .x i x → coreOf u c.id = { c with regs := writeX c.regs i x } ∧ (c.task.place = none → u.mem = s.mem))
        ∧ (∀ x, e = .pc x → coreOf u c.id = { c with flow := { c.flow with pc := x } } ∧ (c.task.place = none → u.mem = s.mem))
        ∧ (∀ o b, e = .scratch o b → o < 2 ^ 20 → coreOf u c.id = c
            ∧ (c.task.place = none → u.mem = cellSet s.mem (scratchKey c.id o) b))))

/-- A saved task goes on, and a halted one. -/
def Sys2Proof.Claims.SavedTasks : Prop := ImagesResumed ∧ HaltedTasks

/-- Forced stops, and what a saved task comes back to (15 R307-R309, 18 R347, R353, R360, R361). -/
def Obligations.StopsAndResumes : Prop := ForcedStops ∧ SavedTasks

/-- Evictions, releases and kills by the host (13 R273, 15 R296, R308): an eviction asks every running task of the partition to stop
and holds those saved; a release makes tasks ready again; a kill ends a task, a launch or a context wherever its tasks stand; a
launch held by policy 2 goes on with its saved task released. -/
def Obligations.HostControl : Prop :=
  (∀ (s : State) (part : Nat) (p : Partition), partOf s part = some p → ∃ u : State, exec (.partitionEviction part) s = .next u
    ∧ (partOf u part).map Partition.evicted = some true
    ∧ (∀ g, (coreOf s g).run = .running → (coreOf s g).task.part = part → SaveCause.evicted ∈ (coreOf u g).stops)
    ∧ (∀ v ∈ s.saved, v.core.task.part = part → (v.cause ≠ .debugger ∨ v.release = true) →
        ∃ w ∈ u.saved, w.core.task = v.core.task ∧ w.cause = .evicted))
  ∧ (∀ (s : State) (part : Nat) (p : Partition), partOf s part = some p → ∃ u : State, exec (.hostRelease part) s = .next u
    ∧ u.mem = s.mem ∧ (partOf u part).map Partition.evicted = some false
    ∧ (partOf u part).map Partition.suspended = some p.suspended
    ∧ (∀ v ∈ s.saved, v.core.task.part = part → v.cause = .evicted → p.evicted = true →
        ∃ w ∈ u.saved, w.core.task = v.core.task ∧ w.cause = v.cause ∧ w.release = true))
  ∧ (∀ (s : State) (l n : Nat) (c : Core), coreOfTask s l n = some c → c.run ≠ .exiting → CoresOnce s → ∃ u : State,
      exec (.hostKill (.task l n)) s = .next u ∧ (coreOf u c.id).run = .idle
      ∧ (launchOf u l).map Launch.killed = (launchOf s l).map fun k => k.killed + 1)
  ∧ (∀ (s : State) (l : Nat) (k : Launch), launchOf s l = some k → k.done = false → ∃ u : State,
      exec (.hostKill (.launch l)) s = .next u
      ∧ (∀ g, (coreOf s g).run ≠ .exiting → (coreOf u g).run ≠ .idle → (coreOf u g).task.launch ≠ l)
      ∧ (∀ v ∈ u.saved, v.core.task.launch ≠ l)
      ∧ (launchOf u l).map Launch.next = some (taskCount k.record) ∧ (launchOf u l).map Launch.bound = some [])
  ∧ (∀ (s : State) (part : Nat), ∃ u : State, exec (.hostKill (.context part)) s = .next u
      ∧ (∀ g, (coreOf s g).run ≠ .exiting → (coreOf u g).run ≠ .idle → (coreOf u g).task.part ≠ part)
      ∧ (∀ v ∈ u.saved, v.core.task.part ≠ part))
  ∧ (∀ (s : State) (l : Nat) (k : Launch), launchOf s l = some k → ∃ u : State, exec (.heldLaunchResume l) s = .next u
      ∧ (launchOf u l).map Launch.held = some false ∧ u.me = s.me ∧ u.mem = s.mem
      ∧ ∀ v ∈ s.saved, v.core.task.launch = l → v.cause = .policy2 → { v with release := true } ∈ u.saved)

/-- The change `c` of the state `s` published with a cause and a unit (20 R374, R379, R380): the version counts up, the record carries
TIME, CAUSE and UNIT and the changed bit alone; every context that has not acknowledged it, a suspended one too, has its window. -/
def Sys2Proof.Claims.Published (s u : State) (cause : Nat) (unit : Option UnitId) (c : MapChange) : Prop :=
  u.rmap.version = s.rmap.version + 1 ∧ u.rmap.time = s.time ∧ u.rmap.cause = cause ∧ u.rmap.unit = unit
  ∧ (∀ g b, c = .core g b → ∀ j, u.rmap.cores.getLsbD j = if j = g then b else s.rmap.cores.getLsbD j)
  ∧ (∀ d n b, c = .l2 d n b → ∀ j, u.rmap.l2.getLsbD j = if j = 48 * d + n then b else s.rmap.l2.getLsbD j)
  ∧ (∀ d n b, c = .bank d n b → ∀ j, u.rmap.banks.getLsbD j = if j = 48 * d + n then b else s.rmap.banks.getLsbD j)
  ∧ (∀ d n b, c = .channel d n b → ∀ j, u.rmap.channels.getLsbD j = if j = 96 * d + n then b else s.rmap.channels.getLsbD j)
  ∧ (∀ n b, c = .port n b → ∀ j, u.rmap.ports.getLsbD j = if j = n then b else s.rmap.ports.getLsbD j)
  ∧ (∀ d b, c = .damask d b → ∀ j, u.rmap.damask.getLsbD j = if j = d then b else s.rmap.damask.getLsbD j)
  ∧ u.rmap.aclk = (match c with | .clock f => f | _ => s.rmap.aclk)
  ∧ (∀ f j, c = .module f j → ∀ m, m ∈ u.rmap.gone ↔ (m ∈ s.rmap.gone ∧ m ≠ f) ∨ (j = false ∧ m = f))
  ∧ ((∀ g b, c ≠ .core g b) → (∀ d b, c ≠ .clusters d b) → u.rmap.cores = s.rmap.cores)
  ∧ ((∀ d n b, c ≠ .l2 d n b) → u.rmap.l2 = s.rmap.l2 ∧ u.rmap.homes = s.rmap.homes)
  ∧ (∀ p ∈ s.parts, p.acked ≤ s.rmap.version → p.window = none →
      ∃ q ∈ u.parts, q.cfg = p.cfg ∧ q.window = some (1000 * Config.ackWindow))

/-- Failures and servicing (01 R23, 18 R343, 20 R379-R383): a unit that fails leaves the map at once with cause 1, a core's task with it,
but a channel that holds pages only once they have moved, the model's choice (log 60); a channel taken out for retraining leaves with
cause 2 once it holds no page, one channel at a time, and returns with cause 3, a port likewise, a module with cause 6; a die whose
firmware is replaced first takes no new work, then leaves, one die at a time, the model's choice (log 42). A unit ID that names no unit
changes nothing. (Which changes are published, with which UNIT, is log 40, DEDUCED.) -/
def Sys2Proof.Claims.MapChanges : Prop :=
  ∀ s : State, s.stage = .ready →
    (∀ x : UnitId, x.module = s.fabric → unitExists x = true →
      (moves s (changeOf x false) = true ∨ x.kind = 0x0A ∨ x.kind = 0x0B) →
      ((x.kind = 5 → holdsPage s (96 * x.die + x.index) = false) → ∃ u : State, exec (.unitFailure x) s = .next u
        ∧ Published s u 1 (unitOfChange s (changeOf x false) (some x)) (changeOf x false)
        ∧ (x.kind = 1 → (coreOf u (x.index / 4)).run = .idle))
      ∧ (x.kind = 5 → holdsPage s (96 * x.die + x.index) = true → ∃ u : State, exec (.unitFailure x) s = .next u
        ∧ u.rmap = s.rmap ∧ u.me = s.me ∧ u.mem = s.mem ∧ u.parts = s.parts
        ∧ ∀ j, u.failing.getLsbD j = (s.failing.getLsbD j || decide (j = 96 * x.die + x.index))))
    ∧ (∀ x : UnitId, unitExists x = false → exec (.unitFailure x) s = .next s)
    ∧ (∀ (cause : Nat) (x : Option UnitId) (c : MapChange), causeOk s cause x c = true → ∃ u : State,
      exec (.mapPublish cause x c) s = .next u ∧ Published s u cause (unitOfChange s c x) c)
    ∧ (∀ (cause : Nat) (x : Option UnitId) (c : MapChange), causeOk s cause x c = false →
      exec (.mapPublish cause x c) s = .next s)
    ∧ (∀ (die ch : Nat) (ms : List PageMove),
      let x : UnitId := { kind := 5, module := s.fabric, die := die, index := ch }
      (moves s (.channel die ch false) = true → s.failing.getLsbD (96 * die + ch) = false → s.retrain ≠ none →
          exec (.gddr7ChannelRetraining die ch .leave ms) s = .next s)
      ∧ (moves s (.channel die ch false) = true → (s.failing.getLsbD (96 * die + ch) = true ∨ s.retrain = none) → ∀ t,
        (movePages s ms = (t, true) → holdsPage t (96 * die + ch) = false → ∃ u : State,
          exec (.gddr7ChannelRetraining die ch .leave ms) s = .next u
          ∧ Published t u (if t.failing.getLsbD (96 * die + ch) then 1 else 2) (some x) (.channel die ch false)
          ∧ (t.failing.getLsbD (96 * die + ch) = false → u.retrain = some (96 * die + ch)))
        ∧ (movePages s ms = (t, true) → holdsPage t (96 * die + ch) = true →
          exec (.gddr7ChannelRetraining die ch .leave ms) s = .next t)
        ∧ (movePages s ms = (t, false) → exec (.gddr7ChannelRetraining die ch .leave ms) s = .next t))
      ∧ (moves s (.channel die ch true) = true → ∃ u : State, exec (.gddr7ChannelRetraining die ch .back ms) s = .next u
          ∧ Published s u 3 (some x) (.channel die ch true) ∧ u.retrain ≠ some (96 * die + ch)))
    ∧ (∀ n : Nat,
      let x : UnitId := { kind := 6, module := s.fabric, die := n / 12, index := 4 * n }
      (moves s (.port n false) = true → inUse s (.port n false) = false → ∃ u : State,
        exec (.rurelPortRetraining n .leave) s = .next u ∧ Published s u 2 (some x) (.port n false) ∧ assoc u.ports n = none)
      ∧ (moves s (.port n true) = true → ∃ u : State, exec (.rurelPortRetraining n .back) s = .next u
        ∧ Published s u 3 (some x) (.port n true) ∧ (assoc u.ports n).map Port.grant = some 512))
    ∧ (∀ f : Nat,
      let x : UnitId := { kind := 0, module := f, die := 0, index := 0 }
      (moves s (.module f false) = true → ∃ u : State, exec (.moduleReplacement f .leave) s = .next u
        ∧ Published s u 6 (some x) (.module f false) ∧ ∀ v ∈ u.versions, v.state = .filling → v.holder ≠ .away f)
      ∧ (moves s (.module f true) = true → ∃ u : State, exec (.moduleReplacement f .back) s = .next u
        ∧ Published s u 6 (some x) (.module f true)))
    ∧ (∀ (die : Nat) (i : FwImage), (∃ q ∈ s.quiet, q.1 ≠ die ∨ q.2 ≠ 0) → exec (.dieFirmwareUpdate die .leave i) s = .next s)
    ∧ (∀ (die : Nat) (i : FwImage), die < 2 → (∀ q ∈ s.quiet, q.1 = die ∧ q.2 = 0) → ∃ u : State,
      exec (.dieFirmwareUpdate die .leave i) s = .next u
      ∧ (∃ q ∈ u.quiet, q.1 = die)
      ∧ ((∃ g ∈ liveOn s die, inUse s (.core g false) = true) → u.rmap = s.rmap ∧ u.mem = s.mem ∧
          ∀ g ∈ liveOn s die, (coreOf s g).run = .running → SaveCause.class0 ∈ (coreOf u g).stops)
      ∧ ((∀ g, g < 384 → g / 192 = die → coreLive s g = true → inUse s (.core g false) = false) →
          Published s u 2 (some { kind := 0, module := s.fabric, die := die, index := 0 }) (.clusters die false)
          ∧ ∀ g, g < 384 → u.rmap.cores.getLsbD g = (decide (g / 192 ≠ die) && s.rmap.cores.getLsbD g)))
    ∧ (∀ (die : Nat) (i : FwImage) (q : Nat × BitVec 384), die < 2 → s.quiet = [q] → q.1 = die → q.2 ≠ 0 → imageOk s i = true →
      ∃ u : State, exec (.dieFirmwareUpdate die .back i) s = .next u ∧ u.quiet = [] ∧ u.dieFw = i.digest ∧ u.flash.die = i
      ∧ Published s u 3 (some { kind := 0, module := s.fabric, die := die, index := 0 }) (.clusters die true)
      ∧ u.rmap.cores = s.rmap.cores ||| q.2)
    ∧ (∀ (die : Nat) (i : FwImage), imageOk s i = false → exec (.dieFirmwareUpdate die .back i) s = .next s)

/-- The window of a context runs out (20 R380): its tasks are asked to stop, 0x0702 goes to the host; the host's acknowledgement of
the current version ends the suspension. -/
def Sys2Proof.Claims.MapWindows : Prop :=
  ∀ (s : State) (part : Nat) (p : Partition), partOf s part = some p →
    (p.window = some 0 → ∃ (u : State) (q : Partition), exec (.ackWindowExpiry part) s = .next u ∧ partOf u part = some q
      ∧ q.window = none ∧ u.mem = s.mem
      ∧ (s.rmap.version ≤ p.acked → q.suspended = p.suspended ∧ u.events = s.events)
      ∧ (p.acked < s.rmap.version → q.suspended = true
        ∧ (∃ e : EventMsg, u.events = s.events ++ [e] ∧ e.code = 0x0702 ∧ e.part = part)
        ∧ (∀ g, (coreOf s g).run = .running → (coreOf s g).task.part = part → SaveCause.suspended ∈ (coreOf u g).stops)
        ∧ ∀ v ∈ u.saved, v.core.task.part = part → v.onCore = none))
    ∧ (p.window ≠ some 0 → exec (.ackWindowExpiry part) s = .next s)
    ∧ (∀ v : Nat, (p.suspended = false ∨ v ≠ s.rmap.version) → exec (.hostMapAck part v) s = .next s)
    ∧ (p.suspended = true → ∃ (u : State) (q : Partition), exec (.hostMapAck part s.rmap.version) s = .next u
      ∧ partOf u part = some q ∧ q.suspended = false ∧ q.window = none ∧ q.acked = max p.acked s.rmap.version ∧ u.mem = s.mem
      ∧ (∀ g, (coreOf u g).task.part = part → (coreOf u g).run ≠ .idle → SaveCause.suspended ∉ (coreOf u g).stops)
      ∧ ∀ v ∈ s.saved, v.core.task.part = part → v.cause = .suspended → ∃ w ∈ u.saved, w.core.task = v.core.task ∧ w.release = true)

/-- Changes of the resource map and their windows (20 R379-R383). -/
def Obligations.MapEvents : Prop := MapChanges ∧ MapWindows

/-- Clocks, heat and supply (01 R16-R22): heat and an input below 44 V step ACLK down by 250 MHz to no less than 1,000, recovery steps it
up again; a dip below 100 microseconds is counted, a longer one and a power failure lose every context and leave STATE failed; firmware
flash keeps its contents. Where the rule is silent, that no step is taken before the map has a version and that the last recovery step
ends the excursion, the statement is of the model's choice (log 62); the notices' numbers are too (log 45). (What a power failure leaves
is log 26, DEDUCED.) -/
def Sys2Proof.Claims.PowerEvents : Prop :=
  ∀ s : State,
    (1 ≤ s.rmap.version → 1250 ≤ s.rmap.aclk → ∃ u : State, exec .thermalClockStep s = .next u
      ∧ Published s u 4 none (.clock (s.rmap.aclk - 250)))
    ∧ (s.rmap.aclk < 1250 → exec .thermalClockStep s = .next s)
    ∧ (∃ u : State, exec .thermalShutdown s = .next u ∧ u.power.stopped = true
      ∧ u.hostOut = s.hostOut ++ [.boardNotice 3] ∧ u.me = s.me ∧ u.mem = s.mem ∧ u.parts = s.parts)
    ∧ (∀ v, 42000 ≤ v → v < 44000 → ∃ u : State, exec (.undervoltClockStep v) s = .next u ∧ u.power.noticed = true
      ∧ u.power.under = some (s.power.under.getD s.rmap.aclk)
      ∧ (s.power.noticed = false → HostReply.boardNotice 1 ∈ u.hostOut)
      ∧ u.rmap.aclk = (if 1 ≤ s.rmap.version ∧ 1250 ≤ s.rmap.aclk then s.rmap.aclk - 250 else s.rmap.aclk))
    ∧ (∀ v, (v < 42000 ∨ 44000 ≤ v) → exec (.undervoltClockStep v) s = .next s)
    ∧ (∀ f, s.power.under = some f → 1 ≤ s.rmap.version → s.rmap.aclk + 250 ≤ f → ∃ u : State,
      exec .undervoltRecoveryStep s = .next u ∧ Published s u 4 none (.clock (s.rmap.aclk + 250))
      ∧ (f < s.rmap.aclk + 500 → u.power.under = none ∧ u.power.noticed = false))
    ∧ (∀ f, s.power.under = some f → f < s.rmap.aclk + 250 → exec .undervoltRecoveryStep s =
        .next { s with power := { s.power with under := none, noticed := false } })
    ∧ (∀ n, n < 100 → ∃ u : State, exec (.voltageDip n) s = .next u ∧ u.me = s.me ∧ u.mem = s.mem ∧ u.power.noticed = true
      ∧ assoc u.hostCnt 1 = some ((assoc s.hostCnt 1).getD 0 + 1))
    ∧ (∀ i : Instr, ((∃ n, 100 ≤ n ∧ i = .voltageDip n) ∨ (i = .powerFailure ∧ s.power.on = true)) → ∃ u : State,
      exec i s = .next u ∧ u.stage = .failed ∧ u.power.failed = true ∧ u.parts = [] ∧ u.saved = [] ∧ u.launches = []
      ∧ u.mem = s.mem ∧ u.flash = { s.flash with booted := none } ∧ u.hostOut = s.hostOut ++ [.boardNotice 4])
    ∧ (∀ v, 54000 < v → v ≤ 56000 → ∃ u : State, exec (.overvoltageNotify v) s = .next u ∧ u.power.overNote = true
      ∧ u.hostOut = s.hostOut ++ (if s.power.overNote then [] else [.boardNotice 2]) ∧ u.me = s.me ∧ u.mem = s.mem)
    ∧ (∀ v, v ≤ 54000 → exec (.overvoltageNotify v) s = .next { s with power := { s.power with overNote := false } })
    ∧ (∃ u : State, exec .powerRemoval s = .next u ∧ u.power.on = false ∧ u.parts = [] ∧ u.mem = []
      ∧ u.flash = { s.flash with booted := none, boots := s.flash.boots + 1 })

/-- MOD_RESET_RELEASE (22 R403-R406): the module comes up step by step. The boot ROM runs on a management core that passes; with none
STATE is failed. With a valid image in a slot the better one boots, with none, or by the board's strap, the recovery image, on one
management core and one port. Self-test takes what fails out of the map; without a management core the module stays out of READY. Version
1 of the map is published with cause 7, the die firmware, if valid, is started (what happens if it is not is the model's choice, log 62),
and STATE is ready; the anti-rollback counter follows what has booted. FIRMWARE_SLOT_WRITE fills the slot that did not boot. -/
def Sys2Proof.Claims.BringUp : Prop :=
  (∀ (s : State) (bootsel : Bool) (tests : List SelfTest) (lat : List Byte) (rom : BitVec 8),
    let b : Machine.BringUp := { bootsel := bootsel, tests := tests, lat := lat, romOk := rom, map := none }
    (s.power.on = true → s.stage = .reset → s.power.stopped = false →
      exec (.modResetRelease bootsel tests lat rom) s = .next { s with stage := .boot, bring := some b })
    ∧ (s.power.on = true → (s.stage ≠ .reset ∨ s.power.stopped = true) → exec (.modResetRelease bootsel tests lat rom) s = .next s)
    ∧ (s.power.on = false → ∃ u : State, exec (.modResetRelease bootsel tests lat rom) s = .next u ∧ u.stage = .boot ∧ u.bring = some b
      ∧ u.power.on = true ∧ u.parts = [] ∧ u.mem = [] ∧ u.flash = { s.flash with booted := none }))
  ∧ (∀ (s : State) (p : Power) (b : Machine.BringUp), p.on = true → p.failed = false → s.sched = [] → s.inbox = [] → s.bring = some b →
      stepFrom p s = .next (bringStep s b))
  ∧ (∀ (s : State) (b : Machine.BringUp), s.stage = .boot →
      let u := bringStep s b
      let none_ := ∀ i, (s.flash.slotA = some i ∨ s.flash.slotB = some i) → imageOk s i = false
      (b.romOk = 0 → u.stage = .failed ∧ u.bring = none)
      ∧ (b.romOk ≠ 0 → (b.bootsel = true ∨ none_) → u.stage = .recovery ∧ u.bring = none ∧ u.flash.booted = none ∧ u.rmap.version = 0
          ∧ u.rmap.cores = 0 ∧ (∀ i j, u.rmap.mgmt.getLsbD i = true → u.rmap.mgmt.getLsbD j = true → i = j)
          ∧ (∀ i j, u.rmap.ports.getLsbD i = true → u.rmap.ports.getLsbD j = true → i = j) ∧ u.report = foundHere s b.tests)
      ∧ (b.romOk ≠ 0 → b.bootsel = false → ¬ none_ → u.stage = .selftest ∧ u.bring = s.bring ∧ ∃ (n : Bool) (i : FwImage),
          u.flash.booted = some n ∧ (if n then s.flash.slotB else s.flash.slotA) = some i ∧ imageOk s i = true
          ∧ ∀ j, (s.flash.slotA = some j ∨ s.flash.slotB = some j) → imageOk s j = true → j.secver.toNat ≤ i.secver.toNat))
  ∧ (∀ (s : State) (b : Machine.BringUp), s.stage = .selftest → b.map = none →
      let u := bringStep s b
      let mg := (testedMap s b.tests).mgmt &&& b.romOk
      u.report = foundHere s b.tests
      ∧ (assoc u.hostCnt 2).getD 0 = (assoc s.hostCnt 2).getD 0 + (foundHere s b.tests).length
      ∧ (mg = 0 → u.stage = .failed ∧ u.bring = none)
      ∧ (mg ≠ 0 → ∃ m : RMap, u.bring = some { b with map := some m } ∧ u.stage = .selftest ∧ m.mgmt = mg
        ∧ (∀ t ∈ foundHere s b.tests, t.unit.kind = 1 → m.cores.getLsbD (t.unit.index / 4) = false)
        ∧ (∀ g, g < 384 → (∀ t ∈ foundHere s b.tests, t.unit.kind = 1 → t.unit.index / 4 ≠ g) → mg.toNat / 16 ^ (g / 192) % 16 ≠ 0 →
            m.cores.getLsbD g = true)
        ∧ (∀ g, g < 384 → mg.toNat / 16 ^ (g / 192) % 16 = 0 → m.cores.getLsbD g = false)))
  ∧ (∀ (s : State) (b : Machine.BringUp) (m : RMap), s.stage = .selftest → b.map = some m → s.rmap.version = 0 →
      let u := bringStep s b
      (imageOk s s.flash.die = false → u.stage = .failed ∧ u.bring = none)
      ∧ (imageOk s s.flash.die = true → u.stage = .selftest ∧ u.bring = s.bring ∧ u.rmap.version = 1 ∧ u.rmap.cause = 7
        ∧ u.rmap.unit = none ∧ u.rmap.time = s.time ∧ u.rmap.cores = m.cores ∧ u.rmap.l2 = m.l2 ∧ u.dieFw = s.flash.die.digest
        ∧ (∀ x ∈ u.rmap.lat, 1 ≤ x.toNat ∧ x.toNat ≤ 254)
        ∧ (∀ d i, d < 2 → i < 4096 → liveSlices m.l2 d ≠ [] →
            ∃ j, m.l2.getLsbD (48 * d + j) = true ∧ u.rmap.homes.getD (4096 * d + i) 0 = BitVec.ofNat 8 j)
        ∧ (∀ n, n < 24 → m.ports.getLsbD n = true → assoc u.ports n = some trained)))
  ∧ (∀ (s : State) (b : Machine.BringUp) (m : RMap), s.stage = .selftest → b.map = some m → s.rmap.version ≠ 0 →
      let u := bringStep s b
      u.stage = .ready ∧ u.bring = none ∧ u.rmap = s.rmap ∧ u.flash.floor = max s.flash.floor u.flash.secver
      ∧ ∀ i, (s.flash.booted = some true ∧ s.flash.slotB = some i ∨ s.flash.booted = some false ∧ s.flash.slotA = some i) →
          u.flash.secver = i.secver.toNat)
  ∧ (∀ (s : State) (i : FwImage), (s.stage = .ready ∨ s.stage = .recovery) → ∃ u : State,
      exec (.firmwareSlotWrite i) s = .next u ∧ u.me = s.me ∧ u.mem = s.mem ∧ u.flash.booted = s.flash.booted
      ∧ (s.flash.booted = some false → u.flash.slotB = some i ∧ u.flash.slotA = s.flash.slotA)
      ∧ (s.flash.booted = some true → u.flash.slotA = some i ∧ u.flash.slotB = s.flash.slotB))

/-- Clocks, supply and bring-up (01 R16-R22, 22 R403-R406). -/
def Obligations.PowerAndBringUp : Prop := PowerEvents ∧ BringUp

/-- Management (17 R328, R331, R332, R336, R337, R340; 22 R407, R408; 24 R412): counters that a read clears, the error-injection word and
what its register refuses, the attestation report, the scrub; a partition of unowned units is created over zeroed storage and ends with
everything that is its own; a resource moves once no task of the source is on it; a translation is withdrawn once no access that used it
is under way; until then the command is not complete, and is not lost. (The places of the registers are log 21, DESIGN CHOICE; a
partition's configuration is checked as log 41 says, DEDUCED.) -/
def Obligations.Management : Prop :=
  ∀ s : State,
    (∀ (part n : Nat) (p : Partition), partOf s part = some p → n < 8 → ∃ (u : State) (q : Partition),
      exec (.errorCounterRead part n) s = .next u ∧ u.hostOut = s.hostOut ++ [.counter part n (p.counters.getD n 0)]
      ∧ partOf u part = some q ∧ q.counters.getD n 0 = 0 ∧ (∀ k, k ≠ n → q.counters.getD k 0 = p.counters.getD k 0) ∧ u.mem = s.mem)
    ∧ (∀ n, ∃ u : State, exec (.hostErrorCounterRead n) s = .next u ∧ assoc u.hostCnt n = none
      ∧ u.hostOut = s.hostOut ++ [.hostCounter n ((assoc s.hostCnt n).getD 0)] ∧ u.mem = s.mem)
    ∧ (∀ n, ((assoc s.marks n = some .uncorrectable ∨ assoc s.marks n = some .badTag) → ∃ u : State,
          exec (.patrolScrub n) s = .next u ∧ assoc u.hostCnt 3 = some ((assoc s.hostCnt 3).getD 0 + 1) ∧ u.mem = s.mem)
        ∧ (assoc s.marks n = none → n ∈ s.soft → ∃ u : State,
          exec (.patrolScrub n) s = .next u ∧ assoc u.hostCnt 3 = some ((assoc s.hostCnt 3).getD 0 + 1) ∧ u.mem = s.mem)
        ∧ (assoc s.marks n = none ∧ n ∉ s.soft ∨ assoc s.marks n = some .poison ∨ assoc s.marks n = some .cache →
          exec (.patrolScrub n) s = .next s))
    ∧ (∀ v : Word, (s.stage = .ready → errinjOk v = true → exec (.errinjWrite v) s = .next { s with errinj := v, errCount := 0 })
        ∧ (s.stage = .ready → errinjOk v = false →
            exec (.errinjWrite v) s = .next { s with hostOut := s.hostOut ++ [.refused 0x0202] })
        ∧ (s.stage ≠ .ready → exec (.errinjWrite v) s = .next s)
        ∧ (∀ off, exec (.mgmtRegisterWrite .host 6 off v) s = if off = 0 then exec (.errinjWrite v) s else .next s)
        ∧ (∀ (w : MgmtWriter) (block off : Nat), (block ≤ 2 ∨ block = 5 ∨ (block ≤ 7 ∧ ∃ p, w = .virtualFunction p)) →
            exec (.mgmtRegisterWrite w block off v) s = .next { s with hostOut := s.hostOut ++ [.refused 0x0202] }))
    ∧ (∀ (part : Nat) (p : Partition) (nonce : BitVec 256), partOf s part = some p → ∃ r sig key ksig : List Byte,
        exec (.attestationRequest part nonce) s = .next { s with hostOut := s.hostOut ++ [.attestation r sig key ksig] }
        ∧ r.length = 160 ∧ r.take 32 = bytesOf 32 nonce.toNat ∧ (r.drop 48).take 8 = bytesOf 8 s.rmap.version
        ∧ (r.drop 88).take 32 = bytesOf 32 s.dieFw.toNat ∧ (r.drop 152).take 4 = bytesOf 4 part ∧ r.drop 156 = bytesOf 4 0
        ∧ sig.length = 3309 ∧ key.length = 1952 ∧ ksig.length = 3309)
    ∧ (∀ c : PartConfig, s.stage = .ready → configOk s c = true → ∃ (u : State) (q : Partition),
      exec (.partitionCreate c) s = .next u ∧ u.parts = s.parts ++ [q] ∧ q.cfg = c ∧ q.ctx = s.ctxNext ∧ u.ctxNext = s.ctxNext + 1
      ∧ q.acked = s.rmap.version ∧ q.queues = []
      ∧ q.pool = [] ∧ q.ring = [] ∧ q.counters = noPart.counters
      ∧ (∀ r ∈ c.ranges, ∀ o, o < Config.rangeBytes → cellGet u.mem (gddrKey r o) = 0)
      ∧ (∀ b ∈ c.banks, ∀ o, o < Config.bankBytes → cellGet u.mem (stackKey b o) = 0))
    ∧ (∀ c : PartConfig, configOk s c = false → exec (.partitionCreate c) s = .next s)
    ∧ (∀ (part : Nat) (p : Partition), partOf s part = some p → ∃ u : State, exec (.partitionEnd part) s = .next u
      ∧ partOf u part = none ∧ (∀ l ∈ u.launches, l.part ≠ part) ∧ (∀ k ∈ u.kernels, k.part ≠ part)
      ∧ (∀ v ∈ u.versions, v.part ≠ part) ∧ (∀ m ∈ u.mailboxes, m.1.1 ≠ part) ∧ (∀ e ∈ u.tlb, e.part ≠ part)
      ∧ (∀ h ∈ u.homes, h.desc.part ≠ part))
    ∧ (∀ (r : Resource) (src dst : Nat) (p q : Partition), partOf s src = some p → partOf s dst = some q → src ≠ dst →
      (onResource s src r = true → exec (.resourceMove r src dst) s = .next s)
      ∧ (onResource s src r = false → namesResource p.cfg r = true → ∃ (u : State) (p' q' : Partition),
        exec (.resourceMove r src dst) s = .next u ∧ partOf u src = some p' ∧ partOf u dst = some q'
        ∧ namesResource p'.cfg r = false ∧ namesResource q'.cfg r = true
        ∧ ((∀ x ∈ s.parts, x.handler = none) → ∀ n, r = .bank n → ∀ o, o < Config.bankBytes → cellGet u.mem (stackKey n o) = 0)))
    ∧ (∀ part lo hi : Nat, ∃ u : State, exec (.translationInvalidate part lo hi) s = .next u
      ∧ (HostReply.invalidated part lo hi ∈ u.hostOut → HostReply.invalidated part lo hi ∉ s.hostOut →
          ∀ e ∈ u.tlb, e.part = part → hi < e.va ∨ e.va + e.size ≤ lo)
      ∧ ((∀ g, (coreOf s g).run = .idle ∨ (coreOf s g).task.part ≠ part) → CoresOnce s →
          u.hostOut = s.hostOut ++ [.invalidated part lo hi])
      ∧ (HostReply.invalidated part lo hi ∈ u.hostOut ∨ (part, lo, hi) ∈ u.invals))

/-- A port takes a flit (21 R385-R387): one with a bad check or KIND is answered by NAK, one out of sequence dropped; one in sequence
gives its credit and, with its last flit, its packet; credit beyond 512 fails the port; a NAK replays the buffer, the 16th time that one
flit is replayed the port fails, as does one with no progress for 1 ms. A failed port leaves the map with cause 1 and loses its buffer;
bad checks and failed ports count at host level (17 R337). A port sends the next flit against credit; without credit it goes on with idle
flits, which also carry a grant, NAK or ACK that it owes (R387). (A port that has come out of training, and when a NAK is answered, are
log 44's, DEDUCED.) -/
def Sys2Proof.Claims.LinkFlits : Prop :=
  (∀ (s : State) (n : Nat) (p : Port) (f : Flit), assoc s.ports n = some p → ∃ u : State, exec (.flitReceive n f) s = .next u
    ∧ ((f.crcOk = false ∨ 3 ≤ f.kind) → assoc u.ports n = some { p with nak := true } ∧ u.inbox = s.inbox ∧ u.mem = s.mem
        ∧ assoc u.hostCnt 4 = some ((assoc s.hostCnt 4).getD 0 + 1))
    ∧ (f.crcOk = true → f.kind < 3 → f.seq ≠ p.got + 1 → u = s)
    ∧ (f.crcOk = true → f.kind < 3 → f.seq = p.got + 1 →
      (p.credit + f.cred ≤ 512 → f.nak = false → ∃ q, assoc u.ports n = some q ∧ q.got = f.seq ∧ q.credit = p.credit + f.cred
        ∧ q.owes = true ∧ q.grant = (if f.kind = 0 then p.grant else p.grant + 1) ∧ q.next = p.next ∧ q.sending = p.sending
        ∧ (∃ k, q.replay = p.replay.drop k)
        ∧ ((∀ k, f.packet = some k → k.src ≠ s.fabric) → u.inbox = s.inbox ++ f.packet.toList)
        ∧ (∀ k, f.packet = some k → k.src = s.fabric → u.inbox = s.inbox) ∧ u.wire = s.wire ∧ u.mem = s.mem)
      ∧ (p.credit + f.cred ≤ 512 → f.nak = true → (∀ g ∈ p.replay, g.1.seq ≠ f.ack ∧ g.2 + 1 < 16) → p.replay ≠ [] →
          (∃ q, assoc u.ports n = some q ∧ q.replay = p.replay.map (fun g => (g.1, g.2 + 1)) ∧ q.credit = p.credit + f.cred)
          ∧ u.wire = s.wire ++ p.replay.map fun g => (n, g.1))
      ∧ (512 < p.credit + f.cred → assoc u.ports n = none)
      ∧ (f.nak = true → (∀ g ∈ p.replay, g.1.seq ≠ f.ack) → (∃ g ∈ p.replay, 16 ≤ g.2 + 1) → assoc u.ports n = none)))
  ∧ (∀ (s : State) (n : Nat) (p : Port), assoc s.ports n = some p → portStuck s p = false → exec (.portFailure n) s = .next s)
  ∧ (∀ (s : State) (n : Nat) (p : Port), assoc s.ports n = some p → portStuck s p = true → ∃ u : State, exec (.portFailure n) s = .next u
    ∧ assoc u.ports n = none ∧ assoc u.hostCnt 4 = some ((assoc s.hostCnt 4).getD 0 + 1)
    ∧ (s.stage = .ready → u.rmap.version = s.rmap.version + 1 ∧ u.rmap.cause = 1 ∧ u.rmap.ports.getLsbD n = false
        ∧ u.rmap.unit = some { kind := 6, module := s.fabric, die := n / 12, index := 4 * n })
    ∧ (s.stage ≠ .ready → u.rmap = s.rmap))
  ∧ (∀ (s : State) (n : Nat) (f : Flit), assoc s.ports n = none → exec (.flitReceive n f) s = .next s ∧ exec (.portFailure n) s = .next s)
  ∧ (∀ (s : State) (n : Nat) (p : Port), assoc s.ports n = some p → p.replay.length < 2048 →
      (∀ f rest, 0 < p.credit → p.sending = f :: rest →
        let g : Flit := { f with seq := p.next, ack := p.got, nak := p.nak, cred := min 255 p.grant }
        (portSends s n).wire = s.wire ++ [(n, g)] ∧ ∃ q, assoc (portSends s n).ports n = some q ∧ q.credit = p.credit - 1
          ∧ q.sending = rest ∧ q.next = p.next + 1 ∧ q.replay = p.replay ++ [(g, 0)] ∧ q.nak = false ∧ q.grant = p.grant - min 255 p.grant)
      ∧ ((p.credit = 0 ∨ p.sending = [] ∧ (0 < p.grant ∨ p.nak = true ∨ p.owes = true)) → ∃ g : Flit, g.kind = 0 ∧ g.packet = none
        ∧ g.seq = p.next ∧ g.ack = p.got ∧ g.nak = p.nak ∧ g.cred = min 255 p.grant
        ∧ (portSends s n).wire = s.wire ++ [(n, g)] ∧ ∃ q, assoc (portSends s n).ports n = some q ∧ q.credit = p.credit
          ∧ q.sending = p.sending ∧ q.next = p.next + 1 ∧ q.replay = p.replay ++ [(g, 0)]))

/-- A packet is discarded (17 R338, 21 R388-R390): its TYPE is not its body's, a reserved field is set, its STAMP is older than 2 ms,
or no partition is registered under its FPID; or it comes from another module and its tag was not made under the key that the
partition holds in the slot of its epoch (what a module sends to itself passes no port, log 30). -/
def Sys2Proof.Claims.Discarded (s : State) (p : Packet) : Prop :=
  p.ptype ≠ typeOf p.body ∨ p.reserved = true ∨ p.stamp + 2000000 < s.time
  ∨ (∀ q, partByFpid s p.fpid = some q →
      p.src ≠ s.fabric ∧ (p.tagOk = false ∨ (if p.epoch then q.key1 else q.key0) ≠ some p.key))

/-- A packet event: one for another module goes on its way unless its header does not stand or it is too old, one that is discarded is counted at host level, another does what `P`
says for its partition. -/
def Sys2Proof.Claims.Takes (mk : Packet → Instr) (b : PacketBody) (P : State → Packet → Partition → State → Prop) : Prop :=
  ∀ (s : State) (p : Packet), p.body = b → p ∉ s.parkedReq →
    (p.dst ≠ s.fabric → (headerOk s p = true → exec (mk p) s = .next { s with outbox := s.outbox ++ [p] })
      ∧ (headerOk s p = false → exec (mk p) s = .next (hostBump s 0)))
    ∧ (p.dst = s.fabric → Discarded s p → exec (mk p) s = .next (hostBump s 0))
    ∧ (p.dst = s.fabric → ¬ Discarded s p → ∀ q, partByFpid s p.fpid = some q →
        ∃ u : State, exec (mk p) s = .next u ∧ P s p q u)

/-- The answer to a packet, sent by no task, from the die that the packet was for. -/
def Sys2Proof.Claims.answered (t : State) (q : Partition) (p : Packet) (b : PacketBody) : State :=
  sendFrom t p.dstDie q.cfg.part (2 ^ 128) p.src p.srcDie p.xid b

/-- The mark of a packet's transfer. -/
def Sys2Proof.Claims.markAt (s : State) (p : Packet) : Option XMark := s.xmarks.find? fun m => m.src == p.src && m.xid == p.xid

/-- Accesses of other modules at their home (11 R219, R226, 13 R274): a read is answered with its bytes or a code, one of a see
handle on a version still FILLING parks, its fill handle reads it; a store is applied once, after the store its sender sent before it (log 67, DESIGN CHOICE), and acknowledged; an atomic acts in one step and answers the old value; an answer
reaches the core that waits for it. -/
def Sys2Proof.Claims.PacketAccesses : Prop :=
  (∀ (a n : Nat) (via : Option Nat) (fill : Bool), Takes .readRequest (.readRequest a n via fill) fun s p q u =>
    match via with
    | none => (∀ t bs, pathRead s q a n = (t, some bs) → u = answered t q p (.readResponse bs none))
        ∧ (∀ t, pathRead s q a n = (t, none) → ∃ c, u = answered t q p (.readResponse [] (some c)))
    | some v => (versionAt s q v = none → u = answered s q p (.readResponse [] (some 0x0401)))
        ∧ (∀ w, versionAt s q v = some w → (2 ^ w.k < a + n → u = answered s q p (.readResponse [] (some 0x0204)))
          ∧ (a + n ≤ 2 ^ w.k →
            (w.state = .filling → fill = false → u = { s with parkedReq := s.parkedReq ++ [p] })
            ∧ (w.state = .abandoned → u = answered s q p (.readResponse [] (some 0x0401)))
            ∧ ((w.state = .sealed ∨ w.state = .filling ∧ fill = true) → s.marks = [] → s.soft = [] → u = answered s q p
                (.readResponse ((runs a n).flatMap fun r => cellsGet s.mem (versionKey v r.1) r.2) none)))))
  ∧ (∀ (bs : List Byte) (c : Option Nat), Takes .readResponse (.readResponse bs c) fun s p q u =>
      (∀ got, s.me.wait = .fabric got p.xid none → s.me.task.part = q.cfg.part →
        u.me.wait = .fabric got p.xid (some (match c with | none => .bytes bs | some e => .refused e)))
      ∧ u.mem = s.mem ∧ u.me.regs = s.me.regs)
  ∧ (∀ (a : Nat) (bs : List Byte) (via : Option Nat), Takes .writePacket (.write a bs via) fun s p q u =>
      (((markAt s p).map XMark.bad = some false) → u = answered s q p (.ack p.xid 0 none false))
      ∧ ((markAt s p).map XMark.bad ≠ some false → inOrder s p = false → u = s)
      ∧ ((markAt s p).map XMark.bad ≠ some false → inOrder s p = true → ∀ t ks, writeKeysOf s q via a bs.length = (t, ks) →
        (ks = none → u = answered (markRefused t p.src p.xid) q p (.ack p.xid 0 none true))
        ∧ (∀ k, ks = some [(k, bs.length)] → StateInv t →
          (∀ i b, bs[i]? = some b → cellGet u.mem (k + i) = b) ∧ (∀ j, j < k ∨ k + bs.length ≤ j → cellGet u.mem j = cellGet t.mem j)
          ∧ ∃ m ∈ u.xmarks, m.src = p.src ∧ m.xid = p.xid)))
  ∧ (∀ (op : BitVec 4) (cas wide : Bool) (a : Nat) (b c : Word) (via : Option Nat),
      Takes .atomicPacket (.atomic op cas wide a b c via) fun s p q u =>
        let n := if wide then 8 else 4
        ∀ t k, writeKeysOf s q via a n = (t, some [(k, n)]) → markOf t k = none → StateInv t →
          let old := natOf (cellsGet t.mem k n)
          let w := 8 * n
          natOf (cellsGet u.mem k n) = (if cas then if old = b.toNat % 2 ^ w then c.toNat % 2 ^ w else old
            else amoRule op.toNat w old (b.toNat % 2 ^ w))
          ∧ (∀ j, j < k ∨ k + n ≤ j → cellGet u.mem j = cellGet t.mem j)
          ∧ (t.rmap.gone.contains p.src = false → (∃ r ∈ u.inbox ++ u.outbox,
              r.body = .readResponse (cellsGet t.mem k n) none ∧ r.dst = p.src ∧ r.xid = p.xid)))

/-- A sector of a transfer (21 R392): at or below its mark it is acknowledged with the value it had and not applied, one further on
than the next, or that comes before the transfer its sender sent before it (13 R274, log 67, DESIGN CHOICE), is dropped without a word; the next one is checked with its whole run where it is the first, then applied at its
keys, and its value joins the mark and the acknowledgement. -/
def Sys2Proof.Claims.SectorRule (s : State) (p : Packet) (q : Partition) (a i n : Nat) (via : Option Nat) (run : SectorRun) (u : State)
    (applied : State → Nat → State → BitVec 32 → Prop) : Prop :=
  let vals := ((markAt s p).map XMark.vals).getD []
  let s' := if vals = [] then s else putXMark s p.src p.xid vals
  (i < vals.length → u.mem = s.mem
    ∧ (s.rmap.gone.contains p.src = false → ∃ r ∈ u.inbox ++ u.outbox, r.body = .ack p.xid i vals[i]? false ∧ r.dst = p.src))
  ∧ (vals.length < i ∨ vals.length = i ∧ inOrder s' p = false → u.mem = s.mem ∧ u.inbox = s.inbox ∧ u.outbox = s.outbox)
  ∧ (i = vals.length → inOrder s' p = true → ∀ t w, (if i = 0 then writeKeysOf s' q via run.base run.len else (s', some [])) = (t, w) →
      (w = none → u = answered (markRefused t p.src p.xid) q p (.ack p.xid i none true))
      ∧ (w ≠ none → ∀ y k, writeKeysOf t q via a n = (y, some [(k, n)]) → ∃ v : BitVec 32, applied y k u v
          ∧ (∃ m ∈ u.xmarks, m.src = p.src ∧ m.xid = p.xid ∧ m.vals = vals ++ [v])
          ∧ (y.rmap.gone.contains p.src = false → ∃ r ∈ u.inbox ++ u.outbox, r.body = .ack p.xid i (some v) false ∧ r.dst = p.src)))

/-- COPY_SECTOR and REDUCING_COPY_SECTOR (12 R242-R245, 21 R392): each element applied once, with the checksum value of its bytes in
the acknowledgement; a run that its destination refuses is refused at the first sector. -/
def Sys2Proof.Claims.PacketSectors : Prop :=
  (∀ (a i : Nat) (bs : List Byte) (bad : Bool) (via : Option Nat) (run : SectorRun),
    Takes .copySector (.copySector a i bs bad via run) fun s p q u => SectorRule s p q a i bs.length via run u
      (fun y k u v => v = checksum run.ckm 0 bs ∧ (StateInv y →
        (∀ j b, bs[j]? = some b → cellGet u.mem (k + j) = b) ∧ ∀ j, j < k ∨ k + bs.length ≤ j → cellGet u.mem j = cellGet y.mem j)))
  ∧ (∀ (a i op fmt : Nat) (bs : List Byte) (bad : Bool) (via : Option Nat) (run : SectorRun),
    Takes .reducingCopySector (.reduceSector a i op fmt bs bad via run) fun s p q u => SectorRule s p q a i bs.length via run u
      (fun y k u v => let r := applyReduce y q.cfg.part (keyDie k) k op fmt bs bad false
        u.mem = r.1.mem ∧ v = checksum run.ckm 0 r.2))

/-- Packets that access memory at their home (11 R219, R226, 12 R242-R245). -/
def Obligations.PacketsAtHome : Prop := PacketAccesses ∧ PacketSectors

/-- The other packets (13 R257, R266, R274; 15 R295; 20 R374; 21 R389, R391, R392): a handle enters its mailbox or is refused while it is
full; a record is submitted; an event is counted to its vector; a map notice publishes a version with cause 6, or fails over the homes on
a Damask engine (21 R402, log 46, DEDUCED); what a holder on another module says of a version takes effect at its home, once (log 67,
DESIGN CHOICE); a command's last acknowledgement ends it. (A refused command posts nothing: log 48, DEDUCED.) -/
def Sys2Proof.Claims.PacketNotices : Prop :=
  (∀ (mb : Nat) (h : Handle), Takes .handlePacket (.handle mb h) fun s p q u =>
      markAt s p = none →
      ((mailboxOf s q.cfg.part mb).length < 16 →
        mailboxOf u q.cfg.part mb = mailboxOf s q.cfg.part mb ++ [{ h with era := if h.home = s.fabric then 0
          else if h.era ≠ 0 ∨ h.home ∈ s.rmap.gone ∨ (∃ t, assoc s.lostAt h.home = some t ∧ p.stamp ≤ t) then 2 ^ 64 else eraOf s h.home }])
      ∧ (16 ≤ (mailboxOf s q.cfg.part mb).length → u = answered s q p (.ack p.xid 0 none true)))
  ∧ (∀ (n : Nat) (bs : List Byte), Takes .launchSubmission (.launch n bs) fun s _ q u =>
      (64 ≤ n → u = s) ∧ (n < 64 → exec (.launchQueueSubmit q.cfg.part n bs) s = .next u))
  ∧ (∀ e : EventMsg, Takes .event (.event e) fun s _ q u => u = { s with events := s.events ++ [{ e with part := q.cfg.part }] })
  ∧ (∀ die : Nat, Takes .mapNotice (.mapNotice (.damask die false)) fun s p _ u => u = engineLost s p.src die)
  ∧ (∀ (f : Nat) (j : Bool), Takes .mapNotice (.mapNotice (.module f j)) fun s _ _ u =>
      ((s.stage ≠ .ready ∨ moves s (.module f j) = false) → u = s)
      ∧ (s.stage = .ready → moves s (.module f j) = true →
          Published s u 6 (some { kind := 0, module := f, die := 0, index := 0 }) (.module f j)))
  ∧ (∀ (v : Nat) (w : Version) (b : PacketBody), (b = .seal v true ∨ b = .seal v false ∨ b = .seeDelta v true ∨ b = .fillAt v) →
      Takes .sealOrAbandon b fun s p q u =>
        (markAt s p ≠ none → u = answered s q p (.ack p.xid 0 none false)) ∧ (markAt s p = none → s.versions = [w] → w.id = v → w.part = q.cfg.part → w.state = .filling → w.cur = true →
        ∃ x, u.versions = [x] ∧ x.id = v
        ∧ x.state = (if b = .seal v true then .abandoned else if b = .seal v false then .sealed else .filling)
        ∧ (b = .seeDelta v true → x.see = w.see + 1) ∧ (b = .fillAt v → x.holder = .away p.src)
        ∧ ∃ m ∈ u.xmarks, m.src = p.src ∧ m.xid = p.xid))
  ∧ (∀ (xid i : Nat) (val : Option (BitVec 32)) (refused : Bool), Takes .acknowledgement (.ack xid i val refused) fun s p q u =>
      ∀ o, s.outs = [o] → o.xid = xid → o.part = q.cfg.part → o.dst = p.src →
        (refused = true → u.outs = [] ∧ u.me.regs = s.me.regs ∧ (xid < 2 ^ 64 → ∃ e ∈ u.events, e.code = 0x0801 ∧ e.lsn = xid))
        ∧ (refused = false → (∀ c ∈ o.sends, indexOf c ≠ i) → u = s)
        ∧ (refused = false → ∀ c, o.sends = [c] → indexOf c = i → o.acks.length + 1 = o.total → o.ck = none →
            u.outs = [] ∧ ((s.me.run ≠ .idle ∧ s.me.task.launch = o.launch ∧ s.me.task.serial = o.serial) →
              u.me.regs = postAll s.me.regs o.posts)))

/-- Host commands (21 R391, 22 R403, R407, R408): discarded and counted before READY; under a partition's key only for that partition
and without the host's own registers, else refused with 0x0202; under the host key for any (which blocks' commands are the host's is log 47,
DEDUCED; what a block's read answers where the manual lays none out is log 21, DESIGN CHOICE). Of two keys of a partition one can be
retired and the other stays (17 R338). -/
def Sys2Proof.Claims.HostCommands : Prop :=
  ∀ (s : State) (p : Packet) (part : Nat) (c : HostCmd) (x : Partition), p.body = .hostCommand part c → p.dst = s.fabric →
    (p.fpid = 0xFFFF → (p.tagOk = false ∨ (if p.epoch then s.hostKey1 else s.hostKey0) ≠ some p.key) →
      exec (.hostCommand p) s = .next (hostBump s 0))
    ∧ (p.fpid = 0xFFFF → p.ptype = typeOf p.body → p.reserved = false → s.time ≤ p.stamp + 2000000 → p.tagOk = true →
      (if p.epoch then s.hostKey1 else s.hostKey0) = some p.key →
      (s.stage ≠ .ready → s.stage ≠ .recovery → exec (.hostCommand p) s = .next (hostBump s 0))
      ∧ (∀ i, s.stage = .recovery → c = .firmware i → exec (.hostCommand p) s = exec (.firmwareSlotWrite i) s)
      ∧ (∀ o, s.stage = .recovery ∨ s.stage = .ready → c = .readBlock 0 o → exec (.hostCommand p) s =
          .next { s with hostOut := s.hostOut ++ [.status (if s.stage = .ready then 3 else 4) s.flash.secver s.flash.booted (s.stage == .recovery)] })
      ∧ (s.stage = .ready → partOf s part = none → ∀ cfg, c = .createPartition cfg → cfg.part = part →
          exec (.hostCommand p) s = exec (.partitionCreate cfg) s)
      ∧ (s.stage = .ready → partOf s part = some x →
        (∀ g, c = .debugHalt g → exec (.hostCommand p) s = exec (.debugHalt g) s)
        ∧ (c = .evict → exec (.hostCommand p) s = exec (.partitionEviction part) s)
        ∧ (∀ b, c = .setBreakpoints b → ∃ u, exec (.hostCommand p) s = .next u ∧ (partOf u part).map (fun y => y.cfg.brk) = some b)
        ∧ (∀ w, c = .setWeight w → 1 ≤ w → w ≤ 255 →
            ∃ u, exec (.hostCommand p) s = .next u ∧ (partOf u part).map (fun y => y.cfg.weight) = some w)
        ∧ (∀ v, c = .errinj v → exec (.hostCommand p) s = exec (.errinjWrite v) s)
        ∧ (∀ slot k, c = .installKey slot k → ∃ u q, exec (.hostCommand p) s = .next u ∧ partOf u part = some q
            ∧ (if slot then q.key1 else q.key0) = some k ∧ (if slot then q.key0 = x.key0 else q.key1 = x.key1) ∧ q.newest = slot)
        ∧ (∀ slot, c = .retireKey slot → ∃ u q, exec (.hostCommand p) s = .next u ∧ partOf u part = some q
            ∧ (if slot then q.key1 = none ∧ q.key0 = x.key0 else q.key0 = none ∧ q.key1 = x.key1))
        ∧ (s.power.stopped = false → c = .endPartition → exec (.hostCommand p) s = exec (.partitionEnd part) s)
        ∧ (∀ r dst, s.power.stopped = false → c = .moveResource r dst → exec (.hostCommand p) s = exec (.resourceMove r part dst) s)
        ∧ (s.power.stopped = true → (c = .endPartition ∨ (∃ t, c = .kill t)) → cmdWithin s part c = true →
            exec (.hostCommand p) s = .next s)
        ∧ (∀ b n, c = .saveAreas b n → ∃ u, exec (.hostCommand p) s = .next u ∧ (partOf u part).map Partition.saveBase = some b
            ∧ (partOf u part).map Partition.saveSlots = some n)
        ∧ (∀ o, c = .readBlock 1 o → exec (.hostCommand p) s = .next { s with hostOut := s.hostOut ++
            [.block 1 o (BitVec.ofNat 64 (natOf (((reportOf s).drop o).take 8)))] })
        ∧ (∀ o, c = .readBlock 2 o → exec (.hostCommand p) s = .next { s with hostOut := s.hostOut ++ [.block 2 o (mapWord s.rmap o)] })
        ∧ (∀ n, c = .readBlock 5 n → exec (.hostCommand p) s = exec (.hostErrorCounterRead n) s)
        ∧ (c = .readBlock 6 0 → exec (.hostCommand p) s = .next { s with hostOut := s.hostOut ++ [.errinj s.errinj] })))
    ∧ (p.fpid ≠ 0xFFFF → ¬ Discarded s p → partByFpid s p.fpid = some x →
      (s.stage ≠ .ready → exec (.hostCommand p) s = .next (hostBump s 0))
      ∧ (s.stage = .ready → part ≠ x.cfg.part →
          exec (.hostCommand p) s = .next { s with hostOut := s.hostOut ++ [.refused 0x0202] })
      ∧ (s.stage = .ready → part = x.cfg.part → partOf s part = some x → hostOnly c = true →
          exec (.hostCommand p) s = .next { s with hostOut := s.hostOut ++ [.refused 0x0202] }))

/-- Packets that carry notices, and the host commands (21 R389, R391, 22 R403, R407). -/
def Obligations.NoticesAndCommands : Prop := PacketNotices ∧ HostCommands

/-- What is sent again (12 R248, 13 R275, 21 R392): the copies of a command's unacknowledged sectors, with a fresh STAMP, or a block kept
for its home; 12 ms without an acknowledgement give a command up with event 0x0802; a mark expires 16 ms after its last sector. A copy
that has left no port when its command is acknowledged or given up is not sent; what leaves carries the STAMP of its leaving (R388). (How
a block or handle is sent again is logs 49 and 51, DEDUCED.) -/
def Sys2Proof.Claims.Resends : Prop :=
  (∀ (s : State) (o : Outstanding), s.outs = [o] → o.sends ≠ [] →
    (o.dst ∉ s.rmap.gone → s.time < o.since + 12000000 → exec (.sectorResend o.xid) s =
        .next { s with outbox := s.outbox ++ o.sends.map fun p => { p with stamp := s.time },
                       outs := [{ o with sends := o.sends.map fun p => { p with stamp := s.time } }] })
    ∧ (o.since + 12000000 ≤ s.time → (∀ h ∈ s.outHands, h.sent ≠ some o.xid) → exec (.sectorResend o.xid) s = .next s)
    ∧ (o.dst ∈ s.rmap.gone → s.time < o.since + 12000000 → ∃ u : State, exec (.sectorResend o.xid) s = .next u ∧ u.outs = [] ∧ ∃ e ∈ u.events, e.code = 0x0802)
    ∧ (s.time < o.since + 12000000 → exec (.commandGiveUp o.xid) s = .next s)
    ∧ (o.since + 12000000 ≤ s.time → ∃ u : State, exec (.commandGiveUp o.xid) s = .next u ∧ u.outs = []
        ∧ (∃ e ∈ u.events, e.code = 0x0802 ∧ e.lsn = o.xid)
        ∧ (moves s (.module o.dst false) = true → u.rmap.version = s.rmap.version + 1 ∧ u.rmap.cause = 6 ∧ o.dst ∈ u.rmap.gone)))
  ∧ (∀ (s : State) (x : Nat), ∃ u : State, exec (.xidMarkExpiry x) s = .next u ∧ u.mem = s.mem
      ∧ ∀ m, m ∈ u.xmarks ↔ m ∈ s.xmarks ∧ (m.xid = x → s.time < m.time + 16000000))
  ∧ (∀ (s : State) (tag : Nat), (s.retained.find? fun r => r.tag == tag) = none → exec (.gradientBlockResend tag) s = .next s)
  ∧ (∀ (s : State) (r : Retained), s.retained = [r] → r.dest.1 ∉ s.rmap.gone → ∃ (u : State) (p : Packet),
      exec (.gradientBlockResend r.tag) s = .next u ∧ u.retained = [{ r with tried := s.time }]
      ∧ (if r.dest.1 = s.fabric then u.inbox = s.inbox ++ [p] else u.outbox = s.outbox ++ [p])
      ∧ p.srcDie = r.die ∧ p.body = .gradient (r.tag % 2 ^ 32) (r.tag / 2 ^ 32 % 2 ^ 19) r.dest.2 r.bytes ∧ p.xid = r.tag ∧ p.stamp = s.time
      ∧ p.dst = r.dest.1)
  ∧ (∀ (s : State) (p : Packet) (rest : List Packet) (n : Nat) (q : Port),
      (List.range 24).find? (fun n => (assoc s.ports n).isSome) = some n → assoc s.ports n = some q → q.sending = [] →
      s.outbox = p :: rest → p.src = s.fabric → p.dst ∉ s.rmap.gone →
      (isSector p.body = true → (∀ o ∈ s.outs, o.xid ≠ p.xid ∨ o.dst ≠ p.dst) → loadPort s = { s with outbox := rest })
      ∧ (isSector p.body = false → ∃ f, loadPort s = setPort { s with outbox := rest } n { q with sending := flitsOf f }
          ∧ f.body = p.body ∧ f.dst = p.dst ∧ f.xid = p.xid ∧ (∀ x, partByFpid s p.fpid = some x → f.stamp = s.time)))

/-- Flits on a link, and what is sent again (12 R248, 13 R275, 21 R385-R387, R392). -/
def Obligations.LinksAndResends : Prop := LinkFlits ∧ Resends

/-- An acknowledgement of a block, with the mirror that its home has (21 R395, R401). -/
def Sys2Proof.Claims.blockAcked (s : State) (h : ParamHome) (tag : Nat) (to_ : Nat × Nat) (mirror rejected : Bool) : State :=
  sendFrom s h.desc.die h.desc.part (2 ^ 128) to_.1 to_.2 tag
    (.gradAck tag mirror (h.desc.mirrored && h.role == 0) rejected h.desc.peer h.desc.peerDie)

/-- Gradient blocks at a home without a mirror and at a mirror (21 R395, R401): a block of an older step or applied already is
acknowledged and dropped, one of the current step is applied once, one of the next is held in a lookahead of 256, one further ahead or
beyond the shard is rejected; a mirror applies in commit order, and a home sends it a block of a past step again with its place there.
(That a block whose runs cannot be read stays with its sender is log 43, DEDUCED.) -/
def Sys2Proof.Claims.HomeBlocks : Prop :=
  (∀ (low b die : Nat) (bs : List Byte), Takes .gradientBlock (.gradient low b die bs) fun s p q u =>
    (homeOf s q.cfg.part die = none → u = s)
    ∧ (∀ h, homeOf s q.cfg.part die = some h →
      ((h.role = 1 ∨ bs.length ≠ 65536) → u = s)
      ∧ (h.role = 0 → bs.length = 65536 → h.desc.mirrored = true → ∀ st n : Nat, st % 2 ^ 32 = low % 2 ^ 32 → st < h.step →
          h.step ≤ st + 2 ^ 31 → b < h.desc.nblk → pastOrder h st b = some n →
          u = sendFrom (blockAcked s h p.xid (p.src, p.srcDie) false false) h.desc.die h.desc.part (2 ^ 128) h.desc.peer h.desc.peerDie
            p.xid (.publication st b n bs p.xid p.src p.srcDie))
      ∧ (h.role ≠ 1 → bs.length = 65536 → h.desc.mirrored = false → ∀ st : Int, st % 2 ^ 32 = (low : Int) % 2 ^ 32 →
        (h.step : Int) - 2 ^ 31 ≤ st → st < (h.step : Int) + 2 ^ 31 →
        ((h.desc.nblk ≤ b ∨ (h.step : Int) + 2 ≤ st) → u = blockAcked s h p.xid (p.src, p.srcDie) false true)
        ∧ (b < h.desc.nblk → (st < h.step ∨ (st = h.step ∧ b ∈ h.applied)) → u = blockAcked s h p.xid (p.src, p.srcDie) false false)
        ∧ (b < h.desc.nblk → st = h.step → b ∉ h.applied →
          (∀ t, blockReads s q h b = (t, none) → u = t)
          ∧ (∀ t l, blockReads s q h b = (t, some l) → ∃ k, homeOf u q.cfg.part die = some k ∧ k.step = h.step
              ∧ k.applied = h.applied ++ [b] ∧ k.program = h.program ∧ k.scalars = h.scalars))
        ∧ (b < h.desc.nblk → st = (h.step : Int) + 1 →
          ((256 ≤ h.ahead.length ∨ ∃ x ∈ h.ahead, x.block = b) → u = s)
          ∧ (h.ahead.length < 256 → (∀ x ∈ h.ahead, x.block ≠ b) → homeOf u q.cfg.part die = some { h with ahead := h.ahead ++
              [{ block := b, tag := p.xid, sender := (p.src, p.srcDie), bytes := bs }] } ∧ u.mem = s.mem)))))
  ∧ (∀ (step b order tag m d : Nat) (bs : List Byte), Takes .weightPublication (.publication step b order bs tag m d) fun s p q u =>
    ∀ h, homeOf s q.cfg.part p.dstDie = some h →
      (h.role ≠ 1 → u = s)
      ∧ (h.role = 1 →
        ((step < h.step ∨ (step = h.step ∧ b ∈ h.applied)) → u = blockAcked s h tag (m, d) true false)
        ∧ (step = h.step → b ∉ h.applied → order = h.applied.length → ∀ t l, blockReads s q h b = (t, some l) →
            ∃ k, homeOf u q.cfg.part p.dstDie = some k ∧ k.applied = h.applied ++ [b] ∧ k.step = h.step)
        ∧ ((h.step < step ∨ (step = h.step ∧ b ∉ h.applied ∧ order ≠ h.applied.length)) → u = s)))

/-- Steps of a parameter home (21 R393, R396, R399, R400): when every block of the step is applied its versions are sealed and the
counter rises; a home whose quotas had no room for them waits until they have (log 70, DESIGN CHOICE); past the deadline they are
abandoned, the step stays and the next deadline counts from the one that has passed; a descriptor or a program that breaks a limit is refused
with 0x0A01, another makes the home, its program copied. -/
def Sys2Proof.Claims.HomeSteps : Prop :=
  (∀ (s : State) (part die : Nat) (p : Partition) (h : ParamHome), partOf s part = some p → homeOf s part die = some h →
    (h.applied.length ≠ h.desc.nblk → exec (.stepComplete part die) s = .next s)
    ∧ (h.applied.length = h.desc.nblk → h.role ≠ 1 → h.versions = [] → (openTiles s h).2.versions = [] →
        exec (.stepComplete part die) s = .next s)
    ∧ (h.applied.length = h.desc.nblk → (h.role = 1 ∨ h.versions ≠ [] ∨ (openTiles s h).2.versions ≠ []) → ∃ (u : State) (k : ParamHome), exec (.stepComplete part die) s = .next u
      ∧ homeOf u part die = some k ∧ k.step = h.step + 1 ∧ k.role = h.role ∧ k.program = h.program ∧ k.ahead = [] ∧ k.past = (h.step, h.applied) :: h.past
      ∧ (∀ v ∈ h.versions, v < s.verNext → ∀ w ∈ u.versions, w.id = v → w.state ≠ .filling))
    ∧ ((h.role = 1 ∨ h.applied.length = h.desc.nblk ∨ s.time < h.since + 1000 * h.desc.deadline) →
        exec (.stepDeadlineExpiry part die) s = .next s)
    ∧ (h.role ≠ 1 → h.applied.length ≠ h.desc.nblk → h.since + 1000 * h.desc.deadline ≤ s.time → ∃ u : State,
        exec (.stepDeadlineExpiry part die) s = .next u
        ∧ homeOf u part die = some { h with versions := [], since := h.since + 1000 * h.desc.deadline }
        ∧ ∀ v ∈ h.versions, ∀ w ∈ u.versions, w.id = v → w.state ≠ .filling))
  ∧ (∀ (s : State) (d : HomeDesc) (p : Partition), partOf s d.part = some p →
      ((descOk s p d = false ∨ homeOf s d.part d.die ≠ none ∨ s.rmap.damask.getLsbD d.die = false) →
        exec (.paramHomeCreate d) s = .next { s with hostOut := s.hostOut ++ [.refused 0x0A01] })
      ∧ (descOk s p d = true → homeOf s d.part d.die = none → s.rmap.damask.getLsbD d.die = true →
        ∀ t bs, pathRead s p d.prog.toNat (8 * d.plen) = (t, some bs) →
          let prog : List Word := (List.range d.plen).map fun j => BitVec.ofNat 64 (natOf ((bs.drop (8 * j)).take 8))
          (prog.all damaskOk = false →
            exec (.paramHomeCreate d) s = .next { t with hostOut := t.hostOut ++ [.refused 0x0A01] })
          ∧ (prog.all damaskOk = true → ∃ (u : State) (h : ParamHome), exec (.paramHomeCreate d) s = .next u
            ∧ u.homes = h :: s.homes ∧ h.desc = d ∧ h.program = prog ∧ h.step = d.step ∧ h.applied = [] ∧ h.ahead = []
            ∧ h.role = (if d.isMirror then 1 else 0) ∧ (d.isMirror = false → h.versions = [] ∨ h.versions.length = pubTiles d))))

/-- Parameter homes: blocks and steps (21 R393-R401). -/
def Obligations.ParameterHomes : Prop := HomeBlocks ∧ HomeSteps

/-- The moving core comes to `u`: the module is powered and no part of it has failed or stopped, and the schedule names a core and a slice
of it, or is empty, no packet has come and nothing is due on the module; then the queues of its cores have gone on (11 R214) and the model's
own choice of the slice is made (log 1, DESIGN CHOICE). -/
def Sys2Proof.Claims.Comes (s u : State) : Prop :=
  s.power.on = true ∧ s.power.failed = false
  ∧ (((tick s).sched = [] ∧ (tick s).inbox = [] ∧ dueModule (tick s) = none ∧ (tick s).power.stopped = false
        ∧ u = pump (autoTurn (autoCore (pumpOthers (tick s)))))
    ∨ (∃ g e rest, (tick s).sched = .turn g e :: rest ∧ s.power.stopped = false
        ∧ u = { focus g { tick s with sched := rest } with me := (focus g { tick s with sched := rest }).me.turn e }))

/-- The moving core comes to `u` with nothing due on it. -/
def Sys2Proof.Claims.Moves (s u : State) : Prop := Comes s u ∧ dueCore u = none

/-- The core of `u` fetches its next word: it runs, no issued access of its C path has met a sector's condition, no fault and no end
holds its slice, and the granules at its PC have arrived and pass their check. -/
def Sys2Proof.Claims.Fetches (u : State) : Prop :=
  u.me.run = .running ∧ lateAccess u = none ∧ stoppedFor u.me = false ∧ u.me.flow.ended = false ∧ granuleAbsent u.me = false
  ∧ codeFound u.me = .clean

/-- A step runs the decoded instruction: where the bytes at the PC decode to `i`, a step is exec of `i`, with counter 5 raised where code
memory corrected an error; bytes that are no instruction raise the code of 05 R102 at the next LSN, the end of the text 0x0A07 in
logical form and the control slice (14 R280); a granule that has not arrived holds the slice (14 R279), one whose error is not corrected
raises 0x0601 (17 R336, 19 R371); a load or atomic that waited and meets a sector's condition raises its code (08 R151); a core that does
not run moves nothing; what is due on the core, on the module, or a packet that has come, takes the step instead (log 1, DESIGN CHOICE);
and an event of the schedule that power leaves possible is exec of it. Before all of it time goes on: what is overdue on the cores, windows
that run out, partitions that become ready, the links. -/
def Obligations.StepRunsDecoded : Prop :=
  (∀ s u : State, Moves s u → Fetches u →
    (∀ (i : Instr) (rest : List Byte), decode (fetchBytes u.me) = .ok (i, rest) → step s = exec i u)
    ∧ (∀ r : Reject, fetchBytes u.me ≠ [] → decode (fetchBytes u.me) = .error r →
        step s = .next (fetchFault u r.code ((fetchBytes u.me).take (4 * unitsOf (natOf ((fetchBytes u.me).take 4))))))
    ∧ (fetchBytes u.me = [] → u.me.eng = .c → step s = .next (fetchFault u 0x0A07 []))
    ∧ (fetchBytes u.me = [] → u.me.eng ≠ .c → step s = .next u))
  ∧ (∀ s u : State, Moves s u →
    (u.me.run ≠ .running → step s = .next u)
    ∧ (u.me.run = .running → lateAccess u ≠ none → step s = .next (raiseLate u))
    ∧ (u.me.run = .running → lateAccess u = none → stoppedFor u.me = true → step s = .next (settleFault u))
    ∧ (u.me.run = .running → lateAccess u = none → stoppedFor u.me = false → u.me.flow.ended = true → step s = .next u)
    ∧ (u.me.run = .running → lateAccess u = none → stoppedFor u.me = false → u.me.flow.ended = false →
        (granuleAbsent u.me = true → step s = .next (stall u .queue))
        ∧ (granuleAbsent u.me = false → codeFound u.me = .uncorrectable →
            step s = .next (fetchFault (bump u u.me.task.part 6) 0x0601 []))
        ∧ (granuleAbsent u.me = false → codeFound u.me = .corrected → ∀ (i : Instr) (rest : List Byte),
            decode (fetchBytes u.me) = .ok (i, rest) → step s = exec i (bump u u.me.task.part 5))))
  ∧ (∀ (s u : State) (o : Host.Outcome State Fault Refusal), Comes s u → dueCore u = some o → step s = o)
  ∧ (∀ (s : State) (o : Host.Outcome State Fault Refusal), s.power.on = true → s.power.failed = false → (tick s).sched = [] →
      (tick s).inbox = [] → dueModule (tick s) = some o → step s = o)
  ∧ (∀ (s : State) (p : Packet) (rest : List Packet), s.power.on = true → s.power.failed = false → (tick s).sched = [] →
      (tick s).inbox = p :: rest → step s = packetStep p { tick s with inbox := rest })
  ∧ (∀ s : State, tick s = linkStep (noteReady (expireWindows (coresDue (elapse s)))))
  ∧ (∀ (s : State) (i : Instr) (rest : List Move), (tick s).sched = .event i :: rest → powerAdmits s.power i = true →
      step s = exec i { tick s with sched := rest })

/-- The instruction that stored units decode to, with nothing left. -/
def Sys2Proof.Claims.unitsRead (us : List Nat) : Option Instr :=
  match decode (us.flatMap (bytesOf 4)) with
  | .ok (i, []) => some i
  | _ => none

/-- The stored units decode to the instruction and nothing is left. -/
def Sys2Proof.Claims.Reads (us : List Nat) (i : Instr) : Prop := unitsRead us = some i

/-- The worked encodings of the spec decode to the words they stand for (08 R136, R139, R148, R152, R155, 12 R243, R250, 13 R264,
R265, R266, 16 R316, R320, R323, 09 R169). -/
def Obligations.DecodeWords : Prop :=
  Reads [0x00248280] (.add 9 8 10 0) ∧ Reads [0x190C4142] (.cmpSigned 3 4 5 2) ∧ Reads [0x443097F8] (.ldw 12 9 0 0x7F8)
  ∧ Reads [0x522B4000] (.br 5 3 2) ∧ Reads [0x50200003] (.pbr 1 3) ∧ Reads [0x503FFFFD] (.pbr 1 0x1FFFFD)
  ∧ Reads [0x5541C004] (.loopImm 1 7 4) ∧ Reads [0x7024C010] (.hnew 9 12 16) ∧ Reads [0x74008000] (.hdrop 8)
  ∧ Reads [0x75008500] (.hsend 8 20) ∧ Reads [0xE0048400, 0x0D428008] (.amo 4 1 0 1 3 20 10 0 8)
  ∧ Reads [0xE0203000, 0x00012CE0] (.swaitt 3 1 11 7) ∧ Reads [0xE0720000, 0x38C00000] (.barwaitt 2 14 6)
  ∧ Reads [0xE0880000, 0x24000000] (.launchNb 0 9)
  ∧ Reads [0x84351558, 0x00000200, 0] (.cpyf
      { xa := 20, xb := 21, xc := 22, slot := 0, stage := 0, qr := 0, dir := 0, dims := 0, size := 0, mode := 0, ckm := 1,
        ckr := 0, sync := 0, imm := 0 })
  ∧ Reads [0xA0308008, 0x51014041, 0x51000000] (.vfma
      { dst := 8, sa := 0, sb := 0x85, sc := 0x10, pred := 2, neg := 1, ty := 0, rnd := 4, rep := 1, strd := 0x51, sync := 0,
        imm := 0 })
  ∧ Reads [0xC0040000, 0x01020000, 0x20410100, 0, 0, 0x03000000] (.mma
      { MWord.zero with cidx := 2, apitch := 4, boff := 0x200, bpitch := 2, afmt := 2, bfmt := 2, acc2 := 1, rep := 3 })

/-- The decoder reads every well-formed word back from its own bytes, with every field, and leaves the bytes after it (05 R80,
R81, R102). -/
def Obligations.DecodeEncode : Prop :=
  ∀ (i : Instr) (rest : List Byte), i.wf = true → 0 < i.units → decode (encodeBytes i ++ rest) = .ok (i, rest)

/-- Right after reset the module is powered, has no map, no partition and no work, and no core has a task (22 R403, R408); a register whose
valid bit is clear reads zero, and x0 always (03 R46, R47, R49). -/
def Obligations.ResetState : Prop :=
  State.reset.power.on = true ∧ State.reset.power.failed = false ∧ State.reset.stage = .reset
  ∧ State.reset.rmap.version = 0 ∧ State.reset.parts = [] ∧ State.reset.launches = [] ∧ State.reset.versions = []
  ∧ State.reset.me.run = .idle ∧ State.reset.others = [] ∧ State.reset.mem = []
  ∧ (∀ d, xOf State.reset d = 0) ∧ (∀ n, n ≠ 0 → readP State.reset.me.regs n = 0)
  ∧ (∀ n, readS State.reset.me.regs n = 0) ∧ (∀ n, readV State.reset.me.regs n = 0)

/-- Reset meets the invariant: memory lists nothing and has its canonical form (11 R204, R206; the byte an unlisted address reads as
is the model's choice, log 6). -/
def Obligations.ResetInv : Prop := StateInv State.reset

/-- A step keeps the memory of every space in its canonical form, whatever the state: equal memories are equal data (11 R204, R206;
the form is the model's, log 6). -/
def Obligations.StepKeepsMemory : Prop := ∀ s t : State, StateInv s → step s = .next t → StateInv t

/-- x0 and p0 discard writes and read as zero and as all ones; a register whose valid bit is clear reads zero; a write makes its
register read what was written and changes no other register (03 R47, R49, R50). -/
def Obligations.RegisterRules : Prop :=
  (∀ (r : Regs) (v : Word), writeX r 0 v = r ∧ readX r 0 = 0)
  ∧ (∀ (r : Regs) (p : PredWord), writeP r 0 p = r ∧ readP r 0 = BitVec.allOnes 128)
  ∧ (∀ (r : Regs) (d : BitVec 6), r.xv.getLsbD d.toNat = false → readX r d = 0)
  ∧ (∀ (r : Regs) (n : Nat), n ≠ 0 → r.pv.getLsbD n = false → readP r n = 0)
  ∧ (∀ (r : Regs) (n : Nat), r.vv.getLsbD n = false → readV r n = 0)
  ∧ (∀ (r : Regs) (d e : BitVec 6) (v : Word), d ≠ 0 → readX (writeX r d v) e = if e = d then v else readX r e)
  ∧ (∀ (r : Regs) (n m : Nat) (p : PredWord), 0 < n → n < 24 → readP (writeP r n p) m = if m = n then p else readP r m)
  ∧ (∀ (r : Regs) (n m : Nat) (v : VecWord), n < 64 → readV (writeV r n v) m = if m = n then v else readV r m)
  ∧ (∀ (r : Regs) (d : BitVec 6) (v : Word), writeX r d v = { r with x := (writeX r d v).x, xv := (writeX r d v).xv })
  ∧ (∀ (r : Regs) (n : Nat) (p : PredWord), writeP r n p = { r with p := (writeP r n p).p, pv := (writeP r n p).pv })
  ∧ (∀ (r : Regs) (n : Nat) (v : VecWord), writeV r n v = { r with v := (writeV r n v).v, vv := (writeV r n v).vv })

/-- Loop `n` of a flow is the active one that ends at `e` and was started last. -/
def Sys2Proof.Claims.LoopEnds (f : Flow) (n e : Nat) : Prop :=
  n < 4 ∧ (f.loops.getD n .none).active = true ∧ (f.loops.getD n .none).stop = e
  ∧ ∀ m, m < 4 → m ≠ n → (f.loops.getD m .none).active = true → (f.loops.getD m .none).stop = e →
      (f.loops.getD m .none).rank < (f.loops.getD n .none).rank

/-- The loop-back after a word of `n` units at `f` that leads to `pc`: with no active loop that ends there the flow goes to `pc`;
else the one started last counts down and goes back, or falls out and the next is examined; the LSN goes up by one (08 R156, 02
R39). -/
def Sys2Proof.Claims.LoopsBack (n : Nat) (f : Flow) (nx : Next) (pc : Word) : Prop :=
  let e := f.pc.toNat + 4 * n - 4
  ((∀ m, m < 4 → (f.loops.getD m .none).active = true → (f.loops.getD m .none).stop ≠ e) →
    flowNext n f nx = { f with pc := pc, lsn := f.lsn + 1 })
  ∧ (∀ m, LoopEnds f m e →
      let c := f.loops.getD m .none
      (c.count ≠ 1 → flowNext n f nx = { f with pc := BitVec.ofNat 64 c.start, lsn := f.lsn + 1,
                                                loops := f.loops.setIfInBounds m { c with count := c.count - 1 } })
      ∧ (c.count = 1 → flowNext n f nx = flowNext n
          { f with loops := f.loops.setIfInBounds m { c with count := 0, active := false } } nx))

/-- What completion changes beside the word's own effect. In logical form: the flow, which goes on by one LSN to the next word,
to a loop's START, past a skipped body or to a taken target (02 R39, 08 R156); the wait ends; CYCLE rises and CYCLEFT falls by the
cycles charged, never past 0, and its partition's virtual time rises by 256 / W_p each (03 R57, 15 R305, R310); nothing else. In
slice form a gated word that falls through has acted at its step (02 R43), the LSN rises by the word's DELTA, its END word ends its slice, and the post of SYNC19 is made, or kept until a stream
command has left its queue and, where it is late, until the frontier reaches it; memory, the queues and every register but the
semaphores stay as the effect left them (05 R94, R101). -/
def Obligations.CompletionRules : Prop :=
  (∀ (n : Nat) (f : Flow) (pc : Word),
    LoopsBack n f .fall (f.pc + BitVec.ofNat 64 (4 * n)) ∧ LoopsBack n f (.skip pc) pc
    ∧ flowNext n f (.taken pc) = { f with pc := pc, lsn := f.lsn + 1 })
  ∧ (∀ (i : Instr) (s u : State) (nx : Next), s.me.form = .logical →
      let d := min (u.me.costs.headD 1) u.me.csr.cycleft
      ∃ ps : List Partition,
        completed i s u nx = { u with
          me := { u.me with flow := flowNext i.units u.me.flow nx, wait := .none, rho := 0, costs := u.me.costs.tail,
                            csr := { u.me.csr with cycle := u.me.csr.cycle + d, cycleft := u.me.csr.cycleft - d } },
          parts := ps }
        ∧ ps = u.parts.map fun q => if q.cfg.part = u.me.task.part
            then { q with vnum := q.vnum + 256 * d * (q.vden / max 1 q.cfg.weight) } else q)
  ∧ (∀ (i : Instr) (s u : State) (nx : Next), s.me.form = .slices → u.me.posts = [] →
      let v := completed i s u nx
      let r := settleOwed i s
      let ann := annOf r.me r.me.eng r.me.flow
      let sem := (syncOf i).toNat % 256
      v.me.flow.lsn = r.me.flow.lsn + ann.toNat % 2 ^ 14 ∧ v.me.flow.ended = (ann[15] && ann.toNat % 2 ^ 14 == 0)
      ∧ v.me.flow.pc = (flowNext i.units u.me.flow nx).pc ∧ v.me.flow.loops = (flowNext i.units u.me.flow nx).loops
      ∧ v.me.gate = (if nx = .fall then (noteGated i r u).me.gate else u.me.gate)
      ∧ (∀ e ∈ v.me.rewind, e ∈ u.me.rewind ∨ (e.eng = r.me.eng ∧ e.lsn = r.me.flow.lsn))
      ∧ v.mem = u.mem ∧ v.others = u.others ∧ v.me.regs = { u.me.regs with sem := v.me.regs.sem }
      ∧ v.me.lqC = u.me.lqC ∧ v.me.sqC = u.me.sqC ∧ v.me.sqS = u.me.sqS ∧ v.me.regions = u.me.regions ∧ v.me.run = u.me.run
      ∧ ((syncOf i)[9] = false → v.me.regs = u.me.regs ∧ v.me.posts = [])
      ∧ (let p : PendPost := { eng := u.me.eng, lsn := r.me.flow.lsn, sem := BitVec.ofNat 8 sem, late := (syncOf i)[8] }
         let queued := u.me.eng = .s ∧ ∃ c ∈ u.me.sqS, c.lsn = r.me.flow.lsn
         (syncOf i)[9] = true →
           (queued → v.me.regs = u.me.regs ∧ v.me.posts = [p])
           ∧ (¬ queued → (syncOf i)[8] = false → v.me.regs = postS u.me.regs sem 1 ∧ v.me.posts = [])
           ∧ (¬ queued → (syncOf i)[8] = true →
             (v.me.regs = u.me.regs ∧ v.me.posts = [p] ∧ frontier v.me < r.me.flow.lsn)
             ∨ (v.me.regs = postS u.me.regs sem 1 ∧ v.me.posts = [] ∧ r.me.flow.lsn ≤ frontier v.me))))
end

