-- ==== Sys2Proof/Laws/Paths.lean ====
section
/-! SUPPORT. What the steps of the memory machine leave alone: everything of the moving core but its registers, its queues, its
L1 and its logs (11 R212). -/

namespace Sys2Proof.Machine

/-- What the memory machine never touches of the moving core. -/
structure Still where
  id     : Nat
  run    : Run
  form   : Form
  eng    : Engine
  flow   : Flow
  parked : List (Engine × Flow)
  task   : Task
  csr    : Csrs
  text   : List (BitVec 32)
  code   : Vector (List (BitVec 32)) 4
  anns   : Vector (List (BitVec 16)) 4
  map    : SliceMap
  str    : Streams
  deriving DecidableEq, Repr

/-- That part of a state. -/
def still (s : State) : Still :=
  { id := s.me.id, run := s.me.run, form := s.me.form, eng := s.me.eng, flow := s.me.flow, parked := s.me.parked, task := s.me.task,
    csr := s.me.csr, text := s.me.text, code := s.me.code, anns := s.me.anns, map := s.me.map, str := s.me.str }

theorem still_foldl {α : Type} {f : State → α → State} (hf : ∀ u a, still (f u a) = still u) (l : List α) (s : State) :
    still (l.foldl f s) = still s := by
  induction l generalizing s with
  | nil => rfl
  | cons a rest ih => rw [List.foldl_cons, ih, hf]

@[simp] theorem still_mapRegs (s : State) (f : Regs → Regs) : still (mapRegs s f) = still s := rfl
@[simp] theorem still_setX (s : State) (i : BitVec 6) (v : Word) : still (setX s i v) = still s := rfl
@[simp] theorem still_setL1 (s : State) (l : List (Nat × L1Byte)) : still (setL1 s l) = still s := rfl
@[simp] theorem still_updPart (s : State) (p : Nat) (f : Partition → Partition) : still (updPart s p f) = still s := rfl
@[simp] theorem still_bump (s : State) (p i : Nat) : still (bump s p i) = still s := rfl
@[simp] theorem still_noteSoft (s : State) (p k : Nat) : still (noteSoft s p k) = still s := by
  unfold noteSoft; split <;> rfl
@[simp] theorem still_setMark (s : State) (k : Nat) (m : Mark) : still (setMark s k m) = still s := rfl
@[simp] theorem still_clearMark (s : State) (k : Nat) : still (clearMark s k) = still s := rfl
@[simp] theorem still_rvUpdate (s : State) (d k : Nat) (bs : List Byte) : still (rvUpdate s d k bs) = still s := rfl
@[simp] theorem still_rvDrop (s : State) (d k : Nat) : still (rvDrop s d k) = still s := rfl
@[simp] theorem still_rvFill (s : State) (d k : Nat) : still (rvFill s d k) = still s := rfl
@[simp] theorem still_postEvent (s : State) (c p l f n : Nat) : still (postEvent s c p l f n) = still s := rfl
@[simp] theorem still_drawAsk (s : State) : still (drawAsk s).1 = still s := rfl
@[simp] theorem still_awaitAck (s : State) (path : Path) (x d : Nat) (v : List Nat) (c : Option (BitVec 2)) (m : BitVec 2) (p : List Nat) (n : Nat) :
    still (awaitAck s path x d v c m p n) = still s := rfl
@[simp] theorem still_keepCopy (s : State) (x : Nat) (p : Packet) : still (keepCopy s x p) = still s := rfl
@[simp] theorem still_dropClean (s : State) : still (dropClean s) = still s := rfl
@[simp] theorem still_noteL1 (s : State) (l : List Nat) : still (noteL1 s l) = still s := by
  unfold noteL1; split <;> rfl
@[simp] theorem still_loseL1 (s : State) (k : Nat) (l : List Nat) : still (loseL1 s k l) = still s := by
  unfold loseL1; split <;> simp

@[simp] theorem still_homeWrite (s : State) (p k : Nat) (bs : List Byte) : still (homeWrite s p k bs) = still s := by
  unfold homeWrite; (repeat' split) <;> rfl

@[simp] theorem still_writeThrough (s : State) (p d k : Nat) (bs : List Byte) (g : Bool) :
    still (writeThrough s p d k bs g) = still s := by
  unfold writeThrough; simp only [still_homeWrite]; split <;> rfl

@[simp] theorem still_writeBackWords (s : State) (sec : Nat) (w : BitVec 16) : still (writeBackWords s sec w) = still s := by
  have f : ∀ l : List (Nat × Byte), still (l.foldl (fun u e => writeThrough u s.me.task.part (coreDie s.me.id) e.1 [e.2] true) s) = still s :=
    fun l => still_foldl (fun _ _ => still_writeThrough ..) l s
  unfold writeBackWords; dsimp only; (repeat' split) <;> simp [f]

@[simp] theorem still_l1Room (s : State) (k : Nat) : still (l1Room s k) = still s := by
  unfold l1Room; dsimp only; (repeat' split) <;> simp

@[simp] theorem still_l1Store (s : State) (k : Nat) (bs : List Byte) : still (l1Store s k bs) = still s := by
  unfold l1Store; simp

@[simp] theorem still_writeBackAll (s : State) : still (writeBackAll s) = still s :=
  still_foldl (fun _ _ => still_writeBackWords ..) _ _

@[simp] theorem still_flushSector (s : State) (k : Nat) : still (flushSector s k) = still s := by
  unfold flushSector; simp

@[simp] theorem still_invalidate (s : State) (n : Nat) : still (invalidate s n) = still s := by
  unfold invalidate; (repeat' split) <;> rfl

@[simp] theorem still_releaseScope (s : State) (n : Nat) : still (releaseScope s n) = still s := by
  unfold releaseScope; split <;> simp

@[simp] theorem still_rvEnsure (s : State) (d k : Nat) : still (rvEnsure s d k) = still s := by
  unfold rvEnsure; (repeat' split) <;> rfl

@[simp] theorem still_fillSector (s : State) (k : Nat) : still (fillSector s k) = still s := by
  unfold fillSector; dsimp only; split <;> simp

@[simp] theorem still_loadBytes (s : State) (l k n : Nat) (g : Bool) : still (loadBytes s l k n g).1 = still s := by
  unfold loadBytes; dsimp only; (repeat' split) <;> simp

@[simp] theorem still_logLoad (s : State) (e : LqEntry) : still (logLoad s e) = still s := rfl

@[simp] theorem still_actAt (s : State) (n : Nat) : still (actAt s n) = still s := rfl

@[simp] theorem still_performHead (s : State) : still (performHead s) = still s := by
  unfold performHead; (repeat' split) <;> (try simp) <;> rfl

@[simp] theorem still_putPacket (s : State) (p l : Nat) (k : Packet) : still (putPacket s p l k) = still s := by
  unfold putPacket; (repeat' split) <;> rfl

@[simp] theorem still_sendPacket (s : State) (p l d e x : Nat) (b : PacketBody) : still (sendPacket s p l d e x b) = still s :=
  still_putPacket ..

@[simp] theorem still_atomicStep (s : State) (e : SqEntry) (a : AtomicOp) : still (atomicStep s e a) = still s := by
  unfold atomicStep; dsimp only; (repeat' split) <;> simp

@[simp] theorem still_departHead (s : State) : still (departHead s) = still s := by
  unfold departHead; dsimp only; (repeat' split) <;> (try simp) <;> rfl

@[simp] theorem still_departDue (s : State) : still (departDue s) = still s := by
  unfold departDue; (repeat' split) <;> simp

@[simp] theorem still_performAllN (n : Nat) (s : State) : still (performAllN n s) = still s := by
  induction n generalizing s with
  | zero => rfl
  | succ k ih => unfold performAllN; (repeat' split) <;> simp [ih]

@[simp] theorem still_performAll (s : State) : still (performAll s) = still s := still_performAllN ..

@[simp] theorem still_departUpTo (n l : Nat) (s : State) : still (departUpTo n l s) = still s := by
  induction n generalizing s with
  | zero => rfl
  | succ k ih => unfold departUpTo; (repeat' split) <;> simp [ih]

@[simp] theorem still_departAtomics (s : State) : still (departAtomics s) = still s := by
  unfold departAtomics; split <;> simp

@[simp] theorem still_drainStepC (s : State) : still (drainStepC s) = still s := by
  unfold drainStepC; (repeat' split) <;> simp

@[simp] theorem still_drainCN (n : Nat) (s : State) : still (drainCN n s) = still s := by
  induction n generalizing s with
  | zero => rfl
  | succ k ih => unfold drainCN; simp [ih]

@[simp] theorem still_drainC (s : State) : still (drainC s) = still s := still_drainCN ..

@[simp] theorem still_departAllN (n : Nat) (s : State) : still (departAllN n s) = still s := by
  induction n generalizing s with
  | zero => rfl
  | succ k ih => unfold departAllN; (repeat' split) <;> simp [ih]

@[simp] theorem still_departAll (s : State) : still (departAll s) = still s := still_departAllN ..

@[simp] theorem still_settleOwed (i : Instr) (s : State) : still (settleOwed i s) = still s := by
  unfold settleOwed; split <;> simp

/-- The form a word stands in is the one its operands are read in. -/
@[simp] theorem settleOwed_form (i : Instr) (s : State) : (settleOwed i s).me.form = s.me.form :=
  congrArg Still.form (still_settleOwed i s)

@[simp] theorem settleOwed_flow (i : Instr) (s : State) : (settleOwed i s).me.flow = s.me.flow :=
  congrArg Still.flow (still_settleOwed i s)

@[simp] theorem settleOwed_eng (i : Instr) (s : State) : (settleOwed i s).me.eng = s.me.eng :=
  congrArg Still.eng (still_settleOwed i s)

@[simp] theorem settleOwed_id (i : Instr) (s : State) : (settleOwed i s).me.id = s.me.id :=
  congrArg Still.id (still_settleOwed i s)

@[simp] theorem settleOwed_run (i : Instr) (s : State) : (settleOwed i s).me.run = s.me.run :=
  congrArg Still.run (still_settleOwed i s)

@[simp] theorem settleOwed_csr (i : Instr) (s : State) : (settleOwed i s).me.csr = s.me.csr :=
  congrArg Still.csr (still_settleOwed i s)

@[simp] theorem settleOwed_task (i : Instr) (s : State) : (settleOwed i s).me.task = s.me.task :=
  congrArg Still.task (still_settleOwed i s)

@[simp] theorem settleOwed_text (i : Instr) (s : State) : (settleOwed i s).me.text = s.me.text :=
  congrArg Still.text (still_settleOwed i s)

@[simp] theorem settleOwed_map (i : Instr) (s : State) : (settleOwed i s).me.map = s.me.map :=
  congrArg Still.map (still_settleOwed i s)

/-- The logical word at a slice's word is read from text, slice map and flow (18 R344). -/
theorem insnOf_settleOwed (i : Instr) (s : State) : insnOf (settleOwed i s) i = insnOf s i := by
  simp [insnOf, bytesAt, logicalPc, logicalUnit, resumeAt]

/-- Where no older load or atomic owes a register, the operands are read as the state holds them. -/
theorem settleOwed_of_none {s : State} (i : Instr) (h : owed s.me = []) : settleOwed i s = s := by
  unfold settleOwed; simp [h]

end Sys2Proof.Machine
end

