-- ==== Sys2Proof/Laws/Issue.lean ====
section
/-! SUPPORT. What issuing a word answers, once for every word: by what its effect answers where it issues, and for an ill-formed
word, a core that does not run and a word that must wait. -/

namespace Sys2Proof.Machine

/-- A word that issues acts on the state `issuedIn` gives, and what its effect answers is finished. -/
theorem issue_eq {i : Instr} {s t : State} {body : State → Res} (h : issuedIn i s = some t) :
    issue i body s = .next (match s.me.form with
      | .logical => finish i s (body t)
      | .slices => match body t with
        | .wait u w => stall (giveBack i u) w
        | .raise u r => finish i (settleOwed i s) (.raise (giveBack i u) r)
        | .done u => finish i (settleOwed i s) (.done (noteGated i (settleOwed i s) u))
        | r => finish i (settleOwed i s) r) := by
  unfold issuedIn at h
  split at h
  · exact absurd h (by simp)
  · rename_i hn
    rw [not_or] at hn
    obtain ⟨h1, h2⟩ := hn
    unfold issue
    rw [if_neg h1, if_neg h2]
    cases hf : s.me.form with
    | logical => simp only [hf] at h ⊢; rw [← Option.some.inj h]
    | slices =>
      simp only [hf] at h ⊢
      unfold issueSlice
      cases ha : admitSlice i (settleOwed i s) with
      | none => simp [ha] at h
      | some u =>
        simp only [ha] at h ⊢
        have hx : (if (annOf (settleOwed i s).me (settleOwed i s).me.eng (settleOwed i s).me.flow)[15] then
            segCheck (settleOwed i s).me (segCount i (settleOwed i s).me.flow) else none) = none := by
          rcases Option.eq_none_or_eq_some (if (annOf (settleOwed i s).me (settleOwed i s).me.eng (settleOwed i s).me.flow)[15] then
            segCheck (settleOwed i s).me (segCount i (settleOwed i s).me.flow) else none) with e | ⟨c, e⟩
          · exact e
          · rw [e] at h; exact absurd h (by simp)
        rw [hx] at h ⊢
        have hu : u = t := by simpa using h
        subst hu
        cases body u <;> rfl

theorem finish_done (i : Instr) (s u : State) : finish i s (.done u) =
    match s.me.form with | .logical => complete i.units u .fall | .slices => completeSlice i s u .fall := rfl

/-- A word whose effect is done completes. -/
theorem issue_done {i : Instr} {s t u : State} {body : State → Res} (h : issuedIn i s = some t) (hb : body t = .done u) :
    issue i body s = .next (completed i s u .fall) := by
  rw [issue_eq h, hb]; unfold completed
  cases hf : s.me.form <;> simp [finish, hf]

/-- A word that skips completes to the PC it skips to. -/
theorem issue_skip {i : Instr} {s t u : State} {pc : Word} {body : State → Res} (h : issuedIn i s = some t)
    (hb : body t = .skip u pc) : issue i body s = .next (completed i s u (.skip pc)) := by
  rw [issue_eq h, hb]; unfold completed
  cases hf : s.me.form <;> simp [finish, hf]

/-- A flow word taken to a PC of its own text completes there. -/
theorem issue_jump {i : Instr} {s t u : State} {pc : Word} {body : State → Res} (h : issuedIn i s = some t)
    (hb : body t = .jump u pc) : issue i body s = .next (completed i s u (.taken pc)) := by
  rw [issue_eq h, hb]; unfold completed
  cases hf : s.me.form <;> simp [finish, hf]

/-- A branch taken completes at its logical PC. -/
theorem issue_branch {i : Instr} {s t u : State} {pc : Word} {body : State → Res} (h : issuedIn i s = some t)
    (hb : body t = .branch u pc) : issue i body s = .next (completed i s u (.taken (ownPc u.me pc))) := by
  rw [issue_eq h, hb]; unfold completed
  cases hf : s.me.form <;> simp [finish, hf]

/-- A word whose effect is the end of its own core's task, or a return, answers that state. -/
theorem issue_gone {i : Instr} {s t u : State} {body : State → Res} (h : issuedIn i s = some t) (hb : body t = .gone u) :
    issue i body s = .next u := by
  rw [issue_eq h, hb]; cases hf : s.me.form <;> simp [finish]

/-- A word that must wait waits. -/
theorem issue_wait {i : Instr} {s t u : State} {w : Wait} {body : State → Res} (h : issuedIn i s = some t)
    (hb : body t = .wait u w) : issue i body s = .next (waiting i s u w) := by
  rw [issue_eq h, hb]; unfold waiting givenBack
  cases hf : s.me.form <;> simp [finish]

/-- A word whose effect raises a code raises it. -/
theorem issue_raise {i : Instr} {s t u : State} {r : Raise} {body : State → Res} (h : issuedIn i s = some t)
    (hb : body t = .raise u r) :
    issue i body s = .next (raiseCode (givenBack i s u) { r with insn := insnOf s i, origin := originOf s i r }) := by
  rw [issue_eq h, hb]
  have e := insnOf_settleOwed i s
  unfold givenBack
  cases hf : s.me.form <;> simp [finish, originOf, hf, e]

/-- A core that does not run issues nothing. -/
theorem issue_idle {i : Instr} {s : State} {body : State → Res} (h : s.me.run ≠ .running) : issue i body s = .next s := by
  unfold issue; rw [if_pos h]

/-- An ill-formed word raises 0x0102 (05 R102). -/
theorem issue_ill {i : Instr} {s : State} {body : State → Res} (h : s.me.run = .running)
    (hw : i.wfIn (s.me.form == .slices) = false) : issue i body s = .next (finish i s (.fail s 0x0102)) := by
  unfold issue; rw [if_neg (by simp [h]), if_pos hw]

/-- A word issued answers a next state whatever its effect. -/
theorem issue_next (i : Instr) (s : State) (body : State → Res) : ∃ u, issue i body s = .next u := ⟨_, rfl⟩

/-- In logical text a well-formed word of a running core issues. -/
theorem issuedIn_logical {i : Instr} {s : State} (hr : s.me.run = .running) (hf : s.me.form = .logical)
    (hw : i.wfIn false = true) : issuedIn i s = some (settleOwed i s) := by
  have hb : (Form.logical == Form.slices) = false := rfl
  unfold issuedIn; simp [hr, hf, hb, hw]

end Sys2Proof.Machine
end

