-- ==== Sys2Proof/Laws/Memory.lean ====
section
/-! SUPPORT. Laws of the byte memory: what a read gives after a write, and that every operation keeps the canonical form. -/

namespace Sys2Proof.Machine

/-- Every entry of a memory lies above an address. -/
def allAbove (m : List Host.Cell) (a : Nat) : Prop := ∀ c ∈ m, a < c.1

theorem allAbove_cons {c : Host.Cell} {m : List Host.Cell} {x : Nat} : allAbove (c :: m) x ↔ x < c.1 ∧ allAbove m x := by
  simp only [allAbove, List.forall_mem_cons]

theorem allAbove_mono {m : List Host.Cell} {x y : Nat} (h : allAbove m y) (hx : x < y) : allAbove m x :=
  fun c hc => Nat.lt_trans hx (h c hc)

theorem wf_cons {a : Nat} {b : Byte} {m : List Host.Cell} :
    Memory.wf ((a, b) :: m) = true ↔ b ≠ emptyByte ∧ allAbove m a ∧ Memory.wf m = true := by
  induction m generalizing a b with
  | nil => simp [Memory.wf, allAbove]
  | cons c rest ih =>
    obtain ⟨k, v⟩ := c
    rw [Memory.wf]
    simp only [Bool.and_eq_true, bne_iff_ne, decide_eq_true_eq, allAbove_cons]
    exact ⟨fun ⟨⟨h1, h2⟩, h3⟩ => ⟨h1, ⟨h2, allAbove_mono (ih.mp h3).2.1 h2⟩, h3⟩, fun ⟨h1, h2, h3⟩ => ⟨⟨h1, h2.1⟩, h3⟩⟩

@[simp] theorem wf_nil : Memory.wf [] = true := rfl

theorem cellSet_above {m : List Host.Cell} {x a : Nat} {v : Byte} (h : allAbove m x) (ha : x < a) : allAbove (cellSet m a v) x := by
  induction m with
  | nil =>
    simp only [cellSet]
    split <;> simp [allAbove, ha]
  | cons c rest ih =>
    obtain ⟨hk, hr⟩ := allAbove_cons.mp h
    have put : allAbove ((a, v) :: rest) x := allAbove_cons.mpr ⟨ha, hr⟩
    simp only [cellSet]
    split
    · split
      · exact h
      · exact allAbove_cons.mpr ⟨ha, h⟩
    · split
      · split
        · exact hr
        · exact put
      · exact allAbove_cons.mpr ⟨hk, ih hr⟩

theorem cellSet_wf {m : List Host.Cell} {a : Nat} {v : Byte} (h : Memory.wf m = true) : Memory.wf (cellSet m a v) = true := by
  induction m with
  | nil =>
    simp only [cellSet]; split
    · rfl
    · rename_i hv; exact wf_cons.mpr ⟨hv, by simp [allAbove], rfl⟩
  | cons c rest ih =>
    obtain ⟨k, b⟩ := c
    obtain ⟨h1, h2, h3⟩ := wf_cons.mp h
    simp only [cellSet]
    split
    · rename_i hlt; split
      · exact h
      · rename_i hv
        exact wf_cons.mpr ⟨hv, allAbove_cons.mpr ⟨hlt, allAbove_mono h2 hlt⟩, h⟩
    · split
      · rename_i hk; split
        · exact h3
        · rename_i hv; subst hk; exact wf_cons.mpr ⟨hv, h2, h3⟩
      · exact wf_cons.mpr ⟨h1, cellSet_above h2 (by omega), ih h3⟩

theorem cellsSet_wf {m : List Host.Cell} {a : Nat} {bs : List Byte} (h : Memory.wf m = true) :
    Memory.wf (cellsSet m a bs) = true := by
  induction bs generalizing m a with
  | nil => exact h
  | cons b rest ih => exact ih (cellSet_wf h)

theorem filter_wf {m : List Host.Cell} {p : Host.Cell → Bool} (h : Memory.wf m = true) : Memory.wf (m.filter p) = true := by
  induction m with
  | nil => rfl
  | cons c rest ih =>
    obtain ⟨k, b⟩ := c
    obtain ⟨h1, h2, h3⟩ := wf_cons.mp h
    rw [List.filter_cons]
    split
    · exact wf_cons.mpr ⟨h1, fun c hc => h2 c (List.mem_filter.mp hc).1, ih h3⟩
    · exact ih h3

theorem cellsClear_wf {m : List Host.Cell} {lo n : Nat} (h : Memory.wf m = true) : Memory.wf (cellsClear m lo n) = true :=
  filter_wf h

theorem cellsPut_wf {m : List Host.Cell} {lo : Nat} {sl : List Host.Cell} (h : Memory.wf m = true) :
    Memory.wf (cellsPut m lo sl) = true := by
  unfold cellsPut
  induction sl generalizing m with
  | nil => exact h
  | cons c rest ih => exact ih (cellSet_wf h)

/-! Reads after writes. -/

theorem cellGet_above {m : List Host.Cell} {a : Nat} (h : allAbove m a) : cellGet m a = emptyByte := by
  cases m with
  | nil => rfl
  | cons c rest =>
    obtain ⟨k, b⟩ := c
    have : a < k := h (k, b) (List.mem_cons_self)
    simp only [cellGet]; rw [if_neg (by omega), if_pos this]

/-- A read of one byte after a write of one byte. -/
theorem cellGet_cellSet {m : List Host.Cell} {a b : Nat} {v : Byte} (h : Memory.wf m = true) :
    cellGet (cellSet m a v) b = if b = a then v else cellGet m b := by
  induction m with
  | nil =>
    simp only [cellSet]
    split
    · rename_i hv; simp [cellGet]; intro; exact hv.symm
    · simp only [cellGet]
      by_cases hb : a = b
      · simp [hb]
      · rw [if_neg hb, if_neg (Ne.symm hb)]; simp
  | cons c rest ih =>
    obtain ⟨k, x⟩ := c
    obtain ⟨h1, h2, h3⟩ := wf_cons.mp h
    have hget : ∀ y, allAbove rest y → cellGet rest y = emptyByte := fun y hy => cellGet_above hy
    simp only [cellSet]
    by_cases h4 : a < k
    · rw [if_pos h4]
      by_cases hv : v = emptyByte
      · rw [if_pos hv]
        by_cases hb : b = a
        · subst hb; rw [if_pos rfl]; simp only [cellGet]; rw [if_neg (by omega), if_pos h4, hv]
        · rw [if_neg hb]
      · rw [if_neg hv]
        simp only [cellGet]
        by_cases hb : b = a
        · subst hb; simp
        · rw [if_neg (Ne.symm hb), if_neg hb]
          by_cases hba : b < a
          · rw [if_pos hba, if_neg (by omega), if_pos (by omega)]
          · rw [if_neg hba]
    · rw [if_neg h4]
      by_cases hk : k = a
      · rw [if_pos hk]
        subst hk
        by_cases hv : v = emptyByte
        · rw [if_pos hv]
          by_cases hb : b = k
          · subst hb; rw [if_pos rfl, hget b h2, hv]
          · rw [if_neg hb]; simp only [cellGet]; rw [if_neg (Ne.symm hb)]
            by_cases hbk : b < k
            · rw [if_pos hbk]; exact hget b (fun c hc => Nat.lt_trans hbk (h2 c hc))
            · rw [if_neg hbk]
        · rw [if_neg hv]; simp only [cellGet]
          by_cases hb : b = k
          · subst hb; simp
          · rw [if_neg (Ne.symm hb), if_neg hb, if_neg (Ne.symm hb)]
      · rw [if_neg hk]; simp only [cellGet, ih h3]
        by_cases hb : b = a
        · subst hb; rw [if_neg hk, if_neg h4]; simp
        · simp [hb]

/-- A byte outside the bytes written reads as before. -/
theorem cellGet_cellsSet_out {m : List Host.Cell} {a b : Nat} {bs : List Byte} (h : Memory.wf m = true)
    (hb : b < a ∨ a + bs.length ≤ b) : cellGet (cellsSet m a bs) b = cellGet m b := by
  induction bs generalizing m a with
  | nil => rfl
  | cons v rest ih =>
    simp only [List.length_cons] at hb
    simp only [cellsSet]
    rw [ih (cellSet_wf h) (by omega), cellGet_cellSet h, if_neg (by omega)]

/-- A byte written reads as written. -/
theorem cellGet_cellsSet_in {m : List Host.Cell} {a i : Nat} {bs : List Byte} (h : Memory.wf m = true) (hi : i < bs.length) :
    cellGet (cellsSet m a bs) (a + i) = bs[i] := by
  induction bs generalizing m a i with
  | nil => simp at hi
  | cons v rest ih =>
    simp only [cellsSet]
    cases i with
    | zero => rw [cellGet_cellsSet_out (cellSet_wf h) (by omega), cellGet_cellSet h]; simp
    | succ j =>
      have := ih (m := cellSet m a v) (a := a + 1) (i := j) (cellSet_wf h) (by simpa using hi)
      rw [show a + (j + 1) = a + 1 + j by omega, this]; simp

theorem cellsGet_length (m : List Host.Cell) (a n : Nat) : (cellsGet m a n).length = n := by
  induction n generalizing a with
  | zero => rfl
  | succ k ih => simp [cellsGet, ih]

/-- What was written is read back. -/
theorem cellsGet_cellsSet {m : List Host.Cell} {a : Nat} {bs : List Byte} (h : Memory.wf m = true) :
    cellsGet (cellsSet m a bs) a bs.length = bs := by
  have key : ∀ (n a0 : Nat) (l : List Host.Cell) (f : Nat → Byte), (∀ i, i < n → cellGet l (a0 + i) = f i) →
      cellsGet l a0 n = (List.range n).map f := by
    intro n
    induction n with
    | zero => intros; rfl
    | succ k ih =>
      intro a0 l f hf
      rw [cellsGet, List.range_succ_eq_map, List.map_cons, List.map_map,
          ih (a0 + 1) l (f ∘ Nat.succ) (fun i hi => by rw [show a0 + 1 + i = a0 + (i + 1) by omega]; exact hf (i + 1) (by omega))]
      congr 1; simpa using hf 0 (by omega)
  rw [key bs.length a _ (fun i => bs.getD i 0) (fun i hi => by rw [cellGet_cellsSet_in h hi]; simp [hi])]
  apply List.ext_getElem
  · simp
  · intro i h1 h2; simp [h2]

end Sys2Proof.Machine
end

