-- ==== Sys2Proof/Laws/Keeps.lean ====
section
/-! SUPPORT. The operations over memory keep its canonical form: the home's own writes, freeing tile storage, translation, and
the steps of the memory machine's C and S paths (11 R212, R219). -/

namespace Sys2Proof.Machine

theorem kept_of_mem {s t : State} (e : t.mem = s.mem) (h : StateInv s) : StateInv t := by
  unfold StateInv at *; rw [e]; exact h

theorem kept_foldl {α : Type} {f : State → α → State} (hf : ∀ u a, StateInv u → StateInv (f u a)) (l : List α) {s : State}
    (h : StateInv s) : StateInv (l.foldl f s) := by
  induction l generalizing s with
  | nil => exact h
  | cons a rest ih => exact ih (hf s a h)

section
variable {s : State}

@[simp] theorem kept_mapRegs (h : StateInv s) (f : Regs → Regs) : StateInv (mapRegs s f) := h
@[simp] theorem kept_setX (h : StateInv s) (i : BitVec 6) (v : Word) : StateInv (setX s i v) := h
@[simp] theorem kept_setL1 (h : StateInv s) (l : List (Nat × L1Byte)) : StateInv (setL1 s l) := h
@[simp] theorem kept_updPart (h : StateInv s) (p : Nat) (f : Partition → Partition) : StateInv (updPart s p f) := h
@[simp] theorem kept_updCrew (h : StateInv s) (p : Nat) (f : Crew → Crew) : StateInv (updCrew s p f) := h
@[simp] theorem kept_updVer (h : StateInv s) (p : Nat) (f : Version → Version) : StateInv (updVer s p f) := h
@[simp] theorem kept_updLaunch (h : StateInv s) (p : Nat) (f : Launch → Launch) : StateInv (updLaunch s p f) := h
@[simp] theorem kept_bump (h : StateInv s) (p i : Nat) : StateInv (bump s p i) := h
@[simp] theorem kept_setMark (h : StateInv s) (k : Nat) (m : Mark) : StateInv (setMark s k m) := h
@[simp] theorem kept_clearMark (h : StateInv s) (k : Nat) : StateInv (clearMark s k) := h
@[simp] theorem kept_rvUpdate (h : StateInv s) (d k : Nat) (bs : List Byte) : StateInv (rvUpdate s d k bs) := h
@[simp] theorem kept_rvDrop (h : StateInv s) (d k : Nat) : StateInv (rvDrop s d k) := h
@[simp] theorem kept_rvFill (h : StateInv s) (d k : Nat) : StateInv (rvFill s d k) := h
@[simp] theorem kept_postEvent (h : StateInv s) (c p l f n : Nat) : StateInv (postEvent s c p l f n) := h
@[simp] theorem kept_drawAsk (h : StateInv s) : StateInv (drawAsk s).1 := h
@[simp] theorem kept_drawXid (h : StateInv s) : StateInv (drawXid s).1 := h
@[simp] theorem kept_awaitAck (h : StateInv s) (path : Path) (x d : Nat) (v : List Nat) (c : Option (BitVec 2)) (m : BitVec 2)
    (p : List Nat) (n : Nat) : StateInv (awaitAck s path x d v c m p n) := h
@[simp] theorem kept_actAt (h : StateInv s) (n : Nat) : StateInv (actAt s n) := h
@[simp] theorem kept_dropAwait (h : StateInv s) (x m : Nat) : StateInv (dropAwait s x m) := h
@[simp] theorem kept_ackHere (h : StateInv s) (c : SCmd) (bs : List Byte) : StateInv (ackHere s c bs) := h
@[simp] theorem kept_keepCopy (h : StateInv s) (x : Nat) (p : Packet) : StateInv (keepCopy s x p) := h
@[simp] theorem kept_dropClean (h : StateInv s) : StateInv (dropClean s) := h
@[simp] theorem kept_noteL1 (h : StateInv s) (l : List Nat) : StateInv (noteL1 s l) := by
  unfold noteL1; split <;> exact h
@[simp] theorem kept_loseL1 (h : StateInv s) (k : Nat) (l : List Nat) : StateInv (loseL1 s k l) := by
  unfold loseL1; split
  · exact h
  · exact kept_noteL1 h l

@[simp] theorem kept_countMark (h : StateInv s) (p k : Nat) (m : Mark) : StateInv (countMark s p k m) := by
  unfold countMark; (repeat' split) <;> exact h

@[simp] theorem kept_noteSoft (h : StateInv s) (p k : Nat) : StateInv (noteSoft s p k) := by
  unfold noteSoft; split <;> exact h

@[simp] theorem kept_noteSofts (h : StateInv s) (p : Nat) (l : List Nat) : StateInv (noteSofts s p l) := by
  unfold noteSofts; split
  · exact h
  · exact kept_foldl (fun _ _ hu => kept_noteSoft hu ..) _ h

@[simp] theorem kept_homeWrite (h : StateInv s) (p k : Nat) (bs : List Byte) : StateInv (homeWrite s p k bs) := by
  have e : Memory.wf (cellsSet s.mem k bs) = true := cellsSet_wf h
  unfold homeWrite; (repeat' split) <;> exact e

theorem foldl_clear_wf (l : List Version) {m : List Host.Cell} (h : Memory.wf m = true) :
    Memory.wf (l.foldl (fun m v => cellsClear m (versionKey v.id 0) (2 ^ v.k)) m) = true := by
  induction l generalizing m with
  | nil => exact h
  | cons a rest ih => exact ih (cellsClear_wf h)

@[simp] theorem kept_freeVersions (h : StateInv s) : StateInv (freeVersions s) := foldl_clear_wf _ h

@[simp] theorem kept_putPacket (h : StateInv s) (p l : Nat) (k : Packet) : StateInv (putPacket s p l k) := by
  unfold putPacket; (repeat' split) <;> exact h

@[simp] theorem kept_sendFrom (h : StateInv s) (i p l d e x : Nat) (b : PacketBody) : StateInv (sendFrom s i p l d e x b) :=
  kept_putPacket h ..

@[simp] theorem kept_sendPacket (h : StateInv s) (p l d e x : Nat) (b : PacketBody) : StateInv (sendPacket s p l d e x b) :=
  kept_putPacket h ..

@[simp] theorem kept_writeThrough (h : StateInv s) (p d k : Nat) (bs : List Byte) (g : Bool) :
    StateInv (writeThrough s p d k bs g) := by
  unfold writeThrough; apply kept_homeWrite; split <;> exact h

@[simp] theorem kept_writeBackWords (h : StateInv s) (sec : Nat) (w : BitVec 16) : StateInv (writeBackWords s sec w) := by
  have f : ∀ l : List (Nat × Byte),
      StateInv (l.foldl (fun u e => writeThrough u s.me.task.part (coreDie s.me.id) e.1 [e.2] true) s) :=
    fun l => kept_foldl (fun _ _ hu => kept_writeThrough hu ..) l h
  unfold writeBackWords; dsimp only; (repeat' split) <;>
    repeat with_reducible (first | exact h | exact f _ | apply kept_setL1 | apply kept_loseL1 | apply kept_writeThrough)

@[simp] theorem kept_l1Room (h : StateInv s) (k : Nat) : StateInv (l1Room s k) := by
  unfold l1Room; dsimp only; (repeat' split) <;> repeat with_reducible (first | exact h | apply kept_setL1 | apply kept_writeBackWords)

@[simp] theorem kept_l1Store (h : StateInv s) (k : Nat) (bs : List Byte) : StateInv (l1Store s k bs) :=
  kept_setL1 (kept_l1Room h _) _

@[simp] theorem kept_writeOverdue (h : StateInv s) : StateInv (writeOverdue s) :=
  kept_foldl (fun _ _ hu => kept_writeBackWords hu ..) _ h

@[simp] theorem kept_writeBackAll (h : StateInv s) : StateInv (writeBackAll s) :=
  kept_foldl (fun _ _ hu => kept_writeBackWords hu ..) _ h

@[simp] theorem kept_flushSector (h : StateInv s) (k : Nat) : StateInv (flushSector s k) :=
  kept_setL1 (kept_writeBackWords h ..) _

@[simp] theorem kept_invalidate (h : StateInv s) (n : Nat) : StateInv (invalidate s n) := by
  unfold invalidate; (repeat' split) <;> exact h

@[simp] theorem kept_releaseScope (h : StateInv s) (n : Nat) : StateInv (releaseScope s n) := by
  unfold releaseScope; split
  · exact h
  · exact kept_writeBackAll h

@[simp] theorem kept_rvEnsure (h : StateInv s) (d k : Nat) : StateInv (rvEnsure s d k) := by
  unfold rvEnsure; (repeat' split) <;> exact h

@[simp] theorem kept_fillSector (h : StateInv s) (k : Nat) : StateInv (fillSector s k) := by
  unfold fillSector
  refine kept_setL1 (kept_l1Room (kept_rvEnsure ?_ ..) _) _
  split
  · exact kept_noteSoft h ..
  · exact h

/-! Translation and the checks of an access. -/

@[simp] theorem kept_translate (h : StateInv s) (p : Partition) (va : Nat) (wr : Bool) : StateInv (translate s p va wr).1 := by
  have fin : ∀ r : State × Except Nat TlbEntry, StateInv r.1 → StateInv (match r with
      | (t, .error c) => (t, Except.error c)
      | (t, .ok e) =>
        match partKey p (e.pa + (va - e.va)) with
        | none => (t, Except.error 0x0202)
        | some k => if (if wr then e.wr else e.rd) then (t, Except.ok k) else (t, Except.error 0x0202)).1 := by
    rintro ⟨t, _ | e⟩ ht
    · exact ht
    · dsimp only; split
      · exact ht
      · cases (if wr then e.wr else e.rd) <;> exact ht
  unfold translate
  apply fin
  split
  · exact h
  · split <;> exact h

@[simp] theorem kept_checkVia (h : StateInv s) (l : List Handle) (a : Nat) (wr : Bool) : StateInv (checkVia s l a wr).1 := by
  unfold checkVia; split
  · dsimp only; (repeat' split) <;> exact h
  · exact h
  · exact h
  · exact h
  · exact h
  · rename_i va _
    have k := kept_translate h (myPart s) va wr
    split <;> rename_i e <;> rw [e] at k <;> exact k

@[simp] theorem kept_checkS (h : StateInv s) (a : Nat) (wr : Bool) : StateInv (checkS s a wr).1 := kept_checkVia h ..

@[simp] theorem kept_checkHandle (h : StateInv s) (n : Nat) (d : Int) (z : Nat) (wr : Bool) : StateInv (checkHandle s n d z wr).1 := by
  unfold checkHandle; (repeat' split) <;> exact h

@[simp] theorem kept_checkAddr (h : StateInv s) (a z : Nat) (wr amo : Bool) : StateInv (checkAddr s a z wr amo).1 := by
  unfold checkAddr; split
  · exact h
  · exact h
  · (repeat' split) <;> exact h
  · (repeat' split) <;> exact h
  · rename_i va _
    have k := kept_translate h (myPart s) va wr
    split
    · exact h
    · split <;> rename_i e <;> rw [e] at k <;> exact k

@[simp] theorem kept_checkC (h : StateInv s) (hb : BitVec 1) (a : BitVec 6) (d : Int) (z : Nat) (wr amo : Bool) :
    StateInv (checkC s hb a d z wr amo).1 := by
  unfold checkC; split
  · exact kept_checkHandle h ..
  · exact kept_checkAddr h ..

theorem kept_checkPrefix (l : List (Nat × Nat)) {s : State} (h : StateInv s) (hs : List Handle) (wr : Bool) :
    StateInv (checkPrefix s hs l wr).1 := by
  induction l generalizing s with
  | nil => exact h
  | cons r rest ih =>
    obtain ⟨a, n⟩ := r
    have k := kept_checkVia h hs a wr
    unfold checkPrefix
    split
    · rename_i t acc e; rw [e] at k; exact ih k
    · rename_i t c _ e; rw [e] at k; exact k

theorem kept_checkRunsVia (l : List (Nat × Nat)) {s : State} (h : StateInv s) (hs : List Handle) (wr : Bool) :
    StateInv (checkRunsVia s hs l wr).1 := by
  have k := kept_checkPrefix l h hs wr
  unfold checkRunsVia
  generalize checkPrefix s hs l wr = r at k ⊢
  obtain ⟨t, ok, c⟩ := r
  (repeat' split) <;> (rename_i e; simp only [Prod.mk.injEq] at e; obtain ⟨rfl, -, -⟩ := e; exact k)

theorem kept_checkRuns (l : List (Nat × Nat)) {s : State} (h : StateInv s) (wr : Bool) : StateInv (checkRuns s l wr).1 :=
  kept_checkRunsVia l h _ wr

/-! The C path. -/

@[simp] theorem kept_loadBytes (h : StateInv s) (l k n : Nat) (g : Bool) : StateInv (loadBytes s l k n g).1 := by
  unfold loadBytes; dsimp only; (repeat' split) <;>
    repeat with_reducible (first | exact h | apply kept_noteL1 | apply kept_fillSector | apply kept_noteSoft)

@[simp] theorem kept_logLoad (h : StateInv s) (e : LqEntry) : StateInv (logLoad s e) := h

@[simp] theorem kept_performHead (h : StateInv s) : StateInv (performHead s) := by
  unfold performHead; split
  · exact h
  · rename_i rest _
    have k : StateInv { s with me := { s.me with lqC := rest } } := h
    dsimp only; (repeat' split) <;>
      first | exact h | exact kept_invalidate k _ | exact kept_setX (kept_logLoad (kept_loadBytes k ..) _) ..

@[simp] theorem kept_atomicStep (h : StateInv s) (e : SqEntry) (a : AtomicOp) : StateInv (atomicStep s e a) := by
  unfold atomicStep; dsimp only; (repeat' split) <;> repeat with_reducible (first | exact h | apply kept_invalidate | apply kept_setX | apply kept_rvDrop | apply kept_homeWrite | apply kept_noteSoft | apply kept_flushSector | apply kept_releaseScope)

@[simp] theorem kept_departHead (h : StateInv s) : StateInv (departHead s) := by
  unfold departHead; split
  · exact h
  · rename_i rest _
    have k : ∀ n, StateInv (actAt { s with me := { s.me with sqC := rest } } n) := fun _ => h
    dsimp only; (repeat' split) <;>
      repeat with_reducible (first | exact k _ | exact h | apply kept_flushSector | apply kept_atomicStep | apply kept_releaseScope | apply kept_putPacket | apply kept_keepCopy | apply kept_awaitAck | apply kept_drawAsk | apply kept_l1Store | apply kept_writeThrough)

@[simp] theorem kept_drainStepC (h : StateInv s) : StateInv (drainStepC s) := by
  unfold drainStepC; (repeat' split) <;> repeat with_reducible (first | exact h | apply kept_performHead | apply kept_departHead)

theorem kept_drainCN (n : Nat) {s : State} (h : StateInv s) : StateInv (drainCN n s) := by
  induction n generalizing s with
  | zero => exact h
  | succ k ih => exact ih (kept_drainStepC h)

@[simp] theorem kept_drainC (h : StateInv s) : StateInv (drainC s) := kept_drainCN _ h

@[simp] theorem kept_departDue (h : StateInv s) : StateInv (departDue s) := by
  unfold departDue; (repeat' split) <;> first | exact h | exact kept_departHead h

theorem kept_performAllN (n : Nat) {s : State} (h : StateInv s) : StateInv (performAllN n s) := by
  induction n generalizing s with
  | zero => exact h
  | succ k ih => unfold performAllN; split; exact h; apply ih; split <;> repeat with_reducible (first | exact h | apply kept_performHead | apply kept_departDue | apply kept_departHead)

@[simp] theorem kept_performAll (h : StateInv s) : StateInv (performAll s) := kept_performAllN _ h

theorem kept_departAllN (n : Nat) {s : State} (h : StateInv s) : StateInv (departAllN n s) := by
  induction n generalizing s with
  | zero => exact h
  | succ k ih => unfold departAllN; split; exact h; apply ih; split <;> repeat with_reducible (first | exact h | apply kept_performHead | apply kept_departDue | apply kept_departHead)

@[simp] theorem kept_departAll (h : StateInv s) : StateInv (departAll s) := kept_departAllN _ h

theorem kept_departUpTo (n l : Nat) {s : State} (h : StateInv s) : StateInv (departUpTo n l s) := by
  induction n generalizing s with
  | zero => exact h
  | succ k ih =>
    unfold departUpTo; split; exact h; split; exact h; apply ih; split <;> repeat with_reducible (first | exact h | apply kept_performHead | apply kept_departDue | apply kept_departHead)

@[simp] theorem kept_departAtomics (h : StateInv s) : StateInv (departAtomics s) := by
  unfold departAtomics; split
  · exact h
  · exact kept_departUpTo _ _ h

@[simp] theorem kept_settleAtomics (h : StateInv s) (k n : Nat) : StateInv (settleAtomics s k n) := by
  unfold settleAtomics; split
  · exact kept_departAtomics h
  · exact h

/-! The S path. -/

@[simp] theorem kept_touchRun (h : StateInv s) (c : List SCmd) (r : SPiece) : StateInv (touchRun s c r) := by
  unfold touchRun; dsimp only; (repeat' split) <;> repeat with_reducible (first | exact h | apply kept_countMark | apply kept_rvEnsure | apply kept_noteSoft)

@[simp] theorem kept_readRun (h : StateInv s) (c : List SCmd) (r : SPiece) : StateInv (readRun s c r).1 := kept_touchRun h c r

theorem kept_readRuns (c : List SCmd) (l : List SPiece) {s : State} (h : StateInv s) : StateInv (readRuns s c l).1 := by
  induction l generalizing s with
  | nil => exact h
  | cons r rest ih => exact ih (kept_readRun h c r)

@[simp] theorem kept_readSector (h : StateInv s) (o : List SCmd) (c : SCmd) (p : SPiece) : StateInv (readSector s o c p).1 :=
  kept_touchRun h ..

theorem kept_readTill (n : Nat) {s : State} (h : StateInv s) (o : List SCmd) (c : SCmd) (i : Nat) (a : Bool) :
    StateInv (readTill n s o c i a).1 := by
  induction n generalizing s c with
  | zero => exact h
  | succ k ih =>
    unfold readTill; split
    · exact h
    · exact ih (kept_readSector h ..) _

theorem kept_readNext (l : List SCmd) {s : State} (h : StateInv s) (o : List SCmd) : StateInv (readNext s o l) := by
  induction l generalizing o with
  | nil => exact h
  | cons c rest ih =>
    unfold readNext; split
    · exact ih _
    · exact kept_readSector h ..

@[simp] theorem kept_applyReduce (h : StateInv s) (p d k op f : Nat) (bs : List Byte) (po g : Bool) :
    StateInv (applyReduce s p d k op f bs po g).1 := by
  unfold applyReduce; dsimp only; (repeat' split) <;> repeat with_reducible (first | exact h | apply kept_setMark | apply kept_bump | apply kept_writeThrough | apply kept_noteSoft)

@[simp] theorem kept_injectFlip (h : StateInv s) (p : Nat) (b : PacketBody) : StateInv (injectFlip s p b).1 := by
  unfold injectFlip; dsimp only; (repeat' split) <;> exact h

@[simp] theorem kept_departBlock (h : StateInv s) (c : SCmd) (w : SWrite) (m : Nat) : StateInv (departBlock s c w m) :=
  kept_of_mem rfl (kept_sendPacket h ..)

@[simp] theorem kept_departAway (h : StateInv s) (c : SCmd) (w : SWrite) (m a : Nat) (v : Option Nat) :
    StateInv (departAway s c w m a v) := by
  unfold departAway; dsimp only; (repeat' split) <;> repeat with_reducible (first | exact h | apply kept_departBlock | apply kept_postEvent | apply kept_dropAwait | apply kept_keepCopy | apply kept_putPacket | apply kept_injectFlip)

@[simp] theorem kept_departWrite (h : StateInv s) (c : SCmd) (w : SWrite) : StateInv (departWrite s c w).1 := by
  unfold departWrite; dsimp only; split
  · split
    · exact kept_applyReduce h ..
    · dsimp only; split <;> repeat with_reducible (first | exact h | apply kept_setMark | apply kept_writeThrough)
  · dsimp only; apply kept_updCrew; split <;> repeat with_reducible (first | exact h | apply kept_setMark | apply kept_homeWrite)
  · exact kept_departAway h ..
  · rename_i addr _
    split
    · exact h
    · have k := kept_checkS h addr true
      split <;> rename_i e <;> rw [e] at k
      · dsimp only at k ⊢; split <;> repeat with_reducible (first | exact k | apply kept_setMark | apply kept_homeWrite)
      · exact k

@[simp] theorem kept_completeCmd (h : StateInv s) (c : SCmd) : StateInv (completeCmd s c) := by
  unfold completeCmd; dsimp only; (repeat' split) <;> exact h

@[simp] theorem kept_awaitAll (h : StateInv s) (c : SCmd) (x : Nat) : StateInv (awaitAll s c x) :=
  kept_foldl (fun _ _ hu => kept_awaitAck hu ..) _ h

@[simp] theorem kept_startCmd (h : StateInv s) (c : SCmd) : StateInv (startCmd s c).1 := by
  unfold startCmd; split
  · exact h
  · split
    · split
      · exact h
      · split
        · have k : ∀ l, StateInv (checkRuns (drawXid s).1 l true).1 := fun l => kept_checkRuns l (kept_drawXid h) true
          dsimp only
          split <;> rename_i e <;> have k := (congrArg (fun r => StateInv r.1) e).mp (k _) <;> exact k
        · exact h
    · dsimp only; (repeat' split) <;> first | exact kept_awaitAll (kept_drawXid h) .. | exact kept_awaitAll (kept_drawAsk h) ..

@[simp] theorem kept_departS (h : StateInv s) : StateInv (departS s) := by
  unfold departS; split
  · exact h
  · rename_i c rest _
    split
    · have k0 := kept_startCmd h c
      dsimp only
      generalize startCmd s c = st at k0 ⊢
      generalize st.2.writes.getD c.sent { dest := .crew 0, src := [], bytes := [], poison := false } = w0
      have kf := kept_readTill (unreadOf st.2).length k0 [] st.2 c.sent (overlapsUnread st.2 (destKey w0.dest) 64)
      generalize readTill (unreadOf st.2).length st.1 [] st.2 c.sent (overlapsUnread st.2 (destKey w0.dest) 64) = fx at kf ⊢
      have kd : ∀ c1 w, StateInv (departWrite (actAt fx.1 c.lsn) c1 w).1 := fun c1 w => kept_departWrite (kept_actAt kf _) c1 w
      (repeat' split) <;> first
        | exact kd _ _ | (apply kept_completeCmd; exact kd _ _)
    · apply kept_completeCmd; exact h

theorem kept_departSN (n : Nat) {s : State} (h : StateInv s) : StateInv (departSN n s) := by
  induction n generalizing s with
  | zero => exact h
  | succ k ih => exact ih (kept_departS h)

@[simp] theorem kept_drainS (h : StateInv s) : StateInv (drainS s) := kept_departSN _ h
@[simp] theorem kept_drainSTo (h : StateInv s) (n : Nat) : StateInv (drainSTo s n) := kept_departSN _ h
@[simp] theorem kept_drainBoth (h : StateInv s) : StateInv (drainBoth s) := kept_drainS (kept_drainC h)
@[simp] theorem kept_drainSBelow (h : StateInv s) (n : Nat) : StateInv (drainSBelow s n) := kept_drainSTo h _
@[simp] theorem kept_acquire (h : StateInv s) (n : Nat) : StateInv (acquire s n) := kept_invalidate (kept_performAll h) n

end

end Sys2Proof.Machine
end

