-- ==== Sys2Proof/Laws/KeepsOps.lean ====
section
/-! SUPPORT. The shared operations every meaning goes through keep memory's canonical form: ending handles, killing and saving a
task, the rebuild, taking an exception and returning from one, completing a word, and issuing it once its meaning does. -/

namespace Sys2Proof.Machine

section
variable {s : State}

/-! Another core's turn. -/

@[simp] theorem kept_focus (h : StateInv s) (g : Nat) : StateInv (focus g s) := by
  unfold focus; split <;> exact h

@[simp] theorem kept_setCore (h : StateInv s) (c : Core) : StateInv (setCore s c) := by
  unfold setCore; split <;> exact h

theorem kept_onCore {f : State → State} (hf : ∀ u, StateInv u → StateInv (f u)) (h : StateInv s) (g : Nat) :
    StateInv (onCore g f s) :=
  kept_focus (hf _ (kept_focus h g)) _

/-! Handles. -/

@[simp] theorem kept_sendSure (h : StateInv s) (p l d : Nat) (v : List Nat) (b : PacketBody) : StateInv (sendSure s p l d v b) := by
  unfold sendSure; dsimp only; split
  · exact kept_sendPacket (kept_drawAsk h) ..
  · exact kept_of_mem rfl (kept_sendPacket (kept_drawAsk h) ..)

@[simp] theorem kept_dropSee (h : StateInv s) (x : Handle) : StateInv (dropSee s x) := by
  unfold dropSee; (repeat' split) <;> repeat with_reducible (first | exact h | apply kept_freeVersions | apply kept_updVer | apply kept_sendSure)

@[simp] theorem kept_sealVer (h : StateInv s) (v : Nat) : StateInv (sealVer s v) := kept_freeVersions (kept_updVer h ..)
@[simp] theorem kept_abandonVer (h : StateInv s) (v : Nat) : StateInv (abandonVer s v) := kept_freeVersions (kept_updVer h ..)

@[simp] theorem kept_sealHandle (h : StateInv s) (x : Handle) : StateInv (sealHandle s x) := by
  unfold sealHandle; (repeat' split) <;> first | exact h | exact kept_sealVer h _ | exact kept_sendSure h ..

@[simp] theorem kept_abandonHandle (h : StateInv s) (x : Handle) : StateInv (abandonHandle s x) := by
  unfold abandonHandle; (repeat' split) <;> first | exact h | exact kept_abandonVer h _ | exact kept_sendSure h ..

@[simp] theorem kept_killHandle (h : StateInv s) (x : Handle) : StateInv (killHandle s x) := by
  unfold killHandle; split
  · exact kept_abandonHandle h x
  · exact kept_dropSee h x

@[simp] theorem kept_killHandles (h : StateInv s) (d : Nat) (e : HReg) : StateInv (killHandles s d e) :=
  kept_mapRegs (kept_foldl (fun _ a hu => kept_killHandle hu a) _ h) _

@[simp] theorem kept_exitHandles (h : StateInv s) : StateInv (exitHandles s) := by
  refine kept_mapRegs (kept_foldl (fun u a hu => ?_) _ h) _
  split
  · exact kept_sealHandle hu a
  · exact kept_dropSee hu a

/-! Tasks leave. -/

@[simp] theorem kept_leaveCrew (h : StateInv s) (c n : Nat) : StateInv (leaveCrew s c n) := h
@[simp] theorem kept_dropPosts (h : StateInv s) (g : Nat) : StateInv (dropPosts s g) := h
@[simp] theorem kept_noteFault (h : StateInv s) (l : Nat) (r : FaultRec) : StateInv (noteFault s l r) := h
@[simp] theorem kept_leaveLaunch (h : StateInv s) (l n : Nat) (f : Launch → Launch) : StateInv (leaveLaunch s l n f) := h

@[simp] theorem kept_arrivePost (h : StateInv s) (p : Nat × Nat × Nat × Nat) : StateInv (arrivePost s p) :=
  kept_onCore (fun _ hu => kept_mapRegs hu _) h _

@[simp] theorem kept_arriveAll (h : StateInv s) (g : Nat) : StateInv (arriveAll s g) :=
  kept_foldl (fun _ p hu => kept_arrivePost hu p) _ (kept_of_mem rfl h)

@[simp] theorem kept_killMe (h : StateInv s) : StateInv (killMe s) :=
  kept_of_mem rfl (kept_killHandles (kept_writeBackAll h) 0 .empty)

theorem kept_asTask {f : State → State} (hf : ∀ u, StateInv u → StateInv (f u)) (h : StateInv s) (t : Task) :
    StateInv (asTask t f s) :=
  kept_of_mem rfl (hf { s with me := { s.me with task := t } } h)

@[simp] theorem kept_killSaved (h : StateInv s) (v : Saved) : StateInv (killSaved s v) :=
  kept_of_mem rfl (kept_asTask (fun _ hu => kept_foldl (fun _ a hw => kept_killHandle hw a) _ hu) h v.core.task)

@[simp] theorem kept_cancelRest (h : StateInv s) (l : Nat) : StateInv (cancelRest s l) := by
  unfold cancelRest; split
  · exact h
  · refine kept_updLaunch (kept_asTask (fun _ hu => ?_) h _) ..
    exact kept_foldl (fun _ _ hw => kept_foldl (fun _ a hx => kept_killHandle hx a) _ hw) _ hu

@[simp] theorem kept_settleCore (h : StateInv s) : StateInv (settleCore s) := kept_dropClean (kept_writeBackAll (kept_drainBoth h))

@[simp] theorem kept_acceptLaunch (h : StateInv s) (p o a : Nat) (r : LaunchRec) (b : Bool) : StateInv (acceptLaunch s p o a r b).1 := h

theorem kept_acceptRest (n : Nat) {s : State} (h : StateInv s) (p : Nat) : StateInv (acceptRest n s p) := by
  induction n generalizing s with
  | zero => exact h
  | succ k ih =>
    unfold acceptRest; split
    · exact h
    · exact ih (kept_acceptLaunch (kept_updPart h _ _) ..)

theorem kept_writeAt (l : List (Nat × Nat)) {s : State} (h : StateInv s) (p : Partition) (bs : List Byte) :
    StateInv (writeAt s p l bs) := by
  induction l generalizing s bs with
  | nil => exact h
  | cons x rest ih =>
    obtain ⟨a, n⟩ := x
    unfold writeAt
    refine ih ?_ _
    have k : StateInv (if a < 2 ^ 52 then translate s p a true else (s, .error 0)).1 := by
      split
      · exact kept_translate h ..
      · exact h
    generalize (if a < 2 ^ 52 then translate s p a true else (s, Except.error 0)) = q at k ⊢
    obtain ⟨u, _ | key⟩ := q
    · dsimp only; (repeat' split) <;> first | exact kept_homeWrite k .. | exact k
    · exact kept_homeWrite k ..

@[simp] theorem kept_takePlace (h : StateInv s) : StateInv (takePlace s) := h

@[simp] theorem kept_writeImage (h : StateInv s) (v : Saved) : StateInv (writeImage s v) := by
  unfold writeImage; split
  · exact kept_writeAt _ h ..
  · exact h

@[simp] theorem kept_saveMe (h : StateInv s) (c : SaveCause) (r : Option Raise) (g : Nat) : StateInv (saveMe s c r g) := by
  have k := kept_takePlace (kept_arriveAll (kept_settleCore h) s.me.id)
  unfold saveMe
  extract_lets t u v
  clear_value v
  have ku : StateInv u := k
  clear_value u
  exact kept_writeImage (s := { u with me := u.me.vacate, saved := u.saved ++ [v] }) ku _

@[simp] theorem kept_haltMe (h : StateInv s) (g : Nat) : StateInv (haltMe s g) := by
  have k := kept_takePlace (kept_settleCore h)
  unfold haltMe
  extract_lets t
  have kt : StateInv t := k
  clear_value t
  exact kept_writeImage (s := { t with me := { t.me.image with run := .halted g true } }) kt _

/-! Time, the record, the rebuild. -/

@[simp] theorem kept_charge (h : StateInv s) : StateInv (charge s) := h

@[simp] theorem kept_recordAt (h : StateInv s) : StateInv (recordAt s).1 := by
  unfold recordAt; split
  · exact h
  · have k := kept_checkAddr h s.me.csr.faultrec.toNat 128 true false
    split <;> rename_i e <;> rw [e] at k <;> exact k

@[simp] theorem kept_writeRecord (h : StateInv s) (a : Acc1) (r : FaultRec) : StateInv (writeRecord s a r) := by
  unfold writeRecord; refine kept_writeThrough (kept_writeThrough ?_ ..) ..
  split
  · exact kept_flushSector (kept_flushSector h _) _
  · exact h

@[simp] theorem kept_firePosts (h : StateInv s) : StateInv (firePosts s) := by
  unfold firePosts
  exact kept_of_mem rfl (kept_foldl (f := fun u p => mapRegs u fun r => postS r p.sem.toNat 1) (fun _ _ hu => kept_mapRegs hu _)
    (s.me.posts.filter (postDue s.me)) h)

@[simp] theorem kept_fireAll (h : StateInv s) : StateInv (fireAll s) := by
  unfold fireAll
  exact kept_of_mem rfl (kept_foldl (f := fun u p => mapRegs u fun r => postS r p.sem.toNat 1) (fun _ _ hu => kept_mapRegs hu _)
    s.me.posts h)

@[simp] theorem kept_cutShort (h : StateInv s) (c : SCmd) : StateInv (cutShort s c) := h

@[simp] theorem kept_settleQueues (h : StateInv s) (f : Nat) (o : Option Nat) : StateInv (settleQueues s f o) := by
  unfold settleQueues
  have k := kept_performAll (s := { s with me := { s.me with
    lqC := s.me.lqC.filter fun e => e.lsn < f, sqC := s.me.sqC.filter fun e => e.lsn < f,
    sqS := s.me.sqS.filter fun c => c.lsn < f, posts := s.me.posts.filter fun p => p.lsn < f } }) h
  dsimp only at k ⊢
  generalize performAll _ = t at k ⊢
  have k2 := kept_foldl (fun _ c hu => kept_cutShort hu c) (t.me.sqS.filter fun c => o.getD f ≤ c.lsn) k
  generalize List.foldl cutShort t _ = u at k2 ⊢
  exact kept_drainBoth (kept_of_mem rfl k2)

@[simp] theorem kept_rebuildTo (h : StateInv s) (f : Nat) (pc : Word) (e : Engine) (o : Option Nat) :
    StateInv (rebuildTo s f pc e o) := by
  unfold rebuildTo
  generalize sortTransit (rewindTo s.me f) f = c
  have k := kept_fireAll (kept_settleQueues (s := { s with me := c }) h f o)
  dsimp only at k ⊢
  generalize fireAll (settleQueues _ f o) = t at k ⊢
  exact k

@[simp] theorem kept_killNow (h : StateInv s) : StateInv (killNow s) := by
  unfold killNow; split
  · exact kept_killMe (kept_rebuildTo h ..)
  · exact kept_killMe h
  · exact kept_killMe h
  · exact kept_killMe h
  · exact h

@[simp] theorem kept_killContext (h : StateInv s) (p : Nat) : StateInv (killContext s p) := by
  unfold killContext
  refine kept_foldl (fun _ _ hu => kept_cancelRest hu _) _ (kept_foldl (fun _ v hu => kept_killSaved hu v) _
    (kept_foldl (fun u c hu => ?_) _ (kept_acceptRest _ h p)))
  split
  · exact kept_onCore (fun _ hw => kept_killNow hw) hu _
  · exact hu

@[simp] theorem kept_faultPolicy (h : StateInv s) (r : Raise) (a : Bool) (told : FaultRec) : StateInv (faultPolicy s r a told) := by
  have k := kept_noteFault h s.me.task.launch told
  unfold faultPolicy; dsimp only; split
  · exact kept_killMe k
  · exact kept_cancelRest (kept_killMe k) _
  · apply kept_updLaunch; split
    · exact kept_killMe k
    · exact kept_saveMe k ..
  · exact kept_killContext (kept_killMe k) _

/-! Where a code goes. -/

@[simp] theorem kept_redirect (h : StateInv s) (pc : Word) (f : Nat) : StateInv (redirect s pc f) := h

@[simp] theorem kept_takeException (h : StateInv s) (r : Raise) (e : Bool) (v : Word) (a : Acc1) :
    StateInv (takeException s r e v a) := by
  have k := kept_writeRecord h a (mkRec s r (readT s.me.regs 7) false)
  unfold takeException
  generalize writeRecord s a (mkRec s r (readT s.me.regs 7) false) = t at k ⊢
  exact k

@[simp] theorem kept_returnException (h : StateInv s) (f : Nat) : StateInv (returnException s f) := h
@[simp] theorem kept_tellHost (h : StateInv s) (r : Raise) (b : Bool) : StateInv (tellHost s r b) := h
@[simp] theorem kept_toPolicy (h : StateInv s) (r : Raise) (a b : Bool) : StateInv (toPolicy s r a b) :=
  kept_faultPolicy (kept_tellHost h r b) r a _

theorem kept_unwind (n : Nat) {s : State} (h : StateInv s) (r : Raise) (b : Bool) : StateInv (unwind n s r b) := by
  induction n generalizing s r with
  | zero =>
    unfold unwind; split
    · exact kept_toPolicy h ..
    · extract_lets depth t1 src t2 w fr t3
      have k2 : StateInv t2 := kept_killHandles h depth .empty
      have k3 : StateInv w.1 := kept_recordAt k2
      clear_value t2 w
      have k4 : StateInv t3 := by
        simp only [t3]; split
        · exact kept_writeRecord k3 ..
        · exact k3
      clear_value t3
      split
      · exact kept_redirect k4 ..
      · exact kept_toPolicy k2 ..
  | succ n ih =>
    unfold unwind; split
    · exact kept_toPolicy h ..
    · extract_lets depth t1 src t2 w fr t3
      have k2 : StateInv t2 := kept_killHandles h depth .empty
      have k3 : StateInv w.1 := kept_recordAt k2
      clear_value t2 w
      have k4 : StateInv t3 := by
        simp only [t3]; split
        · exact kept_writeRecord k3 ..
        · exact k3
      clear_value t3
      split
      · exact kept_redirect k4 ..
      · exact ih k2 _

@[simp] theorem kept_grantOnce (h : StateInv s) (c : Nat) (o : Route) : StateInv (grantOnce s c o) := by
  unfold grantOnce; (repeat' split) <;> exact h

@[simp] theorem kept_takeRoute (h : StateInv s) (r : Raise) (o : Route) (b : Bool) : StateInv (takeRoute s r o b) := by
  have k := kept_recordAt h
  unfold takeRoute; split
  · exact kept_postEvent (kept_saveMe (kept_tellHost h r false) ..) ..
  · split <;> rename_i e <;> rw [e] at k
    · exact kept_takeException k ..
    · exact kept_unwind 4 k r b
  · split <;> rename_i e <;> rw [e] at k
    · exact kept_takeException k ..
    · exact kept_unwind 4 k r b
  · exact kept_toPolicy h ..
  · exact kept_unwind 4 h r b
  · exact kept_toPolicy h ..

@[simp] theorem kept_takeFault (h : StateInv s) (r : Raise) (d : Bool) : StateInv (takeFault s r d) := by
  have k : ∀ f o, StateInv (rebuildTo s f r.pc r.eng o) := fun _ _ => kept_rebuildTo h ..
  unfold takeFault
  refine kept_takeRoute (kept_grantOnce ?_ ..) ..
  dsimp only
  generalize hu : rebuildTo s _ r.pc r.eng _ = u
  have ku : StateInv u := by subst hu; exact k ..
  clear hu
  cases r.after <;> exact ku

@[simp] theorem kept_raiseCode (h : StateInv s) (r : Raise) : StateInv (raiseCode s r) := by
  unfold raiseCode; split
  · exact kept_takeFault h r false
  · exact h

@[simp] theorem kept_settleFault (h : StateInv s) : StateInv (settleFault s) := by
  unfold settleFault; (repeat' split) <;> first | exact kept_takeFault h .. | exact h

@[simp] theorem kept_askStop (h : StateInv s) (g : Nat) (c : SaveCause) : StateInv (askStop s g c) := by
  refine kept_onCore (fun u hu => ?_) h g
  split <;> exact hu

@[simp] theorem kept_saveStopped (h : StateInv s) (c : SaveCause) : StateInv (saveStopped c s) := by
  unfold saveStopped; split
  · exact kept_saveMe (s := { s with me := { s.me with run := .running } }) h ..
  · exact h

@[simp] theorem kept_stopCrew (h : StateInv s) (c : SaveCause) : StateInv (stopCrew s c) := by
  unfold stopCrew; dsimp only; split
  · exact h
  · exact kept_foldl (fun _ _ hu => kept_onCore (fun _ hw => kept_saveStopped hw c) hu _) _ (kept_of_mem rfl h)

@[simp] theorem kept_forceStop (h : StateInv s) : StateInv (forceStop s) := by
  unfold forceStop; split
  · exact h
  · split
    · exact h
    · have k := kept_rebuildTo h (frontier s.me) (frontPc s.me) (frontSlice s.me) none
      dsimp only
      generalize rebuildTo s _ _ _ none = t at k ⊢
      generalize hu : tellImage _ _ = u
      have k3 : StateInv u := by subst hu; exact k
      clear hu
      split
      · exact kept_haltMe k3 0
      · apply kept_stopCrew; split
        · exact kept_killHandles k3 ..
        · exact k3

/-! A word issues, completes, waits or raises. -/

@[simp] theorem kept_complete (h : StateInv s) (n : Nat) (x : Next) : StateInv (complete n s x) := h

@[simp] theorem kept_completeSlice {s : State} (h : StateInv s) (i : Instr) (s0 : State) (x : Next) :
    StateInv (completeSlice i s0 s x) := by
  unfold completeSlice
  extract_lets c cc ann pos delta y f undos f2 sem p now c2 t1 t2
  have k1 : StateInv t1 := h
  have k2 : StateInv (if now then mapRegs t1 fun r => postS r sem 1 else t1) := by split <;> exact k1
  exact kept_charge (kept_of_mem rfl (kept_firePosts k2))

@[simp] theorem kept_stall (h : StateInv s) (w : Wait) : StateInv (stall s w) := by
  unfold stall; apply kept_charge; apply kept_firePosts; split <;> exact h

/-- What a meaning's answer holds keeps the form. -/
def Res.Kept (r : Res) : Prop :=
  match r with
  | .done t => StateInv t
  | .skip t _ => StateInv t
  | .jump t _ => StateInv t
  | .branch t _ => StateInv t
  | .wait t _ => StateInv t
  | .raise t _ => StateInv t
  | .gone t => StateInv t

theorem kept_finish {r : Res} (h : r.Kept) (i : Instr) (s : State) : StateInv (finish i s r) := by
  have c : ∀ t x, StateInv t → StateInv (match s.me.form with
      | .logical => complete i.units t x | .slices => completeSlice i s t x) := by
    intro t x ht; split
    · exact kept_complete ht ..
    · exact kept_completeSlice ht ..
  unfold finish
  cases r <;> first | exact c _ _ h | exact kept_stall h _ | exact kept_raiseCode h _ | exact h

theorem kept_admitSlice {t : State} (h : StateInv s) {i : Instr} (e : admitSlice i s = some t) : StateInv t := by
  unfold admitSlice at e; dsimp only at e
  (repeat' split at e) <;> simp at e <;> subst e <;> exact h

@[simp] theorem kept_settleOwed (h : StateInv s) (i : Instr) : StateInv (settleOwed i s) := by
  unfold settleOwed; split
  · exact kept_departAtomics (kept_performAll h)
  · exact h

@[simp] theorem kept_giveBack {t : State} (h : StateInv t) (i : Instr) : StateInv (giveBack i t) := by
  unfold giveBack; dsimp only; split
  · exact kept_mapRegs h _
  · exact h

@[simp] theorem kept_noteGated {t : State} (h : StateInv t) (i : Instr) (s : State) : StateInv (noteGated i s t) := by
  unfold noteGated; split
  · exact h
  · exact kept_actAt h _

theorem kept_issueSlice {i : Instr} {body : State → Res} (hb : ∀ t, StateInv t → (body t).Kept) (h : StateInv s) :
    StateInv (issueSlice i body s) := by
  unfold issueSlice
  split
  · exact kept_stall h _
  · rename_i t e
    have ht := kept_admitSlice h e
    split
    · exact kept_finish (r := .fail s _) h i s
    · have k := hb t ht
      generalize body t = x at k ⊢
      cases x
      case wait => exact kept_stall (kept_giveBack k i) _
      case raise => exact kept_finish (r := .raise _ _) (kept_giveBack k i) i s
      case done => exact kept_finish (r := .done _) (kept_noteGated k i s) i s
      all_goals exact kept_finish k i s

/-- Issuing a word keeps the form if its meaning does. -/
theorem kept_issue {t : State} {i : Instr} {body : State → Res} (hb : ∀ u, StateInv u → (body u).Kept) (h : StateInv s)
    (e : issue i body s = .next t) : StateInv t := by
  unfold issue at e
  injection e with e
  subst e
  split
  · exact h
  · split
    · exact kept_finish (r := .fail s _) h i s
    · split
      · exact kept_finish (hb _ (kept_settleOwed h i)) i s
      · exact kept_issueSlice hb (kept_settleOwed h i)

end

end Sys2Proof.Machine
end

