-- ==== Sys2Proof/Laws/State.lean ====
section
/-! SUPPORT. The fields of the state after each named update, one lemma per field and update. -/

namespace Sys2Proof.Machine

/-! mapRegs -/

@[simp] theorem mapRegs_others (s : State) (f : Regs → Regs) : (mapRegs s f).others = s.others := rfl
@[simp] theorem mapRegs_sched (s : State) (f : Regs → Regs) : (mapRegs s f).sched = s.sched := rfl
@[simp] theorem mapRegs_ticks (s : State) (f : Regs → Regs) : (mapRegs s f).ticks = s.ticks := rfl
@[simp] theorem mapRegs_time (s : State) (f : Regs → Regs) : (mapRegs s f).time = s.time := rfl
@[simp] theorem mapRegs_cycles (s : State) (f : Regs → Regs) : (mapRegs s f).cycles = s.cycles := rfl
@[simp] theorem mapRegs_mem (s : State) (f : Regs → Regs) : (mapRegs s f).mem = s.mem := rfl
@[simp] theorem mapRegs_marks (s : State) (f : Regs → Regs) : (mapRegs s f).marks = s.marks := rfl
@[simp] theorem mapRegs_soft (s : State) (f : Regs → Regs) : (mapRegs s f).soft = s.soft := rfl
@[simp] theorem mapRegs_rv (s : State) (f : Regs → Regs) : (mapRegs s f).rv = s.rv := rfl
@[simp] theorem mapRegs_ccache (s : State) (f : Regs → Regs) : (mapRegs s f).ccache = s.ccache := rfl
@[simp] theorem mapRegs_tlb (s : State) (f : Regs → Regs) : (mapRegs s f).tlb = s.tlb := rfl
@[simp] theorem mapRegs_versions (s : State) (f : Regs → Regs) : (mapRegs s f).versions = s.versions := rfl
@[simp] theorem mapRegs_verNext (s : State) (f : Regs → Regs) : (mapRegs s f).verNext = s.verNext := rfl
@[simp] theorem mapRegs_mailboxes (s : State) (f : Regs → Regs) : (mapRegs s f).mailboxes = s.mailboxes := rfl
@[simp] theorem mapRegs_outHands (s : State) (f : Regs → Regs) : (mapRegs s f).outHands = s.outHands := rfl
@[simp] theorem mapRegs_crews (s : State) (f : Regs → Regs) : (mapRegs s f).crews = s.crews := rfl
@[simp] theorem mapRegs_crewNext (s : State) (f : Regs → Regs) : (mapRegs s f).crewNext = s.crewNext := rfl
@[simp] theorem mapRegs_spostq (s : State) (f : Regs → Regs) : (mapRegs s f).spostq = s.spostq := rfl
@[simp] theorem mapRegs_parts (s : State) (f : Regs → Regs) : (mapRegs s f).parts = s.parts := rfl
@[simp] theorem mapRegs_ctxNext (s : State) (f : Regs → Regs) : (mapRegs s f).ctxNext = s.ctxNext := rfl
@[simp] theorem mapRegs_kernels (s : State) (f : Regs → Regs) : (mapRegs s f).kernels = s.kernels := rfl
@[simp] theorem mapRegs_launches (s : State) (f : Regs → Regs) : (mapRegs s f).launches = s.launches := rfl
@[simp] theorem mapRegs_saved (s : State) (f : Regs → Regs) : (mapRegs s f).saved = s.saved := rfl
@[simp] theorem mapRegs_reserved (s : State) (f : Regs → Regs) : (mapRegs s f).reserved = s.reserved := rfl
@[simp] theorem mapRegs_claims (s : State) (f : Regs → Regs) : (mapRegs s f).claims = s.claims := rfl
@[simp] theorem mapRegs_quiet (s : State) (f : Regs → Regs) : (mapRegs s f).quiet = s.quiet := rfl
@[simp] theorem mapRegs_absentNew (s : State) (f : Regs → Regs) : (mapRegs s f).absentNew = s.absentNew := rfl
@[simp] theorem mapRegs_rmap (s : State) (f : Regs → Regs) : (mapRegs s f).rmap = s.rmap := rfl
@[simp] theorem mapRegs_failing (s : State) (f : Regs → Regs) : (mapRegs s f).failing = s.failing := rfl
@[simp] theorem mapRegs_retrain (s : State) (f : Regs → Regs) : (mapRegs s f).retrain = s.retrain := rfl
@[simp] theorem mapRegs_invals (s : State) (f : Regs → Regs) : (mapRegs s f).invals = s.invals := rfl
@[simp] theorem mapRegs_eras (s : State) (f : Regs → Regs) : (mapRegs s f).eras = s.eras := rfl
@[simp] theorem mapRegs_known (s : State) (f : Regs → Regs) : (mapRegs s f).known = s.known := rfl
@[simp] theorem mapRegs_lostAt (s : State) (f : Regs → Regs) : (mapRegs s f).lostAt = s.lostAt := rfl
@[simp] theorem mapRegs_dieFw (s : State) (f : Regs → Regs) : (mapRegs s f).dieFw = s.dieFw := rfl
@[simp] theorem mapRegs_hostKey0 (s : State) (f : Regs → Regs) : (mapRegs s f).hostKey0 = s.hostKey0 := rfl
@[simp] theorem mapRegs_hostKey1 (s : State) (f : Regs → Regs) : (mapRegs s f).hostKey1 = s.hostKey1 := rfl
@[simp] theorem mapRegs_stage (s : State) (f : Regs → Regs) : (mapRegs s f).stage = s.stage := rfl
@[simp] theorem mapRegs_bring (s : State) (f : Regs → Regs) : (mapRegs s f).bring = s.bring := rfl
@[simp] theorem mapRegs_report (s : State) (f : Regs → Regs) : (mapRegs s f).report = s.report := rfl
@[simp] theorem mapRegs_hostCnt (s : State) (f : Regs → Regs) : (mapRegs s f).hostCnt = s.hostCnt := rfl
@[simp] theorem mapRegs_power (s : State) (f : Regs → Regs) : (mapRegs s f).power = s.power := rfl
@[simp] theorem mapRegs_flash (s : State) (f : Regs → Regs) : (mapRegs s f).flash = s.flash := rfl
@[simp] theorem mapRegs_errinj (s : State) (f : Regs → Regs) : (mapRegs s f).errinj = s.errinj := rfl
@[simp] theorem mapRegs_errCount (s : State) (f : Regs → Regs) : (mapRegs s f).errCount = s.errCount := rfl
@[simp] theorem mapRegs_ports (s : State) (f : Regs → Regs) : (mapRegs s f).ports = s.ports := rfl
@[simp] theorem mapRegs_fabric (s : State) (f : Regs → Regs) : (mapRegs s f).fabric = s.fabric := rfl
@[simp] theorem mapRegs_cmdCount (s : State) (f : Regs → Regs) : (mapRegs s f).cmdCount = s.cmdCount := rfl
@[simp] theorem mapRegs_askCount (s : State) (f : Regs → Regs) : (mapRegs s f).askCount = s.askCount := rfl
@[simp] theorem mapRegs_xmarks (s : State) (f : Regs → Regs) : (mapRegs s f).xmarks = s.xmarks := rfl
@[simp] theorem mapRegs_outs (s : State) (f : Regs → Regs) : (mapRegs s f).outs = s.outs := rfl
@[simp] theorem mapRegs_retained (s : State) (f : Regs → Regs) : (mapRegs s f).retained = s.retained := rfl
@[simp] theorem mapRegs_homes (s : State) (f : Regs → Regs) : (mapRegs s f).homes = s.homes := rfl
@[simp] theorem mapRegs_mirrorsAt (s : State) (f : Regs → Regs) : (mapRegs s f).mirrorsAt = s.mirrorsAt := rfl
@[simp] theorem mapRegs_inbox (s : State) (f : Regs → Regs) : (mapRegs s f).inbox = s.inbox := rfl
@[simp] theorem mapRegs_parkedReq (s : State) (f : Regs → Regs) : (mapRegs s f).parkedReq = s.parkedReq := rfl
@[simp] theorem mapRegs_outbox (s : State) (f : Regs → Regs) : (mapRegs s f).outbox = s.outbox := rfl
@[simp] theorem mapRegs_wire (s : State) (f : Regs → Regs) : (mapRegs s f).wire = s.wire := rfl
@[simp] theorem mapRegs_events (s : State) (f : Regs → Regs) : (mapRegs s f).events = s.events := rfl
@[simp] theorem mapRegs_hostOut (s : State) (f : Regs → Regs) : (mapRegs s f).hostOut = s.hostOut := rfl
@[simp] theorem mapRegs_freeCount (s : State) (f : Regs → Regs) : (mapRegs s f).freeCount = s.freeCount := rfl
@[simp] theorem mapRegs_me_id (s : State) (f : Regs → Regs) : (mapRegs s f).me.id = s.me.id := rfl
@[simp] theorem mapRegs_me_run (s : State) (f : Regs → Regs) : (mapRegs s f).me.run = s.me.run := rfl
@[simp] theorem mapRegs_me_form (s : State) (f : Regs → Regs) : (mapRegs s f).me.form = s.me.form := rfl
@[simp] theorem mapRegs_me_eng (s : State) (f : Regs → Regs) : (mapRegs s f).me.eng = s.me.eng := rfl
@[simp] theorem mapRegs_me_flow (s : State) (f : Regs → Regs) : (mapRegs s f).me.flow = s.me.flow := rfl
@[simp] theorem mapRegs_me_parked (s : State) (f : Regs → Regs) : (mapRegs s f).me.parked = s.me.parked := rfl
@[simp] theorem mapRegs_me_str (s : State) (f : Regs → Regs) : (mapRegs s f).me.str = s.me.str := rfl
@[simp] theorem mapRegs_me_csr (s : State) (f : Regs → Regs) : (mapRegs s f).me.csr = s.me.csr := rfl
@[simp] theorem mapRegs_me_regions (s : State) (f : Regs → Regs) : (mapRegs s f).me.regions = s.me.regions := rfl
@[simp] theorem mapRegs_me_hdl (s : State) (f : Regs → Regs) : (mapRegs s f).me.hdl = s.me.hdl := rfl
@[simp] theorem mapRegs_me_emu (s : State) (f : Regs → Regs) : (mapRegs s f).me.emu = s.me.emu := rfl
@[simp] theorem mapRegs_me_erls (s : State) (f : Regs → Regs) : (mapRegs s f).me.erls = s.me.erls := rfl
@[simp] theorem mapRegs_me_granted (s : State) (f : Regs → Regs) : (mapRegs s f).me.granted = s.me.granted := rfl
@[simp] theorem mapRegs_me_rho (s : State) (f : Regs → Regs) : (mapRegs s f).me.rho = s.me.rho := rfl
@[simp] theorem mapRegs_me_wait (s : State) (f : Regs → Regs) : (mapRegs s f).me.wait = s.me.wait := rfl
@[simp] theorem mapRegs_me_waits (s : State) (f : Regs → Regs) : (mapRegs s f).me.waits = s.me.waits := rfl
@[simp] theorem mapRegs_me_mode0 (s : State) (f : Regs → Regs) : (mapRegs s f).me.mode0 = s.me.mode0 := rfl
@[simp] theorem mapRegs_me_lqC (s : State) (f : Regs → Regs) : (mapRegs s f).me.lqC = s.me.lqC := rfl
@[simp] theorem mapRegs_me_sqC (s : State) (f : Regs → Regs) : (mapRegs s f).me.sqC = s.me.sqC := rfl
@[simp] theorem mapRegs_me_sqS (s : State) (f : Regs → Regs) : (mapRegs s f).me.sqS = s.me.sqS := rfl
@[simp] theorem mapRegs_me_l1 (s : State) (f : Regs → Regs) : (mapRegs s f).me.l1 = s.me.l1 := rfl
@[simp] theorem mapRegs_me_rewind (s : State) (f : Regs → Regs) : (mapRegs s f).me.rewind = s.me.rewind := rfl
@[simp] theorem mapRegs_me_posts (s : State) (f : Regs → Regs) : (mapRegs s f).me.posts = s.me.posts := rfl
@[simp] theorem mapRegs_me_text (s : State) (f : Regs → Regs) : (mapRegs s f).me.text = s.me.text := rfl
@[simp] theorem mapRegs_me_code (s : State) (f : Regs → Regs) : (mapRegs s f).me.code = s.me.code := rfl
@[simp] theorem mapRegs_me_anns (s : State) (f : Regs → Regs) : (mapRegs s f).me.anns = s.me.anns := rfl
@[simp] theorem mapRegs_me_map (s : State) (f : Regs → Regs) : (mapRegs s f).me.map = s.me.map := rfl
@[simp] theorem mapRegs_me_absent (s : State) (f : Regs → Regs) : (mapRegs s f).me.absent = s.me.absent := rfl
@[simp] theorem mapRegs_me_weak (s : State) (f : Regs → Regs) : (mapRegs s f).me.weak = s.me.weak := rfl
@[simp] theorem mapRegs_me_slots (s : State) (f : Regs → Regs) : (mapRegs s f).me.slots = s.me.slots := rfl
@[simp] theorem mapRegs_me_emulate (s : State) (f : Regs → Regs) : (mapRegs s f).me.emulate = s.me.emulate := rfl
@[simp] theorem mapRegs_me_task (s : State) (f : Regs → Regs) : (mapRegs s f).me.task = s.me.task := rfl
@[simp] theorem mapRegs_me_lastCtx (s : State) (f : Regs → Regs) : (mapRegs s f).me.lastCtx = s.me.lastCtx := rfl
@[simp] theorem mapRegs_me_fault (s : State) (f : Regs → Regs) : (mapRegs s f).me.fault = s.me.fault := rfl
@[simp] theorem mapRegs_me_stops (s : State) (f : Regs → Regs) : (mapRegs s f).me.stops = s.me.stops := rfl
@[simp] theorem mapRegs_me_stepTo (s : State) (f : Regs → Regs) : (mapRegs s f).me.stepTo = s.me.stepTo := rfl
@[simp] theorem mapRegs_me_gate (s : State) (f : Regs → Regs) : (mapRegs s f).me.gate = s.me.gate := rfl
@[simp] theorem mapRegs_me_defer (s : State) (f : Regs → Regs) : (mapRegs s f).me.defer = s.me.defer := rfl
@[simp] theorem mapRegs_me_costs (s : State) (f : Regs → Regs) : (mapRegs s f).me.costs = s.me.costs := rfl
@[simp] theorem mapRegs_me_regs (s : State) (f : Regs → Regs) : (mapRegs s f).me.regs = f s.me.regs := rfl

/-! setX -/

@[simp] theorem setX_others (s : State) (i : BitVec 6) (v : Word) : (setX s i v).others = s.others := rfl
@[simp] theorem setX_sched (s : State) (i : BitVec 6) (v : Word) : (setX s i v).sched = s.sched := rfl
@[simp] theorem setX_ticks (s : State) (i : BitVec 6) (v : Word) : (setX s i v).ticks = s.ticks := rfl
@[simp] theorem setX_time (s : State) (i : BitVec 6) (v : Word) : (setX s i v).time = s.time := rfl
@[simp] theorem setX_cycles (s : State) (i : BitVec 6) (v : Word) : (setX s i v).cycles = s.cycles := rfl
@[simp] theorem setX_mem (s : State) (i : BitVec 6) (v : Word) : (setX s i v).mem = s.mem := rfl
@[simp] theorem setX_marks (s : State) (i : BitVec 6) (v : Word) : (setX s i v).marks = s.marks := rfl
@[simp] theorem setX_soft (s : State) (i : BitVec 6) (v : Word) : (setX s i v).soft = s.soft := rfl
@[simp] theorem setX_rv (s : State) (i : BitVec 6) (v : Word) : (setX s i v).rv = s.rv := rfl
@[simp] theorem setX_ccache (s : State) (i : BitVec 6) (v : Word) : (setX s i v).ccache = s.ccache := rfl
@[simp] theorem setX_tlb (s : State) (i : BitVec 6) (v : Word) : (setX s i v).tlb = s.tlb := rfl
@[simp] theorem setX_versions (s : State) (i : BitVec 6) (v : Word) : (setX s i v).versions = s.versions := rfl
@[simp] theorem setX_verNext (s : State) (i : BitVec 6) (v : Word) : (setX s i v).verNext = s.verNext := rfl
@[simp] theorem setX_mailboxes (s : State) (i : BitVec 6) (v : Word) : (setX s i v).mailboxes = s.mailboxes := rfl
@[simp] theorem setX_outHands (s : State) (i : BitVec 6) (v : Word) : (setX s i v).outHands = s.outHands := rfl
@[simp] theorem setX_crews (s : State) (i : BitVec 6) (v : Word) : (setX s i v).crews = s.crews := rfl
@[simp] theorem setX_crewNext (s : State) (i : BitVec 6) (v : Word) : (setX s i v).crewNext = s.crewNext := rfl
@[simp] theorem setX_spostq (s : State) (i : BitVec 6) (v : Word) : (setX s i v).spostq = s.spostq := rfl
@[simp] theorem setX_parts (s : State) (i : BitVec 6) (v : Word) : (setX s i v).parts = s.parts := rfl
@[simp] theorem setX_ctxNext (s : State) (i : BitVec 6) (v : Word) : (setX s i v).ctxNext = s.ctxNext := rfl
@[simp] theorem setX_kernels (s : State) (i : BitVec 6) (v : Word) : (setX s i v).kernels = s.kernels := rfl
@[simp] theorem setX_launches (s : State) (i : BitVec 6) (v : Word) : (setX s i v).launches = s.launches := rfl
@[simp] theorem setX_saved (s : State) (i : BitVec 6) (v : Word) : (setX s i v).saved = s.saved := rfl
@[simp] theorem setX_reserved (s : State) (i : BitVec 6) (v : Word) : (setX s i v).reserved = s.reserved := rfl
@[simp] theorem setX_claims (s : State) (i : BitVec 6) (v : Word) : (setX s i v).claims = s.claims := rfl
@[simp] theorem setX_quiet (s : State) (i : BitVec 6) (v : Word) : (setX s i v).quiet = s.quiet := rfl
@[simp] theorem setX_absentNew (s : State) (i : BitVec 6) (v : Word) : (setX s i v).absentNew = s.absentNew := rfl
@[simp] theorem setX_rmap (s : State) (i : BitVec 6) (v : Word) : (setX s i v).rmap = s.rmap := rfl
@[simp] theorem setX_failing (s : State) (i : BitVec 6) (v : Word) : (setX s i v).failing = s.failing := rfl
@[simp] theorem setX_retrain (s : State) (i : BitVec 6) (v : Word) : (setX s i v).retrain = s.retrain := rfl
@[simp] theorem setX_invals (s : State) (i : BitVec 6) (v : Word) : (setX s i v).invals = s.invals := rfl
@[simp] theorem setX_eras (s : State) (i : BitVec 6) (v : Word) : (setX s i v).eras = s.eras := rfl
@[simp] theorem setX_known (s : State) (i : BitVec 6) (v : Word) : (setX s i v).known = s.known := rfl
@[simp] theorem setX_lostAt (s : State) (i : BitVec 6) (v : Word) : (setX s i v).lostAt = s.lostAt := rfl
@[simp] theorem setX_dieFw (s : State) (i : BitVec 6) (v : Word) : (setX s i v).dieFw = s.dieFw := rfl
@[simp] theorem setX_hostKey0 (s : State) (i : BitVec 6) (v : Word) : (setX s i v).hostKey0 = s.hostKey0 := rfl
@[simp] theorem setX_hostKey1 (s : State) (i : BitVec 6) (v : Word) : (setX s i v).hostKey1 = s.hostKey1 := rfl
@[simp] theorem setX_stage (s : State) (i : BitVec 6) (v : Word) : (setX s i v).stage = s.stage := rfl
@[simp] theorem setX_bring (s : State) (i : BitVec 6) (v : Word) : (setX s i v).bring = s.bring := rfl
@[simp] theorem setX_report (s : State) (i : BitVec 6) (v : Word) : (setX s i v).report = s.report := rfl
@[simp] theorem setX_hostCnt (s : State) (i : BitVec 6) (v : Word) : (setX s i v).hostCnt = s.hostCnt := rfl
@[simp] theorem setX_power (s : State) (i : BitVec 6) (v : Word) : (setX s i v).power = s.power := rfl
@[simp] theorem setX_flash (s : State) (i : BitVec 6) (v : Word) : (setX s i v).flash = s.flash := rfl
@[simp] theorem setX_errinj (s : State) (i : BitVec 6) (v : Word) : (setX s i v).errinj = s.errinj := rfl
@[simp] theorem setX_errCount (s : State) (i : BitVec 6) (v : Word) : (setX s i v).errCount = s.errCount := rfl
@[simp] theorem setX_ports (s : State) (i : BitVec 6) (v : Word) : (setX s i v).ports = s.ports := rfl
@[simp] theorem setX_fabric (s : State) (i : BitVec 6) (v : Word) : (setX s i v).fabric = s.fabric := rfl
@[simp] theorem setX_cmdCount (s : State) (i : BitVec 6) (v : Word) : (setX s i v).cmdCount = s.cmdCount := rfl
@[simp] theorem setX_askCount (s : State) (i : BitVec 6) (v : Word) : (setX s i v).askCount = s.askCount := rfl
@[simp] theorem setX_xmarks (s : State) (i : BitVec 6) (v : Word) : (setX s i v).xmarks = s.xmarks := rfl
@[simp] theorem setX_outs (s : State) (i : BitVec 6) (v : Word) : (setX s i v).outs = s.outs := rfl
@[simp] theorem setX_retained (s : State) (i : BitVec 6) (v : Word) : (setX s i v).retained = s.retained := rfl
@[simp] theorem setX_homes (s : State) (i : BitVec 6) (v : Word) : (setX s i v).homes = s.homes := rfl
@[simp] theorem setX_mirrorsAt (s : State) (i : BitVec 6) (v : Word) : (setX s i v).mirrorsAt = s.mirrorsAt := rfl
@[simp] theorem setX_inbox (s : State) (i : BitVec 6) (v : Word) : (setX s i v).inbox = s.inbox := rfl
@[simp] theorem setX_parkedReq (s : State) (i : BitVec 6) (v : Word) : (setX s i v).parkedReq = s.parkedReq := rfl
@[simp] theorem setX_outbox (s : State) (i : BitVec 6) (v : Word) : (setX s i v).outbox = s.outbox := rfl
@[simp] theorem setX_wire (s : State) (i : BitVec 6) (v : Word) : (setX s i v).wire = s.wire := rfl
@[simp] theorem setX_events (s : State) (i : BitVec 6) (v : Word) : (setX s i v).events = s.events := rfl
@[simp] theorem setX_hostOut (s : State) (i : BitVec 6) (v : Word) : (setX s i v).hostOut = s.hostOut := rfl
@[simp] theorem setX_freeCount (s : State) (i : BitVec 6) (v : Word) : (setX s i v).freeCount = s.freeCount := rfl
@[simp] theorem setX_me_id (s : State) (i : BitVec 6) (v : Word) : (setX s i v).me.id = s.me.id := rfl
@[simp] theorem setX_me_run (s : State) (i : BitVec 6) (v : Word) : (setX s i v).me.run = s.me.run := rfl
@[simp] theorem setX_me_form (s : State) (i : BitVec 6) (v : Word) : (setX s i v).me.form = s.me.form := rfl
@[simp] theorem setX_me_eng (s : State) (i : BitVec 6) (v : Word) : (setX s i v).me.eng = s.me.eng := rfl
@[simp] theorem setX_me_flow (s : State) (i : BitVec 6) (v : Word) : (setX s i v).me.flow = s.me.flow := rfl
@[simp] theorem setX_me_parked (s : State) (i : BitVec 6) (v : Word) : (setX s i v).me.parked = s.me.parked := rfl
@[simp] theorem setX_me_str (s : State) (i : BitVec 6) (v : Word) : (setX s i v).me.str = s.me.str := rfl
@[simp] theorem setX_me_csr (s : State) (i : BitVec 6) (v : Word) : (setX s i v).me.csr = s.me.csr := rfl
@[simp] theorem setX_me_regions (s : State) (i : BitVec 6) (v : Word) : (setX s i v).me.regions = s.me.regions := rfl
@[simp] theorem setX_me_hdl (s : State) (i : BitVec 6) (v : Word) : (setX s i v).me.hdl = s.me.hdl := rfl
@[simp] theorem setX_me_emu (s : State) (i : BitVec 6) (v : Word) : (setX s i v).me.emu = s.me.emu := rfl
@[simp] theorem setX_me_erls (s : State) (i : BitVec 6) (v : Word) : (setX s i v).me.erls = s.me.erls := rfl
@[simp] theorem setX_me_granted (s : State) (i : BitVec 6) (v : Word) : (setX s i v).me.granted = s.me.granted := rfl
@[simp] theorem setX_me_rho (s : State) (i : BitVec 6) (v : Word) : (setX s i v).me.rho = s.me.rho := rfl
@[simp] theorem setX_me_wait (s : State) (i : BitVec 6) (v : Word) : (setX s i v).me.wait = s.me.wait := rfl
@[simp] theorem setX_me_waits (s : State) (i : BitVec 6) (v : Word) : (setX s i v).me.waits = s.me.waits := rfl
@[simp] theorem setX_me_mode0 (s : State) (i : BitVec 6) (v : Word) : (setX s i v).me.mode0 = s.me.mode0 := rfl
@[simp] theorem setX_me_lqC (s : State) (i : BitVec 6) (v : Word) : (setX s i v).me.lqC = s.me.lqC := rfl
@[simp] theorem setX_me_sqC (s : State) (i : BitVec 6) (v : Word) : (setX s i v).me.sqC = s.me.sqC := rfl
@[simp] theorem setX_me_sqS (s : State) (i : BitVec 6) (v : Word) : (setX s i v).me.sqS = s.me.sqS := rfl
@[simp] theorem setX_me_l1 (s : State) (i : BitVec 6) (v : Word) : (setX s i v).me.l1 = s.me.l1 := rfl
@[simp] theorem setX_me_rewind (s : State) (i : BitVec 6) (v : Word) : (setX s i v).me.rewind = s.me.rewind := rfl
@[simp] theorem setX_me_posts (s : State) (i : BitVec 6) (v : Word) : (setX s i v).me.posts = s.me.posts := rfl
@[simp] theorem setX_me_text (s : State) (i : BitVec 6) (v : Word) : (setX s i v).me.text = s.me.text := rfl
@[simp] theorem setX_me_code (s : State) (i : BitVec 6) (v : Word) : (setX s i v).me.code = s.me.code := rfl
@[simp] theorem setX_me_anns (s : State) (i : BitVec 6) (v : Word) : (setX s i v).me.anns = s.me.anns := rfl
@[simp] theorem setX_me_map (s : State) (i : BitVec 6) (v : Word) : (setX s i v).me.map = s.me.map := rfl
@[simp] theorem setX_me_absent (s : State) (i : BitVec 6) (v : Word) : (setX s i v).me.absent = s.me.absent := rfl
@[simp] theorem setX_me_weak (s : State) (i : BitVec 6) (v : Word) : (setX s i v).me.weak = s.me.weak := rfl
@[simp] theorem setX_me_slots (s : State) (i : BitVec 6) (v : Word) : (setX s i v).me.slots = s.me.slots := rfl
@[simp] theorem setX_me_emulate (s : State) (i : BitVec 6) (v : Word) : (setX s i v).me.emulate = s.me.emulate := rfl
@[simp] theorem setX_me_task (s : State) (i : BitVec 6) (v : Word) : (setX s i v).me.task = s.me.task := rfl
@[simp] theorem setX_me_lastCtx (s : State) (i : BitVec 6) (v : Word) : (setX s i v).me.lastCtx = s.me.lastCtx := rfl
@[simp] theorem setX_me_fault (s : State) (i : BitVec 6) (v : Word) : (setX s i v).me.fault = s.me.fault := rfl
@[simp] theorem setX_me_stops (s : State) (i : BitVec 6) (v : Word) : (setX s i v).me.stops = s.me.stops := rfl
@[simp] theorem setX_me_stepTo (s : State) (i : BitVec 6) (v : Word) : (setX s i v).me.stepTo = s.me.stepTo := rfl
@[simp] theorem setX_me_gate (s : State) (i : BitVec 6) (v : Word) : (setX s i v).me.gate = s.me.gate := rfl
@[simp] theorem setX_me_defer (s : State) (i : BitVec 6) (v : Word) : (setX s i v).me.defer = s.me.defer := rfl
@[simp] theorem setX_me_costs (s : State) (i : BitVec 6) (v : Word) : (setX s i v).me.costs = s.me.costs := rfl
@[simp] theorem setX_me_regs (s : State) (i : BitVec 6) (v : Word) : (setX s i v).me.regs = writeX s.me.regs i v := rfl

/-! setL1 -/

@[simp] theorem setL1_others (s : State) (l : List (Nat × L1Byte)) : (setL1 s l).others = s.others := rfl
@[simp] theorem setL1_sched (s : State) (l : List (Nat × L1Byte)) : (setL1 s l).sched = s.sched := rfl
@[simp] theorem setL1_ticks (s : State) (l : List (Nat × L1Byte)) : (setL1 s l).ticks = s.ticks := rfl
@[simp] theorem setL1_time (s : State) (l : List (Nat × L1Byte)) : (setL1 s l).time = s.time := rfl
@[simp] theorem setL1_cycles (s : State) (l : List (Nat × L1Byte)) : (setL1 s l).cycles = s.cycles := rfl
@[simp] theorem setL1_mem (s : State) (l : List (Nat × L1Byte)) : (setL1 s l).mem = s.mem := rfl
@[simp] theorem setL1_marks (s : State) (l : List (Nat × L1Byte)) : (setL1 s l).marks = s.marks := rfl
@[simp] theorem setL1_soft (s : State) (l : List (Nat × L1Byte)) : (setL1 s l).soft = s.soft := rfl
@[simp] theorem setL1_rv (s : State) (l : List (Nat × L1Byte)) : (setL1 s l).rv = s.rv := rfl
@[simp] theorem setL1_ccache (s : State) (l : List (Nat × L1Byte)) : (setL1 s l).ccache = s.ccache := rfl
@[simp] theorem setL1_tlb (s : State) (l : List (Nat × L1Byte)) : (setL1 s l).tlb = s.tlb := rfl
@[simp] theorem setL1_versions (s : State) (l : List (Nat × L1Byte)) : (setL1 s l).versions = s.versions := rfl
@[simp] theorem setL1_verNext (s : State) (l : List (Nat × L1Byte)) : (setL1 s l).verNext = s.verNext := rfl
@[simp] theorem setL1_mailboxes (s : State) (l : List (Nat × L1Byte)) : (setL1 s l).mailboxes = s.mailboxes := rfl
@[simp] theorem setL1_outHands (s : State) (l : List (Nat × L1Byte)) : (setL1 s l).outHands = s.outHands := rfl
@[simp] theorem setL1_crews (s : State) (l : List (Nat × L1Byte)) : (setL1 s l).crews = s.crews := rfl
@[simp] theorem setL1_crewNext (s : State) (l : List (Nat × L1Byte)) : (setL1 s l).crewNext = s.crewNext := rfl
@[simp] theorem setL1_spostq (s : State) (l : List (Nat × L1Byte)) : (setL1 s l).spostq = s.spostq := rfl
@[simp] theorem setL1_parts (s : State) (l : List (Nat × L1Byte)) : (setL1 s l).parts = s.parts := rfl
@[simp] theorem setL1_ctxNext (s : State) (l : List (Nat × L1Byte)) : (setL1 s l).ctxNext = s.ctxNext := rfl
@[simp] theorem setL1_kernels (s : State) (l : List (Nat × L1Byte)) : (setL1 s l).kernels = s.kernels := rfl
@[simp] theorem setL1_launches (s : State) (l : List (Nat × L1Byte)) : (setL1 s l).launches = s.launches := rfl
@[simp] theorem setL1_saved (s : State) (l : List (Nat × L1Byte)) : (setL1 s l).saved = s.saved := rfl
@[simp] theorem setL1_reserved (s : State) (l : List (Nat × L1Byte)) : (setL1 s l).reserved = s.reserved := rfl
@[simp] theorem setL1_claims (s : State) (l : List (Nat × L1Byte)) : (setL1 s l).claims = s.claims := rfl
@[simp] theorem setL1_quiet (s : State) (l : List (Nat × L1Byte)) : (setL1 s l).quiet = s.quiet := rfl
@[simp] theorem setL1_absentNew (s : State) (l : List (Nat × L1Byte)) : (setL1 s l).absentNew = s.absentNew := rfl
@[simp] theorem setL1_rmap (s : State) (l : List (Nat × L1Byte)) : (setL1 s l).rmap = s.rmap := rfl
@[simp] theorem setL1_failing (s : State) (l : List (Nat × L1Byte)) : (setL1 s l).failing = s.failing := rfl
@[simp] theorem setL1_retrain (s : State) (l : List (Nat × L1Byte)) : (setL1 s l).retrain = s.retrain := rfl
@[simp] theorem setL1_invals (s : State) (l : List (Nat × L1Byte)) : (setL1 s l).invals = s.invals := rfl
@[simp] theorem setL1_eras (s : State) (l : List (Nat × L1Byte)) : (setL1 s l).eras = s.eras := rfl
@[simp] theorem setL1_known (s : State) (l : List (Nat × L1Byte)) : (setL1 s l).known = s.known := rfl
@[simp] theorem setL1_lostAt (s : State) (l : List (Nat × L1Byte)) : (setL1 s l).lostAt = s.lostAt := rfl
@[simp] theorem setL1_dieFw (s : State) (l : List (Nat × L1Byte)) : (setL1 s l).dieFw = s.dieFw := rfl
@[simp] theorem setL1_hostKey0 (s : State) (l : List (Nat × L1Byte)) : (setL1 s l).hostKey0 = s.hostKey0 := rfl
@[simp] theorem setL1_hostKey1 (s : State) (l : List (Nat × L1Byte)) : (setL1 s l).hostKey1 = s.hostKey1 := rfl
@[simp] theorem setL1_stage (s : State) (l : List (Nat × L1Byte)) : (setL1 s l).stage = s.stage := rfl
@[simp] theorem setL1_bring (s : State) (l : List (Nat × L1Byte)) : (setL1 s l).bring = s.bring := rfl
@[simp] theorem setL1_report (s : State) (l : List (Nat × L1Byte)) : (setL1 s l).report = s.report := rfl
@[simp] theorem setL1_hostCnt (s : State) (l : List (Nat × L1Byte)) : (setL1 s l).hostCnt = s.hostCnt := rfl
@[simp] theorem setL1_power (s : State) (l : List (Nat × L1Byte)) : (setL1 s l).power = s.power := rfl
@[simp] theorem setL1_flash (s : State) (l : List (Nat × L1Byte)) : (setL1 s l).flash = s.flash := rfl
@[simp] theorem setL1_errinj (s : State) (l : List (Nat × L1Byte)) : (setL1 s l).errinj = s.errinj := rfl
@[simp] theorem setL1_errCount (s : State) (l : List (Nat × L1Byte)) : (setL1 s l).errCount = s.errCount := rfl
@[simp] theorem setL1_ports (s : State) (l : List (Nat × L1Byte)) : (setL1 s l).ports = s.ports := rfl
@[simp] theorem setL1_fabric (s : State) (l : List (Nat × L1Byte)) : (setL1 s l).fabric = s.fabric := rfl
@[simp] theorem setL1_cmdCount (s : State) (l : List (Nat × L1Byte)) : (setL1 s l).cmdCount = s.cmdCount := rfl
@[simp] theorem setL1_askCount (s : State) (l : List (Nat × L1Byte)) : (setL1 s l).askCount = s.askCount := rfl
@[simp] theorem setL1_xmarks (s : State) (l : List (Nat × L1Byte)) : (setL1 s l).xmarks = s.xmarks := rfl
@[simp] theorem setL1_outs (s : State) (l : List (Nat × L1Byte)) : (setL1 s l).outs = s.outs := rfl
@[simp] theorem setL1_retained (s : State) (l : List (Nat × L1Byte)) : (setL1 s l).retained = s.retained := rfl
@[simp] theorem setL1_homes (s : State) (l : List (Nat × L1Byte)) : (setL1 s l).homes = s.homes := rfl
@[simp] theorem setL1_mirrorsAt (s : State) (l : List (Nat × L1Byte)) : (setL1 s l).mirrorsAt = s.mirrorsAt := rfl
@[simp] theorem setL1_inbox (s : State) (l : List (Nat × L1Byte)) : (setL1 s l).inbox = s.inbox := rfl
@[simp] theorem setL1_parkedReq (s : State) (l : List (Nat × L1Byte)) : (setL1 s l).parkedReq = s.parkedReq := rfl
@[simp] theorem setL1_outbox (s : State) (l : List (Nat × L1Byte)) : (setL1 s l).outbox = s.outbox := rfl
@[simp] theorem setL1_wire (s : State) (l : List (Nat × L1Byte)) : (setL1 s l).wire = s.wire := rfl
@[simp] theorem setL1_events (s : State) (l : List (Nat × L1Byte)) : (setL1 s l).events = s.events := rfl
@[simp] theorem setL1_hostOut (s : State) (l : List (Nat × L1Byte)) : (setL1 s l).hostOut = s.hostOut := rfl
@[simp] theorem setL1_freeCount (s : State) (l : List (Nat × L1Byte)) : (setL1 s l).freeCount = s.freeCount := rfl
@[simp] theorem setL1_me_id (s : State) (l : List (Nat × L1Byte)) : (setL1 s l).me.id = s.me.id := rfl
@[simp] theorem setL1_me_run (s : State) (l : List (Nat × L1Byte)) : (setL1 s l).me.run = s.me.run := rfl
@[simp] theorem setL1_me_form (s : State) (l : List (Nat × L1Byte)) : (setL1 s l).me.form = s.me.form := rfl
@[simp] theorem setL1_me_eng (s : State) (l : List (Nat × L1Byte)) : (setL1 s l).me.eng = s.me.eng := rfl
@[simp] theorem setL1_me_flow (s : State) (l : List (Nat × L1Byte)) : (setL1 s l).me.flow = s.me.flow := rfl
@[simp] theorem setL1_me_parked (s : State) (l : List (Nat × L1Byte)) : (setL1 s l).me.parked = s.me.parked := rfl
@[simp] theorem setL1_me_regs (s : State) (l : List (Nat × L1Byte)) : (setL1 s l).me.regs = s.me.regs := rfl
@[simp] theorem setL1_me_str (s : State) (l : List (Nat × L1Byte)) : (setL1 s l).me.str = s.me.str := rfl
@[simp] theorem setL1_me_csr (s : State) (l : List (Nat × L1Byte)) : (setL1 s l).me.csr = s.me.csr := rfl
@[simp] theorem setL1_me_regions (s : State) (l : List (Nat × L1Byte)) : (setL1 s l).me.regions = s.me.regions := rfl
@[simp] theorem setL1_me_hdl (s : State) (l : List (Nat × L1Byte)) : (setL1 s l).me.hdl = s.me.hdl := rfl
@[simp] theorem setL1_me_emu (s : State) (l : List (Nat × L1Byte)) : (setL1 s l).me.emu = s.me.emu := rfl
@[simp] theorem setL1_me_erls (s : State) (l : List (Nat × L1Byte)) : (setL1 s l).me.erls = s.me.erls := rfl
@[simp] theorem setL1_me_granted (s : State) (l : List (Nat × L1Byte)) : (setL1 s l).me.granted = s.me.granted := rfl
@[simp] theorem setL1_me_rho (s : State) (l : List (Nat × L1Byte)) : (setL1 s l).me.rho = s.me.rho := rfl
@[simp] theorem setL1_me_wait (s : State) (l : List (Nat × L1Byte)) : (setL1 s l).me.wait = s.me.wait := rfl
@[simp] theorem setL1_me_waits (s : State) (l : List (Nat × L1Byte)) : (setL1 s l).me.waits = s.me.waits := rfl
@[simp] theorem setL1_me_mode0 (s : State) (l : List (Nat × L1Byte)) : (setL1 s l).me.mode0 = s.me.mode0 := rfl
@[simp] theorem setL1_me_lqC (s : State) (l : List (Nat × L1Byte)) : (setL1 s l).me.lqC = s.me.lqC := rfl
@[simp] theorem setL1_me_sqC (s : State) (l : List (Nat × L1Byte)) : (setL1 s l).me.sqC = s.me.sqC := rfl
@[simp] theorem setL1_me_sqS (s : State) (l : List (Nat × L1Byte)) : (setL1 s l).me.sqS = s.me.sqS := rfl
@[simp] theorem setL1_me_rewind (s : State) (l : List (Nat × L1Byte)) : (setL1 s l).me.rewind = s.me.rewind := rfl
@[simp] theorem setL1_me_posts (s : State) (l : List (Nat × L1Byte)) : (setL1 s l).me.posts = s.me.posts := rfl
@[simp] theorem setL1_me_text (s : State) (l : List (Nat × L1Byte)) : (setL1 s l).me.text = s.me.text := rfl
@[simp] theorem setL1_me_code (s : State) (l : List (Nat × L1Byte)) : (setL1 s l).me.code = s.me.code := rfl
@[simp] theorem setL1_me_anns (s : State) (l : List (Nat × L1Byte)) : (setL1 s l).me.anns = s.me.anns := rfl
@[simp] theorem setL1_me_map (s : State) (l : List (Nat × L1Byte)) : (setL1 s l).me.map = s.me.map := rfl
@[simp] theorem setL1_me_absent (s : State) (l : List (Nat × L1Byte)) : (setL1 s l).me.absent = s.me.absent := rfl
@[simp] theorem setL1_me_weak (s : State) (l : List (Nat × L1Byte)) : (setL1 s l).me.weak = s.me.weak := rfl
@[simp] theorem setL1_me_slots (s : State) (l : List (Nat × L1Byte)) : (setL1 s l).me.slots = s.me.slots := rfl
@[simp] theorem setL1_me_emulate (s : State) (l : List (Nat × L1Byte)) : (setL1 s l).me.emulate = s.me.emulate := rfl
@[simp] theorem setL1_me_task (s : State) (l : List (Nat × L1Byte)) : (setL1 s l).me.task = s.me.task := rfl
@[simp] theorem setL1_me_lastCtx (s : State) (l : List (Nat × L1Byte)) : (setL1 s l).me.lastCtx = s.me.lastCtx := rfl
@[simp] theorem setL1_me_fault (s : State) (l : List (Nat × L1Byte)) : (setL1 s l).me.fault = s.me.fault := rfl
@[simp] theorem setL1_me_stops (s : State) (l : List (Nat × L1Byte)) : (setL1 s l).me.stops = s.me.stops := rfl
@[simp] theorem setL1_me_stepTo (s : State) (l : List (Nat × L1Byte)) : (setL1 s l).me.stepTo = s.me.stepTo := rfl
@[simp] theorem setL1_me_gate (s : State) (l : List (Nat × L1Byte)) : (setL1 s l).me.gate = s.me.gate := rfl
@[simp] theorem setL1_me_defer (s : State) (l : List (Nat × L1Byte)) : (setL1 s l).me.defer = s.me.defer := rfl
@[simp] theorem setL1_me_costs (s : State) (l : List (Nat × L1Byte)) : (setL1 s l).me.costs = s.me.costs := rfl
@[simp] theorem setL1_me_l1 (s : State) (l : List (Nat × L1Byte)) : (setL1 s l).me.l1 = l := rfl

/-! updPart -/

@[simp] theorem updPart_me (s : State) (p : Nat) (f : Partition → Partition) : (updPart s p f).me = s.me := rfl
@[simp] theorem updPart_others (s : State) (p : Nat) (f : Partition → Partition) : (updPart s p f).others = s.others := rfl
@[simp] theorem updPart_sched (s : State) (p : Nat) (f : Partition → Partition) : (updPart s p f).sched = s.sched := rfl
@[simp] theorem updPart_ticks (s : State) (p : Nat) (f : Partition → Partition) : (updPart s p f).ticks = s.ticks := rfl
@[simp] theorem updPart_time (s : State) (p : Nat) (f : Partition → Partition) : (updPart s p f).time = s.time := rfl
@[simp] theorem updPart_cycles (s : State) (p : Nat) (f : Partition → Partition) : (updPart s p f).cycles = s.cycles := rfl
@[simp] theorem updPart_mem (s : State) (p : Nat) (f : Partition → Partition) : (updPart s p f).mem = s.mem := rfl
@[simp] theorem updPart_marks (s : State) (p : Nat) (f : Partition → Partition) : (updPart s p f).marks = s.marks := rfl
@[simp] theorem updPart_soft (s : State) (p : Nat) (f : Partition → Partition) : (updPart s p f).soft = s.soft := rfl
@[simp] theorem updPart_rv (s : State) (p : Nat) (f : Partition → Partition) : (updPart s p f).rv = s.rv := rfl
@[simp] theorem updPart_ccache (s : State) (p : Nat) (f : Partition → Partition) : (updPart s p f).ccache = s.ccache := rfl
@[simp] theorem updPart_tlb (s : State) (p : Nat) (f : Partition → Partition) : (updPart s p f).tlb = s.tlb := rfl
@[simp] theorem updPart_versions (s : State) (p : Nat) (f : Partition → Partition) : (updPart s p f).versions = s.versions := rfl
@[simp] theorem updPart_verNext (s : State) (p : Nat) (f : Partition → Partition) : (updPart s p f).verNext = s.verNext := rfl
@[simp] theorem updPart_mailboxes (s : State) (p : Nat) (f : Partition → Partition) : (updPart s p f).mailboxes = s.mailboxes := rfl
@[simp] theorem updPart_outHands (s : State) (p : Nat) (f : Partition → Partition) : (updPart s p f).outHands = s.outHands := rfl
@[simp] theorem updPart_crews (s : State) (p : Nat) (f : Partition → Partition) : (updPart s p f).crews = s.crews := rfl
@[simp] theorem updPart_crewNext (s : State) (p : Nat) (f : Partition → Partition) : (updPart s p f).crewNext = s.crewNext := rfl
@[simp] theorem updPart_spostq (s : State) (p : Nat) (f : Partition → Partition) : (updPart s p f).spostq = s.spostq := rfl
@[simp] theorem updPart_ctxNext (s : State) (p : Nat) (f : Partition → Partition) : (updPart s p f).ctxNext = s.ctxNext := rfl
@[simp] theorem updPart_kernels (s : State) (p : Nat) (f : Partition → Partition) : (updPart s p f).kernels = s.kernels := rfl
@[simp] theorem updPart_launches (s : State) (p : Nat) (f : Partition → Partition) : (updPart s p f).launches = s.launches := rfl
@[simp] theorem updPart_saved (s : State) (p : Nat) (f : Partition → Partition) : (updPart s p f).saved = s.saved := rfl
@[simp] theorem updPart_reserved (s : State) (p : Nat) (f : Partition → Partition) : (updPart s p f).reserved = s.reserved := rfl
@[simp] theorem updPart_claims (s : State) (p : Nat) (f : Partition → Partition) : (updPart s p f).claims = s.claims := rfl
@[simp] theorem updPart_quiet (s : State) (p : Nat) (f : Partition → Partition) : (updPart s p f).quiet = s.quiet := rfl
@[simp] theorem updPart_absentNew (s : State) (p : Nat) (f : Partition → Partition) : (updPart s p f).absentNew = s.absentNew := rfl
@[simp] theorem updPart_rmap (s : State) (p : Nat) (f : Partition → Partition) : (updPart s p f).rmap = s.rmap := rfl
@[simp] theorem updPart_failing (s : State) (p : Nat) (f : Partition → Partition) : (updPart s p f).failing = s.failing := rfl
@[simp] theorem updPart_retrain (s : State) (p : Nat) (f : Partition → Partition) : (updPart s p f).retrain = s.retrain := rfl
@[simp] theorem updPart_invals (s : State) (p : Nat) (f : Partition → Partition) : (updPart s p f).invals = s.invals := rfl
@[simp] theorem updPart_eras (s : State) (p : Nat) (f : Partition → Partition) : (updPart s p f).eras = s.eras := rfl
@[simp] theorem updPart_known (s : State) (p : Nat) (f : Partition → Partition) : (updPart s p f).known = s.known := rfl
@[simp] theorem updPart_lostAt (s : State) (p : Nat) (f : Partition → Partition) : (updPart s p f).lostAt = s.lostAt := rfl
@[simp] theorem updPart_dieFw (s : State) (p : Nat) (f : Partition → Partition) : (updPart s p f).dieFw = s.dieFw := rfl
@[simp] theorem updPart_hostKey0 (s : State) (p : Nat) (f : Partition → Partition) : (updPart s p f).hostKey0 = s.hostKey0 := rfl
@[simp] theorem updPart_hostKey1 (s : State) (p : Nat) (f : Partition → Partition) : (updPart s p f).hostKey1 = s.hostKey1 := rfl
@[simp] theorem updPart_stage (s : State) (p : Nat) (f : Partition → Partition) : (updPart s p f).stage = s.stage := rfl
@[simp] theorem updPart_bring (s : State) (p : Nat) (f : Partition → Partition) : (updPart s p f).bring = s.bring := rfl
@[simp] theorem updPart_report (s : State) (p : Nat) (f : Partition → Partition) : (updPart s p f).report = s.report := rfl
@[simp] theorem updPart_hostCnt (s : State) (p : Nat) (f : Partition → Partition) : (updPart s p f).hostCnt = s.hostCnt := rfl
@[simp] theorem updPart_power (s : State) (p : Nat) (f : Partition → Partition) : (updPart s p f).power = s.power := rfl
@[simp] theorem updPart_flash (s : State) (p : Nat) (f : Partition → Partition) : (updPart s p f).flash = s.flash := rfl
@[simp] theorem updPart_errinj (s : State) (p : Nat) (f : Partition → Partition) : (updPart s p f).errinj = s.errinj := rfl
@[simp] theorem updPart_errCount (s : State) (p : Nat) (f : Partition → Partition) : (updPart s p f).errCount = s.errCount := rfl
@[simp] theorem updPart_ports (s : State) (p : Nat) (f : Partition → Partition) : (updPart s p f).ports = s.ports := rfl
@[simp] theorem updPart_fabric (s : State) (p : Nat) (f : Partition → Partition) : (updPart s p f).fabric = s.fabric := rfl
@[simp] theorem updPart_cmdCount (s : State) (p : Nat) (f : Partition → Partition) : (updPart s p f).cmdCount = s.cmdCount := rfl
@[simp] theorem updPart_askCount (s : State) (p : Nat) (f : Partition → Partition) : (updPart s p f).askCount = s.askCount := rfl
@[simp] theorem updPart_xmarks (s : State) (p : Nat) (f : Partition → Partition) : (updPart s p f).xmarks = s.xmarks := rfl
@[simp] theorem updPart_outs (s : State) (p : Nat) (f : Partition → Partition) : (updPart s p f).outs = s.outs := rfl
@[simp] theorem updPart_retained (s : State) (p : Nat) (f : Partition → Partition) : (updPart s p f).retained = s.retained := rfl
@[simp] theorem updPart_homes (s : State) (p : Nat) (f : Partition → Partition) : (updPart s p f).homes = s.homes := rfl
@[simp] theorem updPart_mirrorsAt (s : State) (p : Nat) (f : Partition → Partition) : (updPart s p f).mirrorsAt = s.mirrorsAt := rfl
@[simp] theorem updPart_inbox (s : State) (p : Nat) (f : Partition → Partition) : (updPart s p f).inbox = s.inbox := rfl
@[simp] theorem updPart_parkedReq (s : State) (p : Nat) (f : Partition → Partition) : (updPart s p f).parkedReq = s.parkedReq := rfl
@[simp] theorem updPart_outbox (s : State) (p : Nat) (f : Partition → Partition) : (updPart s p f).outbox = s.outbox := rfl
@[simp] theorem updPart_wire (s : State) (p : Nat) (f : Partition → Partition) : (updPart s p f).wire = s.wire := rfl
@[simp] theorem updPart_events (s : State) (p : Nat) (f : Partition → Partition) : (updPart s p f).events = s.events := rfl
@[simp] theorem updPart_hostOut (s : State) (p : Nat) (f : Partition → Partition) : (updPart s p f).hostOut = s.hostOut := rfl
@[simp] theorem updPart_freeCount (s : State) (p : Nat) (f : Partition → Partition) : (updPart s p f).freeCount = s.freeCount := rfl

/-! updVer -/

@[simp] theorem updVer_me (s : State) (n : Nat) (f : Version → Version) : (updVer s n f).me = s.me := rfl
@[simp] theorem updVer_others (s : State) (n : Nat) (f : Version → Version) : (updVer s n f).others = s.others := rfl
@[simp] theorem updVer_sched (s : State) (n : Nat) (f : Version → Version) : (updVer s n f).sched = s.sched := rfl
@[simp] theorem updVer_ticks (s : State) (n : Nat) (f : Version → Version) : (updVer s n f).ticks = s.ticks := rfl
@[simp] theorem updVer_time (s : State) (n : Nat) (f : Version → Version) : (updVer s n f).time = s.time := rfl
@[simp] theorem updVer_cycles (s : State) (n : Nat) (f : Version → Version) : (updVer s n f).cycles = s.cycles := rfl
@[simp] theorem updVer_mem (s : State) (n : Nat) (f : Version → Version) : (updVer s n f).mem = s.mem := rfl
@[simp] theorem updVer_marks (s : State) (n : Nat) (f : Version → Version) : (updVer s n f).marks = s.marks := rfl
@[simp] theorem updVer_soft (s : State) (n : Nat) (f : Version → Version) : (updVer s n f).soft = s.soft := rfl
@[simp] theorem updVer_rv (s : State) (n : Nat) (f : Version → Version) : (updVer s n f).rv = s.rv := rfl
@[simp] theorem updVer_ccache (s : State) (n : Nat) (f : Version → Version) : (updVer s n f).ccache = s.ccache := rfl
@[simp] theorem updVer_tlb (s : State) (n : Nat) (f : Version → Version) : (updVer s n f).tlb = s.tlb := rfl
@[simp] theorem updVer_verNext (s : State) (n : Nat) (f : Version → Version) : (updVer s n f).verNext = s.verNext := rfl
@[simp] theorem updVer_mailboxes (s : State) (n : Nat) (f : Version → Version) : (updVer s n f).mailboxes = s.mailboxes := rfl
@[simp] theorem updVer_outHands (s : State) (n : Nat) (f : Version → Version) : (updVer s n f).outHands = s.outHands := rfl
@[simp] theorem updVer_crews (s : State) (n : Nat) (f : Version → Version) : (updVer s n f).crews = s.crews := rfl
@[simp] theorem updVer_crewNext (s : State) (n : Nat) (f : Version → Version) : (updVer s n f).crewNext = s.crewNext := rfl
@[simp] theorem updVer_spostq (s : State) (n : Nat) (f : Version → Version) : (updVer s n f).spostq = s.spostq := rfl
@[simp] theorem updVer_parts (s : State) (n : Nat) (f : Version → Version) : (updVer s n f).parts = s.parts := rfl
@[simp] theorem updVer_ctxNext (s : State) (n : Nat) (f : Version → Version) : (updVer s n f).ctxNext = s.ctxNext := rfl
@[simp] theorem updVer_kernels (s : State) (n : Nat) (f : Version → Version) : (updVer s n f).kernels = s.kernels := rfl
@[simp] theorem updVer_launches (s : State) (n : Nat) (f : Version → Version) : (updVer s n f).launches = s.launches := rfl
@[simp] theorem updVer_saved (s : State) (n : Nat) (f : Version → Version) : (updVer s n f).saved = s.saved := rfl
@[simp] theorem updVer_reserved (s : State) (n : Nat) (f : Version → Version) : (updVer s n f).reserved = s.reserved := rfl
@[simp] theorem updVer_claims (s : State) (n : Nat) (f : Version → Version) : (updVer s n f).claims = s.claims := rfl
@[simp] theorem updVer_quiet (s : State) (n : Nat) (f : Version → Version) : (updVer s n f).quiet = s.quiet := rfl
@[simp] theorem updVer_absentNew (s : State) (n : Nat) (f : Version → Version) : (updVer s n f).absentNew = s.absentNew := rfl
@[simp] theorem updVer_rmap (s : State) (n : Nat) (f : Version → Version) : (updVer s n f).rmap = s.rmap := rfl
@[simp] theorem updVer_failing (s : State) (n : Nat) (f : Version → Version) : (updVer s n f).failing = s.failing := rfl
@[simp] theorem updVer_retrain (s : State) (n : Nat) (f : Version → Version) : (updVer s n f).retrain = s.retrain := rfl
@[simp] theorem updVer_invals (s : State) (n : Nat) (f : Version → Version) : (updVer s n f).invals = s.invals := rfl
@[simp] theorem updVer_eras (s : State) (n : Nat) (f : Version → Version) : (updVer s n f).eras = s.eras := rfl
@[simp] theorem updVer_known (s : State) (n : Nat) (f : Version → Version) : (updVer s n f).known = s.known := rfl
@[simp] theorem updVer_lostAt (s : State) (n : Nat) (f : Version → Version) : (updVer s n f).lostAt = s.lostAt := rfl
@[simp] theorem updVer_dieFw (s : State) (n : Nat) (f : Version → Version) : (updVer s n f).dieFw = s.dieFw := rfl
@[simp] theorem updVer_hostKey0 (s : State) (n : Nat) (f : Version → Version) : (updVer s n f).hostKey0 = s.hostKey0 := rfl
@[simp] theorem updVer_hostKey1 (s : State) (n : Nat) (f : Version → Version) : (updVer s n f).hostKey1 = s.hostKey1 := rfl
@[simp] theorem updVer_stage (s : State) (n : Nat) (f : Version → Version) : (updVer s n f).stage = s.stage := rfl
@[simp] theorem updVer_bring (s : State) (n : Nat) (f : Version → Version) : (updVer s n f).bring = s.bring := rfl
@[simp] theorem updVer_report (s : State) (n : Nat) (f : Version → Version) : (updVer s n f).report = s.report := rfl
@[simp] theorem updVer_hostCnt (s : State) (n : Nat) (f : Version → Version) : (updVer s n f).hostCnt = s.hostCnt := rfl
@[simp] theorem updVer_power (s : State) (n : Nat) (f : Version → Version) : (updVer s n f).power = s.power := rfl
@[simp] theorem updVer_flash (s : State) (n : Nat) (f : Version → Version) : (updVer s n f).flash = s.flash := rfl
@[simp] theorem updVer_errinj (s : State) (n : Nat) (f : Version → Version) : (updVer s n f).errinj = s.errinj := rfl
@[simp] theorem updVer_errCount (s : State) (n : Nat) (f : Version → Version) : (updVer s n f).errCount = s.errCount := rfl
@[simp] theorem updVer_ports (s : State) (n : Nat) (f : Version → Version) : (updVer s n f).ports = s.ports := rfl
@[simp] theorem updVer_fabric (s : State) (n : Nat) (f : Version → Version) : (updVer s n f).fabric = s.fabric := rfl
@[simp] theorem updVer_cmdCount (s : State) (n : Nat) (f : Version → Version) : (updVer s n f).cmdCount = s.cmdCount := rfl
@[simp] theorem updVer_askCount (s : State) (n : Nat) (f : Version → Version) : (updVer s n f).askCount = s.askCount := rfl
@[simp] theorem updVer_xmarks (s : State) (n : Nat) (f : Version → Version) : (updVer s n f).xmarks = s.xmarks := rfl
@[simp] theorem updVer_outs (s : State) (n : Nat) (f : Version → Version) : (updVer s n f).outs = s.outs := rfl
@[simp] theorem updVer_retained (s : State) (n : Nat) (f : Version → Version) : (updVer s n f).retained = s.retained := rfl
@[simp] theorem updVer_homes (s : State) (n : Nat) (f : Version → Version) : (updVer s n f).homes = s.homes := rfl
@[simp] theorem updVer_mirrorsAt (s : State) (n : Nat) (f : Version → Version) : (updVer s n f).mirrorsAt = s.mirrorsAt := rfl
@[simp] theorem updVer_inbox (s : State) (n : Nat) (f : Version → Version) : (updVer s n f).inbox = s.inbox := rfl
@[simp] theorem updVer_parkedReq (s : State) (n : Nat) (f : Version → Version) : (updVer s n f).parkedReq = s.parkedReq := rfl
@[simp] theorem updVer_outbox (s : State) (n : Nat) (f : Version → Version) : (updVer s n f).outbox = s.outbox := rfl
@[simp] theorem updVer_wire (s : State) (n : Nat) (f : Version → Version) : (updVer s n f).wire = s.wire := rfl
@[simp] theorem updVer_events (s : State) (n : Nat) (f : Version → Version) : (updVer s n f).events = s.events := rfl
@[simp] theorem updVer_hostOut (s : State) (n : Nat) (f : Version → Version) : (updVer s n f).hostOut = s.hostOut := rfl
@[simp] theorem updVer_freeCount (s : State) (n : Nat) (f : Version → Version) : (updVer s n f).freeCount = s.freeCount := rfl

/-! updLaunch -/

@[simp] theorem updLaunch_me (s : State) (n : Nat) (f : Launch → Launch) : (updLaunch s n f).me = s.me := rfl
@[simp] theorem updLaunch_others (s : State) (n : Nat) (f : Launch → Launch) : (updLaunch s n f).others = s.others := rfl
@[simp] theorem updLaunch_sched (s : State) (n : Nat) (f : Launch → Launch) : (updLaunch s n f).sched = s.sched := rfl
@[simp] theorem updLaunch_ticks (s : State) (n : Nat) (f : Launch → Launch) : (updLaunch s n f).ticks = s.ticks := rfl
@[simp] theorem updLaunch_time (s : State) (n : Nat) (f : Launch → Launch) : (updLaunch s n f).time = s.time := rfl
@[simp] theorem updLaunch_cycles (s : State) (n : Nat) (f : Launch → Launch) : (updLaunch s n f).cycles = s.cycles := rfl
@[simp] theorem updLaunch_mem (s : State) (n : Nat) (f : Launch → Launch) : (updLaunch s n f).mem = s.mem := rfl
@[simp] theorem updLaunch_marks (s : State) (n : Nat) (f : Launch → Launch) : (updLaunch s n f).marks = s.marks := rfl
@[simp] theorem updLaunch_soft (s : State) (n : Nat) (f : Launch → Launch) : (updLaunch s n f).soft = s.soft := rfl
@[simp] theorem updLaunch_rv (s : State) (n : Nat) (f : Launch → Launch) : (updLaunch s n f).rv = s.rv := rfl
@[simp] theorem updLaunch_ccache (s : State) (n : Nat) (f : Launch → Launch) : (updLaunch s n f).ccache = s.ccache := rfl
@[simp] theorem updLaunch_tlb (s : State) (n : Nat) (f : Launch → Launch) : (updLaunch s n f).tlb = s.tlb := rfl
@[simp] theorem updLaunch_versions (s : State) (n : Nat) (f : Launch → Launch) : (updLaunch s n f).versions = s.versions := rfl
@[simp] theorem updLaunch_verNext (s : State) (n : Nat) (f : Launch → Launch) : (updLaunch s n f).verNext = s.verNext := rfl
@[simp] theorem updLaunch_mailboxes (s : State) (n : Nat) (f : Launch → Launch) : (updLaunch s n f).mailboxes = s.mailboxes := rfl
@[simp] theorem updLaunch_outHands (s : State) (n : Nat) (f : Launch → Launch) : (updLaunch s n f).outHands = s.outHands := rfl
@[simp] theorem updLaunch_crews (s : State) (n : Nat) (f : Launch → Launch) : (updLaunch s n f).crews = s.crews := rfl
@[simp] theorem updLaunch_crewNext (s : State) (n : Nat) (f : Launch → Launch) : (updLaunch s n f).crewNext = s.crewNext := rfl
@[simp] theorem updLaunch_spostq (s : State) (n : Nat) (f : Launch → Launch) : (updLaunch s n f).spostq = s.spostq := rfl
@[simp] theorem updLaunch_parts (s : State) (n : Nat) (f : Launch → Launch) : (updLaunch s n f).parts = s.parts := rfl
@[simp] theorem updLaunch_ctxNext (s : State) (n : Nat) (f : Launch → Launch) : (updLaunch s n f).ctxNext = s.ctxNext := rfl
@[simp] theorem updLaunch_kernels (s : State) (n : Nat) (f : Launch → Launch) : (updLaunch s n f).kernels = s.kernels := rfl
@[simp] theorem updLaunch_saved (s : State) (n : Nat) (f : Launch → Launch) : (updLaunch s n f).saved = s.saved := rfl
@[simp] theorem updLaunch_reserved (s : State) (n : Nat) (f : Launch → Launch) : (updLaunch s n f).reserved = s.reserved := rfl
@[simp] theorem updLaunch_claims (s : State) (n : Nat) (f : Launch → Launch) : (updLaunch s n f).claims = s.claims := rfl
@[simp] theorem updLaunch_quiet (s : State) (n : Nat) (f : Launch → Launch) : (updLaunch s n f).quiet = s.quiet := rfl
@[simp] theorem updLaunch_absentNew (s : State) (n : Nat) (f : Launch → Launch) : (updLaunch s n f).absentNew = s.absentNew := rfl
@[simp] theorem updLaunch_rmap (s : State) (n : Nat) (f : Launch → Launch) : (updLaunch s n f).rmap = s.rmap := rfl
@[simp] theorem updLaunch_failing (s : State) (n : Nat) (f : Launch → Launch) : (updLaunch s n f).failing = s.failing := rfl
@[simp] theorem updLaunch_retrain (s : State) (n : Nat) (f : Launch → Launch) : (updLaunch s n f).retrain = s.retrain := rfl
@[simp] theorem updLaunch_invals (s : State) (n : Nat) (f : Launch → Launch) : (updLaunch s n f).invals = s.invals := rfl
@[simp] theorem updLaunch_eras (s : State) (n : Nat) (f : Launch → Launch) : (updLaunch s n f).eras = s.eras := rfl
@[simp] theorem updLaunch_known (s : State) (n : Nat) (f : Launch → Launch) : (updLaunch s n f).known = s.known := rfl
@[simp] theorem updLaunch_lostAt (s : State) (n : Nat) (f : Launch → Launch) : (updLaunch s n f).lostAt = s.lostAt := rfl
@[simp] theorem updLaunch_dieFw (s : State) (n : Nat) (f : Launch → Launch) : (updLaunch s n f).dieFw = s.dieFw := rfl
@[simp] theorem updLaunch_hostKey0 (s : State) (n : Nat) (f : Launch → Launch) : (updLaunch s n f).hostKey0 = s.hostKey0 := rfl
@[simp] theorem updLaunch_hostKey1 (s : State) (n : Nat) (f : Launch → Launch) : (updLaunch s n f).hostKey1 = s.hostKey1 := rfl
@[simp] theorem updLaunch_stage (s : State) (n : Nat) (f : Launch → Launch) : (updLaunch s n f).stage = s.stage := rfl
@[simp] theorem updLaunch_bring (s : State) (n : Nat) (f : Launch → Launch) : (updLaunch s n f).bring = s.bring := rfl
@[simp] theorem updLaunch_report (s : State) (n : Nat) (f : Launch → Launch) : (updLaunch s n f).report = s.report := rfl
@[simp] theorem updLaunch_hostCnt (s : State) (n : Nat) (f : Launch → Launch) : (updLaunch s n f).hostCnt = s.hostCnt := rfl
@[simp] theorem updLaunch_power (s : State) (n : Nat) (f : Launch → Launch) : (updLaunch s n f).power = s.power := rfl
@[simp] theorem updLaunch_flash (s : State) (n : Nat) (f : Launch → Launch) : (updLaunch s n f).flash = s.flash := rfl
@[simp] theorem updLaunch_errinj (s : State) (n : Nat) (f : Launch → Launch) : (updLaunch s n f).errinj = s.errinj := rfl
@[simp] theorem updLaunch_errCount (s : State) (n : Nat) (f : Launch → Launch) : (updLaunch s n f).errCount = s.errCount := rfl
@[simp] theorem updLaunch_ports (s : State) (n : Nat) (f : Launch → Launch) : (updLaunch s n f).ports = s.ports := rfl
@[simp] theorem updLaunch_fabric (s : State) (n : Nat) (f : Launch → Launch) : (updLaunch s n f).fabric = s.fabric := rfl
@[simp] theorem updLaunch_cmdCount (s : State) (n : Nat) (f : Launch → Launch) : (updLaunch s n f).cmdCount = s.cmdCount := rfl
@[simp] theorem updLaunch_askCount (s : State) (n : Nat) (f : Launch → Launch) : (updLaunch s n f).askCount = s.askCount := rfl
@[simp] theorem updLaunch_xmarks (s : State) (n : Nat) (f : Launch → Launch) : (updLaunch s n f).xmarks = s.xmarks := rfl
@[simp] theorem updLaunch_outs (s : State) (n : Nat) (f : Launch → Launch) : (updLaunch s n f).outs = s.outs := rfl
@[simp] theorem updLaunch_retained (s : State) (n : Nat) (f : Launch → Launch) : (updLaunch s n f).retained = s.retained := rfl
@[simp] theorem updLaunch_homes (s : State) (n : Nat) (f : Launch → Launch) : (updLaunch s n f).homes = s.homes := rfl
@[simp] theorem updLaunch_mirrorsAt (s : State) (n : Nat) (f : Launch → Launch) : (updLaunch s n f).mirrorsAt = s.mirrorsAt := rfl
@[simp] theorem updLaunch_inbox (s : State) (n : Nat) (f : Launch → Launch) : (updLaunch s n f).inbox = s.inbox := rfl
@[simp] theorem updLaunch_parkedReq (s : State) (n : Nat) (f : Launch → Launch) : (updLaunch s n f).parkedReq = s.parkedReq := rfl
@[simp] theorem updLaunch_outbox (s : State) (n : Nat) (f : Launch → Launch) : (updLaunch s n f).outbox = s.outbox := rfl
@[simp] theorem updLaunch_wire (s : State) (n : Nat) (f : Launch → Launch) : (updLaunch s n f).wire = s.wire := rfl
@[simp] theorem updLaunch_events (s : State) (n : Nat) (f : Launch → Launch) : (updLaunch s n f).events = s.events := rfl
@[simp] theorem updLaunch_hostOut (s : State) (n : Nat) (f : Launch → Launch) : (updLaunch s n f).hostOut = s.hostOut := rfl
@[simp] theorem updLaunch_freeCount (s : State) (n : Nat) (f : Launch → Launch) : (updLaunch s n f).freeCount = s.freeCount := rfl

/-! updCrew -/

@[simp] theorem updCrew_me (s : State) (n : Nat) (f : Crew → Crew) : (updCrew s n f).me = s.me := rfl
@[simp] theorem updCrew_others (s : State) (n : Nat) (f : Crew → Crew) : (updCrew s n f).others = s.others := rfl
@[simp] theorem updCrew_sched (s : State) (n : Nat) (f : Crew → Crew) : (updCrew s n f).sched = s.sched := rfl
@[simp] theorem updCrew_ticks (s : State) (n : Nat) (f : Crew → Crew) : (updCrew s n f).ticks = s.ticks := rfl
@[simp] theorem updCrew_time (s : State) (n : Nat) (f : Crew → Crew) : (updCrew s n f).time = s.time := rfl
@[simp] theorem updCrew_cycles (s : State) (n : Nat) (f : Crew → Crew) : (updCrew s n f).cycles = s.cycles := rfl
@[simp] theorem updCrew_mem (s : State) (n : Nat) (f : Crew → Crew) : (updCrew s n f).mem = s.mem := rfl
@[simp] theorem updCrew_marks (s : State) (n : Nat) (f : Crew → Crew) : (updCrew s n f).marks = s.marks := rfl
@[simp] theorem updCrew_soft (s : State) (n : Nat) (f : Crew → Crew) : (updCrew s n f).soft = s.soft := rfl
@[simp] theorem updCrew_rv (s : State) (n : Nat) (f : Crew → Crew) : (updCrew s n f).rv = s.rv := rfl
@[simp] theorem updCrew_ccache (s : State) (n : Nat) (f : Crew → Crew) : (updCrew s n f).ccache = s.ccache := rfl
@[simp] theorem updCrew_tlb (s : State) (n : Nat) (f : Crew → Crew) : (updCrew s n f).tlb = s.tlb := rfl
@[simp] theorem updCrew_versions (s : State) (n : Nat) (f : Crew → Crew) : (updCrew s n f).versions = s.versions := rfl
@[simp] theorem updCrew_verNext (s : State) (n : Nat) (f : Crew → Crew) : (updCrew s n f).verNext = s.verNext := rfl
@[simp] theorem updCrew_mailboxes (s : State) (n : Nat) (f : Crew → Crew) : (updCrew s n f).mailboxes = s.mailboxes := rfl
@[simp] theorem updCrew_outHands (s : State) (n : Nat) (f : Crew → Crew) : (updCrew s n f).outHands = s.outHands := rfl
@[simp] theorem updCrew_crewNext (s : State) (n : Nat) (f : Crew → Crew) : (updCrew s n f).crewNext = s.crewNext := rfl
@[simp] theorem updCrew_spostq (s : State) (n : Nat) (f : Crew → Crew) : (updCrew s n f).spostq = s.spostq := rfl
@[simp] theorem updCrew_parts (s : State) (n : Nat) (f : Crew → Crew) : (updCrew s n f).parts = s.parts := rfl
@[simp] theorem updCrew_ctxNext (s : State) (n : Nat) (f : Crew → Crew) : (updCrew s n f).ctxNext = s.ctxNext := rfl
@[simp] theorem updCrew_kernels (s : State) (n : Nat) (f : Crew → Crew) : (updCrew s n f).kernels = s.kernels := rfl
@[simp] theorem updCrew_launches (s : State) (n : Nat) (f : Crew → Crew) : (updCrew s n f).launches = s.launches := rfl
@[simp] theorem updCrew_saved (s : State) (n : Nat) (f : Crew → Crew) : (updCrew s n f).saved = s.saved := rfl
@[simp] theorem updCrew_reserved (s : State) (n : Nat) (f : Crew → Crew) : (updCrew s n f).reserved = s.reserved := rfl
@[simp] theorem updCrew_claims (s : State) (n : Nat) (f : Crew → Crew) : (updCrew s n f).claims = s.claims := rfl
@[simp] theorem updCrew_quiet (s : State) (n : Nat) (f : Crew → Crew) : (updCrew s n f).quiet = s.quiet := rfl
@[simp] theorem updCrew_absentNew (s : State) (n : Nat) (f : Crew → Crew) : (updCrew s n f).absentNew = s.absentNew := rfl
@[simp] theorem updCrew_rmap (s : State) (n : Nat) (f : Crew → Crew) : (updCrew s n f).rmap = s.rmap := rfl
@[simp] theorem updCrew_failing (s : State) (n : Nat) (f : Crew → Crew) : (updCrew s n f).failing = s.failing := rfl
@[simp] theorem updCrew_retrain (s : State) (n : Nat) (f : Crew → Crew) : (updCrew s n f).retrain = s.retrain := rfl
@[simp] theorem updCrew_invals (s : State) (n : Nat) (f : Crew → Crew) : (updCrew s n f).invals = s.invals := rfl
@[simp] theorem updCrew_eras (s : State) (n : Nat) (f : Crew → Crew) : (updCrew s n f).eras = s.eras := rfl
@[simp] theorem updCrew_known (s : State) (n : Nat) (f : Crew → Crew) : (updCrew s n f).known = s.known := rfl
@[simp] theorem updCrew_lostAt (s : State) (n : Nat) (f : Crew → Crew) : (updCrew s n f).lostAt = s.lostAt := rfl
@[simp] theorem updCrew_dieFw (s : State) (n : Nat) (f : Crew → Crew) : (updCrew s n f).dieFw = s.dieFw := rfl
@[simp] theorem updCrew_hostKey0 (s : State) (n : Nat) (f : Crew → Crew) : (updCrew s n f).hostKey0 = s.hostKey0 := rfl
@[simp] theorem updCrew_hostKey1 (s : State) (n : Nat) (f : Crew → Crew) : (updCrew s n f).hostKey1 = s.hostKey1 := rfl
@[simp] theorem updCrew_stage (s : State) (n : Nat) (f : Crew → Crew) : (updCrew s n f).stage = s.stage := rfl
@[simp] theorem updCrew_bring (s : State) (n : Nat) (f : Crew → Crew) : (updCrew s n f).bring = s.bring := rfl
@[simp] theorem updCrew_report (s : State) (n : Nat) (f : Crew → Crew) : (updCrew s n f).report = s.report := rfl
@[simp] theorem updCrew_hostCnt (s : State) (n : Nat) (f : Crew → Crew) : (updCrew s n f).hostCnt = s.hostCnt := rfl
@[simp] theorem updCrew_power (s : State) (n : Nat) (f : Crew → Crew) : (updCrew s n f).power = s.power := rfl
@[simp] theorem updCrew_flash (s : State) (n : Nat) (f : Crew → Crew) : (updCrew s n f).flash = s.flash := rfl
@[simp] theorem updCrew_errinj (s : State) (n : Nat) (f : Crew → Crew) : (updCrew s n f).errinj = s.errinj := rfl
@[simp] theorem updCrew_errCount (s : State) (n : Nat) (f : Crew → Crew) : (updCrew s n f).errCount = s.errCount := rfl
@[simp] theorem updCrew_ports (s : State) (n : Nat) (f : Crew → Crew) : (updCrew s n f).ports = s.ports := rfl
@[simp] theorem updCrew_fabric (s : State) (n : Nat) (f : Crew → Crew) : (updCrew s n f).fabric = s.fabric := rfl
@[simp] theorem updCrew_cmdCount (s : State) (n : Nat) (f : Crew → Crew) : (updCrew s n f).cmdCount = s.cmdCount := rfl
@[simp] theorem updCrew_askCount (s : State) (n : Nat) (f : Crew → Crew) : (updCrew s n f).askCount = s.askCount := rfl
@[simp] theorem updCrew_xmarks (s : State) (n : Nat) (f : Crew → Crew) : (updCrew s n f).xmarks = s.xmarks := rfl
@[simp] theorem updCrew_outs (s : State) (n : Nat) (f : Crew → Crew) : (updCrew s n f).outs = s.outs := rfl
@[simp] theorem updCrew_retained (s : State) (n : Nat) (f : Crew → Crew) : (updCrew s n f).retained = s.retained := rfl
@[simp] theorem updCrew_homes (s : State) (n : Nat) (f : Crew → Crew) : (updCrew s n f).homes = s.homes := rfl
@[simp] theorem updCrew_mirrorsAt (s : State) (n : Nat) (f : Crew → Crew) : (updCrew s n f).mirrorsAt = s.mirrorsAt := rfl
@[simp] theorem updCrew_inbox (s : State) (n : Nat) (f : Crew → Crew) : (updCrew s n f).inbox = s.inbox := rfl
@[simp] theorem updCrew_parkedReq (s : State) (n : Nat) (f : Crew → Crew) : (updCrew s n f).parkedReq = s.parkedReq := rfl
@[simp] theorem updCrew_outbox (s : State) (n : Nat) (f : Crew → Crew) : (updCrew s n f).outbox = s.outbox := rfl
@[simp] theorem updCrew_wire (s : State) (n : Nat) (f : Crew → Crew) : (updCrew s n f).wire = s.wire := rfl
@[simp] theorem updCrew_events (s : State) (n : Nat) (f : Crew → Crew) : (updCrew s n f).events = s.events := rfl
@[simp] theorem updCrew_hostOut (s : State) (n : Nat) (f : Crew → Crew) : (updCrew s n f).hostOut = s.hostOut := rfl
@[simp] theorem updCrew_freeCount (s : State) (n : Nat) (f : Crew → Crew) : (updCrew s n f).freeCount = s.freeCount := rfl

/-! setMark -/

@[simp] theorem setMark_me (s : State) (k : Nat) (m : Mark) : (setMark s k m).me = s.me := rfl
@[simp] theorem setMark_others (s : State) (k : Nat) (m : Mark) : (setMark s k m).others = s.others := rfl
@[simp] theorem setMark_sched (s : State) (k : Nat) (m : Mark) : (setMark s k m).sched = s.sched := rfl
@[simp] theorem setMark_ticks (s : State) (k : Nat) (m : Mark) : (setMark s k m).ticks = s.ticks := rfl
@[simp] theorem setMark_time (s : State) (k : Nat) (m : Mark) : (setMark s k m).time = s.time := rfl
@[simp] theorem setMark_cycles (s : State) (k : Nat) (m : Mark) : (setMark s k m).cycles = s.cycles := rfl
@[simp] theorem setMark_mem (s : State) (k : Nat) (m : Mark) : (setMark s k m).mem = s.mem := rfl
@[simp] theorem setMark_soft (s : State) (k : Nat) (m : Mark) : (setMark s k m).soft = s.soft := rfl
@[simp] theorem setMark_rv (s : State) (k : Nat) (m : Mark) : (setMark s k m).rv = s.rv := rfl
@[simp] theorem setMark_ccache (s : State) (k : Nat) (m : Mark) : (setMark s k m).ccache = s.ccache := rfl
@[simp] theorem setMark_tlb (s : State) (k : Nat) (m : Mark) : (setMark s k m).tlb = s.tlb := rfl
@[simp] theorem setMark_versions (s : State) (k : Nat) (m : Mark) : (setMark s k m).versions = s.versions := rfl
@[simp] theorem setMark_verNext (s : State) (k : Nat) (m : Mark) : (setMark s k m).verNext = s.verNext := rfl
@[simp] theorem setMark_mailboxes (s : State) (k : Nat) (m : Mark) : (setMark s k m).mailboxes = s.mailboxes := rfl
@[simp] theorem setMark_outHands (s : State) (k : Nat) (m : Mark) : (setMark s k m).outHands = s.outHands := rfl
@[simp] theorem setMark_crews (s : State) (k : Nat) (m : Mark) : (setMark s k m).crews = s.crews := rfl
@[simp] theorem setMark_crewNext (s : State) (k : Nat) (m : Mark) : (setMark s k m).crewNext = s.crewNext := rfl
@[simp] theorem setMark_spostq (s : State) (k : Nat) (m : Mark) : (setMark s k m).spostq = s.spostq := rfl
@[simp] theorem setMark_parts (s : State) (k : Nat) (m : Mark) : (setMark s k m).parts = s.parts := rfl
@[simp] theorem setMark_ctxNext (s : State) (k : Nat) (m : Mark) : (setMark s k m).ctxNext = s.ctxNext := rfl
@[simp] theorem setMark_kernels (s : State) (k : Nat) (m : Mark) : (setMark s k m).kernels = s.kernels := rfl
@[simp] theorem setMark_launches (s : State) (k : Nat) (m : Mark) : (setMark s k m).launches = s.launches := rfl
@[simp] theorem setMark_saved (s : State) (k : Nat) (m : Mark) : (setMark s k m).saved = s.saved := rfl
@[simp] theorem setMark_reserved (s : State) (k : Nat) (m : Mark) : (setMark s k m).reserved = s.reserved := rfl
@[simp] theorem setMark_claims (s : State) (k : Nat) (m : Mark) : (setMark s k m).claims = s.claims := rfl
@[simp] theorem setMark_quiet (s : State) (k : Nat) (m : Mark) : (setMark s k m).quiet = s.quiet := rfl
@[simp] theorem setMark_absentNew (s : State) (k : Nat) (m : Mark) : (setMark s k m).absentNew = s.absentNew := rfl
@[simp] theorem setMark_rmap (s : State) (k : Nat) (m : Mark) : (setMark s k m).rmap = s.rmap := rfl
@[simp] theorem setMark_failing (s : State) (k : Nat) (m : Mark) : (setMark s k m).failing = s.failing := rfl
@[simp] theorem setMark_retrain (s : State) (k : Nat) (m : Mark) : (setMark s k m).retrain = s.retrain := rfl
@[simp] theorem setMark_invals (s : State) (k : Nat) (m : Mark) : (setMark s k m).invals = s.invals := rfl
@[simp] theorem setMark_eras (s : State) (k : Nat) (m : Mark) : (setMark s k m).eras = s.eras := rfl
@[simp] theorem setMark_known (s : State) (k : Nat) (m : Mark) : (setMark s k m).known = s.known := rfl
@[simp] theorem setMark_lostAt (s : State) (k : Nat) (m : Mark) : (setMark s k m).lostAt = s.lostAt := rfl
@[simp] theorem setMark_dieFw (s : State) (k : Nat) (m : Mark) : (setMark s k m).dieFw = s.dieFw := rfl
@[simp] theorem setMark_hostKey0 (s : State) (k : Nat) (m : Mark) : (setMark s k m).hostKey0 = s.hostKey0 := rfl
@[simp] theorem setMark_hostKey1 (s : State) (k : Nat) (m : Mark) : (setMark s k m).hostKey1 = s.hostKey1 := rfl
@[simp] theorem setMark_stage (s : State) (k : Nat) (m : Mark) : (setMark s k m).stage = s.stage := rfl
@[simp] theorem setMark_bring (s : State) (k : Nat) (m : Mark) : (setMark s k m).bring = s.bring := rfl
@[simp] theorem setMark_report (s : State) (k : Nat) (m : Mark) : (setMark s k m).report = s.report := rfl
@[simp] theorem setMark_hostCnt (s : State) (k : Nat) (m : Mark) : (setMark s k m).hostCnt = s.hostCnt := rfl
@[simp] theorem setMark_power (s : State) (k : Nat) (m : Mark) : (setMark s k m).power = s.power := rfl
@[simp] theorem setMark_flash (s : State) (k : Nat) (m : Mark) : (setMark s k m).flash = s.flash := rfl
@[simp] theorem setMark_errinj (s : State) (k : Nat) (m : Mark) : (setMark s k m).errinj = s.errinj := rfl
@[simp] theorem setMark_errCount (s : State) (k : Nat) (m : Mark) : (setMark s k m).errCount = s.errCount := rfl
@[simp] theorem setMark_ports (s : State) (k : Nat) (m : Mark) : (setMark s k m).ports = s.ports := rfl
@[simp] theorem setMark_fabric (s : State) (k : Nat) (m : Mark) : (setMark s k m).fabric = s.fabric := rfl
@[simp] theorem setMark_cmdCount (s : State) (k : Nat) (m : Mark) : (setMark s k m).cmdCount = s.cmdCount := rfl
@[simp] theorem setMark_askCount (s : State) (k : Nat) (m : Mark) : (setMark s k m).askCount = s.askCount := rfl
@[simp] theorem setMark_xmarks (s : State) (k : Nat) (m : Mark) : (setMark s k m).xmarks = s.xmarks := rfl
@[simp] theorem setMark_outs (s : State) (k : Nat) (m : Mark) : (setMark s k m).outs = s.outs := rfl
@[simp] theorem setMark_retained (s : State) (k : Nat) (m : Mark) : (setMark s k m).retained = s.retained := rfl
@[simp] theorem setMark_homes (s : State) (k : Nat) (m : Mark) : (setMark s k m).homes = s.homes := rfl
@[simp] theorem setMark_mirrorsAt (s : State) (k : Nat) (m : Mark) : (setMark s k m).mirrorsAt = s.mirrorsAt := rfl
@[simp] theorem setMark_inbox (s : State) (k : Nat) (m : Mark) : (setMark s k m).inbox = s.inbox := rfl
@[simp] theorem setMark_parkedReq (s : State) (k : Nat) (m : Mark) : (setMark s k m).parkedReq = s.parkedReq := rfl
@[simp] theorem setMark_outbox (s : State) (k : Nat) (m : Mark) : (setMark s k m).outbox = s.outbox := rfl
@[simp] theorem setMark_wire (s : State) (k : Nat) (m : Mark) : (setMark s k m).wire = s.wire := rfl
@[simp] theorem setMark_events (s : State) (k : Nat) (m : Mark) : (setMark s k m).events = s.events := rfl
@[simp] theorem setMark_hostOut (s : State) (k : Nat) (m : Mark) : (setMark s k m).hostOut = s.hostOut := rfl
@[simp] theorem setMark_freeCount (s : State) (k : Nat) (m : Mark) : (setMark s k m).freeCount = s.freeCount := rfl

/-! clearMark -/

@[simp] theorem clearMark_me (s : State) (k : Nat) : (clearMark s k).me = s.me := rfl
@[simp] theorem clearMark_others (s : State) (k : Nat) : (clearMark s k).others = s.others := rfl
@[simp] theorem clearMark_sched (s : State) (k : Nat) : (clearMark s k).sched = s.sched := rfl
@[simp] theorem clearMark_ticks (s : State) (k : Nat) : (clearMark s k).ticks = s.ticks := rfl
@[simp] theorem clearMark_time (s : State) (k : Nat) : (clearMark s k).time = s.time := rfl
@[simp] theorem clearMark_cycles (s : State) (k : Nat) : (clearMark s k).cycles = s.cycles := rfl
@[simp] theorem clearMark_mem (s : State) (k : Nat) : (clearMark s k).mem = s.mem := rfl
@[simp] theorem clearMark_soft (s : State) (k : Nat) : (clearMark s k).soft = s.soft := rfl
@[simp] theorem clearMark_rv (s : State) (k : Nat) : (clearMark s k).rv = s.rv := rfl
@[simp] theorem clearMark_ccache (s : State) (k : Nat) : (clearMark s k).ccache = s.ccache := rfl
@[simp] theorem clearMark_tlb (s : State) (k : Nat) : (clearMark s k).tlb = s.tlb := rfl
@[simp] theorem clearMark_versions (s : State) (k : Nat) : (clearMark s k).versions = s.versions := rfl
@[simp] theorem clearMark_verNext (s : State) (k : Nat) : (clearMark s k).verNext = s.verNext := rfl
@[simp] theorem clearMark_mailboxes (s : State) (k : Nat) : (clearMark s k).mailboxes = s.mailboxes := rfl
@[simp] theorem clearMark_outHands (s : State) (k : Nat) : (clearMark s k).outHands = s.outHands := rfl
@[simp] theorem clearMark_crews (s : State) (k : Nat) : (clearMark s k).crews = s.crews := rfl
@[simp] theorem clearMark_crewNext (s : State) (k : Nat) : (clearMark s k).crewNext = s.crewNext := rfl
@[simp] theorem clearMark_spostq (s : State) (k : Nat) : (clearMark s k).spostq = s.spostq := rfl
@[simp] theorem clearMark_parts (s : State) (k : Nat) : (clearMark s k).parts = s.parts := rfl
@[simp] theorem clearMark_ctxNext (s : State) (k : Nat) : (clearMark s k).ctxNext = s.ctxNext := rfl
@[simp] theorem clearMark_kernels (s : State) (k : Nat) : (clearMark s k).kernels = s.kernels := rfl
@[simp] theorem clearMark_launches (s : State) (k : Nat) : (clearMark s k).launches = s.launches := rfl
@[simp] theorem clearMark_saved (s : State) (k : Nat) : (clearMark s k).saved = s.saved := rfl
@[simp] theorem clearMark_reserved (s : State) (k : Nat) : (clearMark s k).reserved = s.reserved := rfl
@[simp] theorem clearMark_claims (s : State) (k : Nat) : (clearMark s k).claims = s.claims := rfl
@[simp] theorem clearMark_quiet (s : State) (k : Nat) : (clearMark s k).quiet = s.quiet := rfl
@[simp] theorem clearMark_absentNew (s : State) (k : Nat) : (clearMark s k).absentNew = s.absentNew := rfl
@[simp] theorem clearMark_rmap (s : State) (k : Nat) : (clearMark s k).rmap = s.rmap := rfl
@[simp] theorem clearMark_failing (s : State) (k : Nat) : (clearMark s k).failing = s.failing := rfl
@[simp] theorem clearMark_retrain (s : State) (k : Nat) : (clearMark s k).retrain = s.retrain := rfl
@[simp] theorem clearMark_invals (s : State) (k : Nat) : (clearMark s k).invals = s.invals := rfl
@[simp] theorem clearMark_eras (s : State) (k : Nat) : (clearMark s k).eras = s.eras := rfl
@[simp] theorem clearMark_known (s : State) (k : Nat) : (clearMark s k).known = s.known := rfl
@[simp] theorem clearMark_lostAt (s : State) (k : Nat) : (clearMark s k).lostAt = s.lostAt := rfl
@[simp] theorem clearMark_dieFw (s : State) (k : Nat) : (clearMark s k).dieFw = s.dieFw := rfl
@[simp] theorem clearMark_hostKey0 (s : State) (k : Nat) : (clearMark s k).hostKey0 = s.hostKey0 := rfl
@[simp] theorem clearMark_hostKey1 (s : State) (k : Nat) : (clearMark s k).hostKey1 = s.hostKey1 := rfl
@[simp] theorem clearMark_stage (s : State) (k : Nat) : (clearMark s k).stage = s.stage := rfl
@[simp] theorem clearMark_bring (s : State) (k : Nat) : (clearMark s k).bring = s.bring := rfl
@[simp] theorem clearMark_report (s : State) (k : Nat) : (clearMark s k).report = s.report := rfl
@[simp] theorem clearMark_hostCnt (s : State) (k : Nat) : (clearMark s k).hostCnt = s.hostCnt := rfl
@[simp] theorem clearMark_power (s : State) (k : Nat) : (clearMark s k).power = s.power := rfl
@[simp] theorem clearMark_flash (s : State) (k : Nat) : (clearMark s k).flash = s.flash := rfl
@[simp] theorem clearMark_errinj (s : State) (k : Nat) : (clearMark s k).errinj = s.errinj := rfl
@[simp] theorem clearMark_errCount (s : State) (k : Nat) : (clearMark s k).errCount = s.errCount := rfl
@[simp] theorem clearMark_ports (s : State) (k : Nat) : (clearMark s k).ports = s.ports := rfl
@[simp] theorem clearMark_fabric (s : State) (k : Nat) : (clearMark s k).fabric = s.fabric := rfl
@[simp] theorem clearMark_cmdCount (s : State) (k : Nat) : (clearMark s k).cmdCount = s.cmdCount := rfl
@[simp] theorem clearMark_askCount (s : State) (k : Nat) : (clearMark s k).askCount = s.askCount := rfl
@[simp] theorem clearMark_xmarks (s : State) (k : Nat) : (clearMark s k).xmarks = s.xmarks := rfl
@[simp] theorem clearMark_outs (s : State) (k : Nat) : (clearMark s k).outs = s.outs := rfl
@[simp] theorem clearMark_retained (s : State) (k : Nat) : (clearMark s k).retained = s.retained := rfl
@[simp] theorem clearMark_homes (s : State) (k : Nat) : (clearMark s k).homes = s.homes := rfl
@[simp] theorem clearMark_mirrorsAt (s : State) (k : Nat) : (clearMark s k).mirrorsAt = s.mirrorsAt := rfl
@[simp] theorem clearMark_inbox (s : State) (k : Nat) : (clearMark s k).inbox = s.inbox := rfl
@[simp] theorem clearMark_parkedReq (s : State) (k : Nat) : (clearMark s k).parkedReq = s.parkedReq := rfl
@[simp] theorem clearMark_outbox (s : State) (k : Nat) : (clearMark s k).outbox = s.outbox := rfl
@[simp] theorem clearMark_wire (s : State) (k : Nat) : (clearMark s k).wire = s.wire := rfl
@[simp] theorem clearMark_events (s : State) (k : Nat) : (clearMark s k).events = s.events := rfl
@[simp] theorem clearMark_hostOut (s : State) (k : Nat) : (clearMark s k).hostOut = s.hostOut := rfl
@[simp] theorem clearMark_freeCount (s : State) (k : Nat) : (clearMark s k).freeCount = s.freeCount := rfl

/-! hostBump -/

@[simp] theorem hostBump_me (s : State) (i : Nat) : (hostBump s i).me = s.me := rfl
@[simp] theorem hostBump_others (s : State) (i : Nat) : (hostBump s i).others = s.others := rfl
@[simp] theorem hostBump_sched (s : State) (i : Nat) : (hostBump s i).sched = s.sched := rfl
@[simp] theorem hostBump_ticks (s : State) (i : Nat) : (hostBump s i).ticks = s.ticks := rfl
@[simp] theorem hostBump_time (s : State) (i : Nat) : (hostBump s i).time = s.time := rfl
@[simp] theorem hostBump_cycles (s : State) (i : Nat) : (hostBump s i).cycles = s.cycles := rfl
@[simp] theorem hostBump_mem (s : State) (i : Nat) : (hostBump s i).mem = s.mem := rfl
@[simp] theorem hostBump_marks (s : State) (i : Nat) : (hostBump s i).marks = s.marks := rfl
@[simp] theorem hostBump_soft (s : State) (i : Nat) : (hostBump s i).soft = s.soft := rfl
@[simp] theorem hostBump_rv (s : State) (i : Nat) : (hostBump s i).rv = s.rv := rfl
@[simp] theorem hostBump_ccache (s : State) (i : Nat) : (hostBump s i).ccache = s.ccache := rfl
@[simp] theorem hostBump_tlb (s : State) (i : Nat) : (hostBump s i).tlb = s.tlb := rfl
@[simp] theorem hostBump_versions (s : State) (i : Nat) : (hostBump s i).versions = s.versions := rfl
@[simp] theorem hostBump_verNext (s : State) (i : Nat) : (hostBump s i).verNext = s.verNext := rfl
@[simp] theorem hostBump_mailboxes (s : State) (i : Nat) : (hostBump s i).mailboxes = s.mailboxes := rfl
@[simp] theorem hostBump_outHands (s : State) (i : Nat) : (hostBump s i).outHands = s.outHands := rfl
@[simp] theorem hostBump_crews (s : State) (i : Nat) : (hostBump s i).crews = s.crews := rfl
@[simp] theorem hostBump_crewNext (s : State) (i : Nat) : (hostBump s i).crewNext = s.crewNext := rfl
@[simp] theorem hostBump_spostq (s : State) (i : Nat) : (hostBump s i).spostq = s.spostq := rfl
@[simp] theorem hostBump_parts (s : State) (i : Nat) : (hostBump s i).parts = s.parts := rfl
@[simp] theorem hostBump_ctxNext (s : State) (i : Nat) : (hostBump s i).ctxNext = s.ctxNext := rfl
@[simp] theorem hostBump_kernels (s : State) (i : Nat) : (hostBump s i).kernels = s.kernels := rfl
@[simp] theorem hostBump_launches (s : State) (i : Nat) : (hostBump s i).launches = s.launches := rfl
@[simp] theorem hostBump_saved (s : State) (i : Nat) : (hostBump s i).saved = s.saved := rfl
@[simp] theorem hostBump_reserved (s : State) (i : Nat) : (hostBump s i).reserved = s.reserved := rfl
@[simp] theorem hostBump_claims (s : State) (i : Nat) : (hostBump s i).claims = s.claims := rfl
@[simp] theorem hostBump_quiet (s : State) (i : Nat) : (hostBump s i).quiet = s.quiet := rfl
@[simp] theorem hostBump_absentNew (s : State) (i : Nat) : (hostBump s i).absentNew = s.absentNew := rfl
@[simp] theorem hostBump_rmap (s : State) (i : Nat) : (hostBump s i).rmap = s.rmap := rfl
@[simp] theorem hostBump_failing (s : State) (i : Nat) : (hostBump s i).failing = s.failing := rfl
@[simp] theorem hostBump_retrain (s : State) (i : Nat) : (hostBump s i).retrain = s.retrain := rfl
@[simp] theorem hostBump_invals (s : State) (i : Nat) : (hostBump s i).invals = s.invals := rfl
@[simp] theorem hostBump_eras (s : State) (i : Nat) : (hostBump s i).eras = s.eras := rfl
@[simp] theorem hostBump_known (s : State) (i : Nat) : (hostBump s i).known = s.known := rfl
@[simp] theorem hostBump_lostAt (s : State) (i : Nat) : (hostBump s i).lostAt = s.lostAt := rfl
@[simp] theorem hostBump_dieFw (s : State) (i : Nat) : (hostBump s i).dieFw = s.dieFw := rfl
@[simp] theorem hostBump_hostKey0 (s : State) (i : Nat) : (hostBump s i).hostKey0 = s.hostKey0 := rfl
@[simp] theorem hostBump_hostKey1 (s : State) (i : Nat) : (hostBump s i).hostKey1 = s.hostKey1 := rfl
@[simp] theorem hostBump_stage (s : State) (i : Nat) : (hostBump s i).stage = s.stage := rfl
@[simp] theorem hostBump_bring (s : State) (i : Nat) : (hostBump s i).bring = s.bring := rfl
@[simp] theorem hostBump_report (s : State) (i : Nat) : (hostBump s i).report = s.report := rfl
@[simp] theorem hostBump_power (s : State) (i : Nat) : (hostBump s i).power = s.power := rfl
@[simp] theorem hostBump_flash (s : State) (i : Nat) : (hostBump s i).flash = s.flash := rfl
@[simp] theorem hostBump_errinj (s : State) (i : Nat) : (hostBump s i).errinj = s.errinj := rfl
@[simp] theorem hostBump_errCount (s : State) (i : Nat) : (hostBump s i).errCount = s.errCount := rfl
@[simp] theorem hostBump_ports (s : State) (i : Nat) : (hostBump s i).ports = s.ports := rfl
@[simp] theorem hostBump_fabric (s : State) (i : Nat) : (hostBump s i).fabric = s.fabric := rfl
@[simp] theorem hostBump_cmdCount (s : State) (i : Nat) : (hostBump s i).cmdCount = s.cmdCount := rfl
@[simp] theorem hostBump_askCount (s : State) (i : Nat) : (hostBump s i).askCount = s.askCount := rfl
@[simp] theorem hostBump_xmarks (s : State) (i : Nat) : (hostBump s i).xmarks = s.xmarks := rfl
@[simp] theorem hostBump_outs (s : State) (i : Nat) : (hostBump s i).outs = s.outs := rfl
@[simp] theorem hostBump_retained (s : State) (i : Nat) : (hostBump s i).retained = s.retained := rfl
@[simp] theorem hostBump_homes (s : State) (i : Nat) : (hostBump s i).homes = s.homes := rfl
@[simp] theorem hostBump_mirrorsAt (s : State) (i : Nat) : (hostBump s i).mirrorsAt = s.mirrorsAt := rfl
@[simp] theorem hostBump_inbox (s : State) (i : Nat) : (hostBump s i).inbox = s.inbox := rfl
@[simp] theorem hostBump_parkedReq (s : State) (i : Nat) : (hostBump s i).parkedReq = s.parkedReq := rfl
@[simp] theorem hostBump_outbox (s : State) (i : Nat) : (hostBump s i).outbox = s.outbox := rfl
@[simp] theorem hostBump_wire (s : State) (i : Nat) : (hostBump s i).wire = s.wire := rfl
@[simp] theorem hostBump_events (s : State) (i : Nat) : (hostBump s i).events = s.events := rfl
@[simp] theorem hostBump_hostOut (s : State) (i : Nat) : (hostBump s i).hostOut = s.hostOut := rfl
@[simp] theorem hostBump_freeCount (s : State) (i : Nat) : (hostBump s i).freeCount = s.freeCount := rfl

end Sys2Proof.Machine
end

