-- ==== Sys2Proof/Tests/Slice0.lean ====
section
/-! SUPPORT. Tests of the model on fixed values: words written out from the spec's encodings, ill-formed instructions refused,
single steps on small states. -/

namespace Sys2Proof.Tests

set_option Elab.async false

open Sys2Proof Sys2Proof.Machine Sys2Proof.Claims

/-! Decoding. -/

/-- Decode a word given as its stored units. -/
def unitsDecode (us : List Nat) : Option Instr :=
  match decode (us.flatMap (bytesOf 4)) with
  | .ok (i, []) => some i
  | _ => none

/-- A vector word with every field zero. -/
def v0 : VWord := { dst := 0, sa := 0, sb := 0, sc := 0, pred := 0, neg := 0, ty := 0, rnd := 0, rep := 0, strd := 0, sync := 0, imm := 0 }

/-- A stream word with every field zero. -/
def s0 : SWord :=
  { xa := 0, xb := 0, xc := 0, slot := 0, stage := 0, qr := 0, dir := 0, dims := 0, size := 0, mode := 0, ckm := 0, ckr := 0, sync := 0, imm := 0 }

/-- A matrix word with every field zero. -/
def m0 : MWord := MWord.zero

/-- Words of 05 R85-R99 by their stored units (control). -/
theorem test_decode_control_1 :
    [[0x00248280],
     [0x01248280],
     [0x02248280],
     [0x03248280],
     [0x04248280],
     [0x05248280],
     [0x06248280],
     [0x07248280],
     [0x08248280],
     [0x09248280],
     [0x0A248280],
     [0x0B248280]].map unitsDecode =
      [.add 9 8 10 0,
       .sub 9 8 10 0,
       .and 9 8 10 0,
       .or 9 8 10 0,
       .xor 9 8 10 0,
       .shl 9 8 10 0,
       .shr 9 8 10 0,
       .sar 9 8 10 0,
       .mul 9 8 10 0,
       .mulh 9 8 10 0,
       .mulhu 9 8 10 0,
       .div 9 8 10 0].map some := by decide +kernel

/-- Words of 05 R85-R99 by their stored units (control). -/
theorem test_decode_control_2 :
    [[0x0C248280],
     [0x0D248280],
     [0x0E248280],
     [0x0F248280],
     [0x10248280],
     [0x11248280],
     [0x12248280],
     [0x13248000],
     [0x14248000],
     [0x15248000],
     [0x1624851E],
     [0x17248107]].map unitsDecode =
      [.divu 9 8 10 0,
       .rem 9 8 10 0,
       .remu 9 8 10 0,
       .min 9 8 10 0,
       .max 9 8 10 0,
       .minu 9 8 10 0,
       .maxu 9 8 10 0,
       .clz 9 8,
       .ctz 9 8,
       .popc 9 8,
       .bfx 9 8 20 30,
       .bfi 9 8 4 7].map some := by decide +kernel

/-- Words of 05 R85-R99 by their stored units (control). -/
theorem test_decode_control_3 :
    [[0x182482B5],
     [0x19248283],
     [0x1A248283],
     [0x1B248283],
     [0x1C248000],
     [0x1D248000],
     [0x20248155],
     [0x21248155],
     [0x22248155],
     [0x23248155],
     [0x24248021],
     [0x25248021]].map unitsDecode =
      [.sel 9 8 10 53,
       .cmpSigned 9 8 10 3,
       .cmpUnsigned 9 8 10 3,
       .plog 9 8 10 3,
       .psetn 9 8,
       .ptest 9 8,
       .addi 9 8 341,
       .andi 9 8 341,
       .ori 9 8 341,
       .xori 9 8 341,
       .shli 9 8 33,
       .shri 9 8 33].map some := by decide +kernel

/-- Words of 05 R85-R99 by their stored units (control). -/
theorem test_decode_control_4 :
    [[0x26248021],
     [0x27248155],
     [0x28248155],
     [0x29248155],
     [0x2A248155],
     [0x2B248155],
     [0x2C248155],
     [0x2D248155],
     [0x2E26ABCD],
     [0x2F240003],
     [0x30008003],
     [0x31240155]].map unitsDecode =
      [.sari 9 8 33,
       .muli 9 8 341,
       .cmpiEq 9 8 341,
       .cmpiNe 9 8 341,
       .cmpiLt 9 8 341,
       .cmpiLe 9 8 341,
       .cmpiLtu 9 8 341,
       .cmpiLeu 9 8 341,
       .lih 9 0x2ABCD,
       .csrrd 9 3,
       .csrwr 8 3,
       .ldg 9 341].map some := by decide +kernel

/-- Words of 05 R85-R99 by their stored units (control). -/
theorem test_decode_control_5 :
    [[0x32248155],
     [0x40248FF8],
     [0x41248FF8],
     [0x42248FF8],
     [0x43248FF8],
     [0x44248FF8],
     [0x45248FF8],
     [0x46248FF8],
     [0x47248FF8],
     [0x48248FF8],
     [0x49248FF8],
     [0x4A248FF8]].map unitsDecode =
      [.ldc 9 8 341,
       .ldb 9 8 1 0x7F8,
       .ldbu 9 8 1 0x7F8,
       .ldh 9 8 1 0x7F8,
       .ldhu 9 8 1 0x7F8,
       .ldw 9 8 1 0x7F8,
       .ldwu 9 8 1 0x7F8,
       .ldd 9 8 1 0x7F8,
       .stb 9 8 1 0x7F8,
       .sth 9 8 1 0x7F8,
       .stw 9 8 1 0x7F8,
       .std 9 8 1 0x7F8].map some := by decide +kernel

/-- Words of 05 R85-R99 by their stored units (control). -/
theorem test_decode_control_6 :
    [[0x4B248015],
     [0x4C248004],
     [0x4D000000],
     [0x4E00000B],
     [0x4F000059],
     [0x50BFFFF3],
     [0x51148000],
     [0x5222C000],
     [0x53232000],
     [0x54820003],
     [0x55B21234],
     [0x5634C000]].map unitsDecode =
      [.cvta 9 8 21,
       .isspace 9 8 4,
       .qmark,
       .fence 11,
       .pfence 0 1 25,
       .pbr 5 0x1FFFF3,
       .pbrx 5 8,
       .br 4 2 6,
       .call 4 3 1,
       .loopReg 2 8 3,
       .loopImm 2 200 0x1234,
       .dpush 6 4 3].map some := by decide +kernel

/-- Words of 05 R85-R99 by their stored units (control). -/
theorem test_decode_control_7 :
    [[0x57304000],
     [0x58000000],
     [0x59000040],
     [0x5A000003],
     [0x5B000000],
     [0x5C000000],
     [0x60C8BEEF],
     [0x61C80002],
     [0x6205004D],
     [0x63289080],
     [0x640C5180],
     [0x65102000]].map unitsDecode =
      [.dtake 6 1,
       .texit,
       .trap 64,
       .bkpt 3,
       .nop,
       .erls,
       .swait 200 0xBEEF,
       .swaitge 200 2,
       .saddImm 5 77,
       .saddReg 10 9 2,
       .push 3 5 6,
       .popy 4 2].map some := by decide +kernel

/-- Words of 05 R85-R99 by their stored units (control). -/
theorem test_decode_control_8 :
    [[0x65102001],
     [0x66248000],
     [0x67008000],
     [0x6800000A],
     [0x69000000],
     [0x7024800F],
     [0x71248000],
     [0x7224D000],
     [0x7324D000],
     [0x7400D000],
     [0x75005500],
     [0x76248000]].map unitsDecode =
      [.popyNb 4 2,
       .maprd 9 8,
       .mapack 8,
       .cropen 10,
       .crclose,
       .hnew 9 8 15,
       .hsee 9 8,
       .hseeof 9 13,
       .hdup 9 13,
       .hdrop 13,
       .hsend 5 20,
       .hrecv 9 8].map some := by decide +kernel

/-- Words of 05 R85-R99 by their stored units (control). -/
theorem test_decode_control_9 :
    [[0x7724D000]].map unitsDecode =
      [.hstat 9 13].map some := by decide +kernel

/-- Words of 05 R85-R99 by their stored units (extended). -/
theorem test_decode_extended :
    [[0xE004E800, 0x24829FF8],
     [0xE01044B0, 0x2482A018],
     [0xE0203000, 0x12342CE0],
     [0xE03FA000, 0x00013000],
     [0xE0470000, 0x00000000],
     [0xE0570000, 0x24000000],
     [0xE0670000, 0x00000000],
     [0xE0730000, 0x38C00000],
     [0xE0800000, 0x3C000000],
     [0xE08C0000, 0x3C000000],
     [0xE0992A5B, 0x3C4D5E6F]].map unitsDecode =
      [.amo 4 1 3 2 9 8 10 0 0x1FF8,
       .cas 0 2 1 11 9 8 10 1 24,
       .swaitt 3 0x1234 11 7,
       .spostx 250 1 12,
       .bararr 7,
       .barexp 7 9,
       .barwait 7,
       .barwaitt 3 14 6,
       .launch 15,
       .launchNb 2 15,
       .ldil 36 0x2A5B3C4D5E6F].map some := by decide +kernel

/-- Words of 05 R85-R99 by their stored units (stream). -/
theorem test_decode_stream_1 :
    [[0x8000420C, 0x02700000, 0x00000000],
     [0x80100000, 0x02400000, 0x00000000],
     [0x8021C002, 0x18050000, 0x00000000],
     [0x8031C002, 0x18050000, 0x00000000]].map unitsDecode =
      [.sbind { s0 with xa := 1, xb := 2, xc := 3, qr := 9, dir := 1, dims := 2 },
       .sunbind { s0 with qr := 9 },
       .sld { s0 with xa := 7, slot := 33, stage := 2, size := 10 },
       .sst { s0 with xa := 7, slot := 33, stage := 2, size := 10 }].map some := by decide +kernel

/-- Words of 05 R85-R99 by their stored units (stream). -/
theorem test_decode_stream_2 :
    [[0x80410600, 0x00C01800, 0x00000000],
     [0x80510600, 0x00C01000, 0x00000000],
     [0x80610500, 0x00000000, 0x00000001],
     [0x8400420C, 0x00000480, 0x00000000]].map unitsDecode =
      [.sgather { s0 with xa := 4, xb := 6, qr := 3, mode := 3 },
       .sscatter { s0 with xa := 4, xb := 6, qr := 3, mode := 2 },
       .smeta { s0 with xa := 4, xb := 5, imm := 1 },
       .cpy { s0 with xa := 1, xb := 2, xc := 3, ckm := 2, ckr := 1 }].map some := by decide +kernel

/-- Words of 05 R85-R99 by their stored units (stream). -/
theorem test_decode_stream_3 :
    [[0x8410420C, 0x00008000, 0x00000000],
     [0x8420420C, 0x00003380, 0x00000000],
     [0x8430420C, 0x00000380, 0x00000000],
     [0x84424000, 0x00000100, 0x00000000]].map unitsDecode =
      [.cpymc { s0 with xa := 1, xb := 2, xc := 3, size := 1 },
       .cpyr { s0 with xa := 1, xb := 2, xc := 3, mode := 6, ckm := 1, ckr := 3 },
       .cpyf { s0 with xa := 1, xb := 2, xc := 3, ckm := 1, ckr := 3 },
       .ckrdRead { s0 with xa := 9, ckr := 2 }].map some := by decide +kernel

/-- Words of 05 R85-R99 by their stored units (stream). -/
theorem test_decode_stream_4 :
    [[0x84424000, 0x00000900, 0x00000000],
     [0x8450420C, 0x00000000, 0x00000000],
     [0x8460400C, 0x00000000, 0x00000000],
     [0x8C004200, 0x00000000, 0x00000000]].map unitsDecode =
      [.ckrdLoad { s0 with xa := 9, mode := 1, ckr := 2 },
       .stage { s0 with xa := 1, xb := 2, xc := 3 },
       .spf { s0 with xa := 1, xc := 3 },
       .gpush { s0 with xa := 1, xb := 2 }].map some := by decide +kernel

/-- Words of 05 R85-R99 by their stored units (stream). -/
theorem test_decode_stream_5 :
    [[0x9E094123, 0x40000000, 0x00818000],
     [0x9E17FFFF, 0x00000000, 0x00000000],
     [0x9E300000, 0x00000000, 0x00000000],
     [0x9E300000, 0x00000000, 0x00000001]].map unitsDecode =
      [.sloop 2 5 0x1234 0x40C00,
       .sdbr 1 1 0x1FFFF0 0,
       .snop s0,
       .snopMark { s0 with imm := 1 }].map some := by decide +kernel

/-- Words of 05 R85-R99 by their stored units (vector). -/
theorem test_decode_vector_1 :
    [[0xA0001461, 0x4001C052, 0x40000000],
     [0xA0102461, 0x4001C152, 0x40000000],
     [0xA0203461, 0x4001C252, 0x40000000],
     [0xA0304461, 0x4831C052, 0x40000000]].map unitsDecode =
      [.vadd { v0 with dst := 1, sa := 70, pred := 3, neg := 1, ty := 0, rep := 2, strd := 64, sb := 20, rnd := 5 },
       .vsub { v0 with dst := 2, sa := 70, pred := 3, neg := 1, ty := 1, rep := 2, strd := 64, sb := 20, rnd := 5 },
       .vmul { v0 with dst := 3, sa := 70, pred := 3, neg := 1, ty := 2, rep := 2, strd := 64, sb := 20, rnd := 5 },
       .vfma { v0 with dst := 4, sa := 70, pred := 3, neg := 1, ty := 0, rep := 2, strd := 64, sb := 20, sc := 131, rnd := 5 }].map some := by decide +kernel

/-- Words of 05 R85-R99 by their stored units (vector). -/
theorem test_decode_vector_2 :
    [[0xA0405461, 0x4831C152, 0x40000000],
     [0xA0506461, 0x4831C252, 0x40000000],
     [0xA0607461, 0x4001C002, 0x40000000],
     [0xA0708461, 0x4001C102, 0x40000000]].map unitsDecode =
      [.vfms { v0 with dst := 5, sa := 70, pred := 3, neg := 1, ty := 1, rep := 2, strd := 64, sb := 20, sc := 131, rnd := 5 },
       .vfnma { v0 with dst := 6, sa := 70, pred := 3, neg := 1, ty := 2, rep := 2, strd := 64, sb := 20, sc := 131, rnd := 5 },
       .vmin { v0 with dst := 7, sa := 70, pred := 3, neg := 1, ty := 0, rep := 2, strd := 64, sb := 20 },
       .vmax { v0 with dst := 8, sa := 70, pred := 3, neg := 1, ty := 1, rep := 2, strd := 64, sb := 20 }].map some := by decide +kernel

/-- Words of 05 R85-R99 by their stored units (vector). -/
theorem test_decode_vector_3 :
    [[0xA0809460, 0x0001C202, 0x40000000],
     [0xA090A460, 0x0001C002, 0x40000000],
     [0xA0A0B461, 0x4001C152, 0x40000000],
     [0xA0B0C460, 0x0001C252, 0x40000000]].map unitsDecode =
      [.vabs { v0 with dst := 9, sa := 70, pred := 3, neg := 1, ty := 2, rep := 2, strd := 64 },
       .vneg { v0 with dst := 10, sa := 70, pred := 3, neg := 1, ty := 0, rep := 2, strd := 64 },
       .vdiv { v0 with dst := 11, sa := 70, pred := 3, neg := 1, ty := 1, rep := 2, strd := 64, sb := 20, rnd := 5 },
       .vsqrt { v0 with dst := 12, sa := 70, pred := 3, neg := 1, ty := 2, rep := 2, strd := 64, rnd := 5 }].map some := by decide +kernel

/-- Words of 05 R85-R99 by their stored units (vector). -/
theorem test_decode_vector_4 :
    [[0xA0C0D460, 0x0001C052, 0x40000000],
     [0xA0D0E460, 0x0001C152, 0x40000000],
     [0xA0E0F460, 0x0001C252, 0x40000000],
     [0xA0F10461, 0x4001C052, 0x40000000]].map unitsDecode =
      [.vexp2 { v0 with dst := 13, sa := 70, pred := 3, neg := 1, ty := 0, rep := 2, strd := 64, rnd := 5 },
       .vlog2 { v0 with dst := 14, sa := 70, pred := 3, neg := 1, ty := 1, rep := 2, strd := 64, rnd := 5 },
       .vrsq { v0 with dst := 15, sa := 70, pred := 3, neg := 1, ty := 2, rep := 2, strd := 64, rnd := 5 },
       .vscale { v0 with dst := 16, sa := 70, pred := 3, neg := 1, ty := 0, rep := 2, strd := 64, sb := 20, rnd := 5 }].map some := by decide +kernel

/-- Words of 05 R85-R99 by their stored units (vector). -/
theorem test_decode_vector_5 :
    [[0xA1011460, 0x0001C102, 0x40000000],
     [0xA1105010, 0x20000000, 0x00000004],
     [0xA1205010, 0x20000200, 0x00000005],
     [0xA1309018, 0x20020600, 0x00000000]].map unitsDecode =
      [.vclass { v0 with dst := 17, sa := 70, pred := 3, neg := 1, ty := 1, rep := 2, strd := 64 },
       .vcmpOrdered { v0 with dst := 5, sa := 1, sb := 2, ty := 0, imm := 4 },
       .vcmpUnordered { v0 with dst := 5, sa := 1, sb := 2, ty := 2, imm := 5 },
       .vsel { v0 with dst := 9, sa := 1, sb := 130, ty := 6, pred := 4 }].map some := by decide +kernel

/-- Words of 05 R85-R99 by their stored units (vector). -/
theorem test_decode_vector_6 :
    [[0xA1489010, 0x00000000, 0x00000002],
     [0xA1509010, 0x00000500, 0x00000001],
     [0xA8009010, 0x00202130, 0x00000001],
     [0xA8109010, 0x20000810, 0x00000003]].map unitsDecode =
      [.vred { v0 with dst := 137, sa := 1, ty := 0, imm := 2 },
       .vscan { v0 with dst := 9, sa := 1, ty := 5, imm := 1 },
       .vcvt { v0 with dst := 9, sa := 1, ty := 33, sc := 2, rnd := 3, imm := 1 },
       .vpack { v0 with dst := 9, sa := 1, sb := 2, ty := 8, sc := 0, rnd := 1, imm := 3 }].map some := by decide +kernel

/-- Words of 05 R85-R99 by their stored units (vector). -/
theorem test_decode_vector_7 :
    [[0xA8209010, 0x00C00000, 0x0000000E],
     [0xA8309010, 0x00000610, 0x00000001],
     [0xB0001020, 0x30000400, 0x00000000],
     [0xB0102020, 0x30000500, 0x00000000]].map unitsDecode =
      [.vunpk { v0 with dst := 9, sa := 1, ty := 0, sc := 12, imm := 14 },
       .vcvti { v0 with dst := 9, sa := 1, ty := 6, sc := 0, rnd := 1, imm := 1 },
       .viadd { v0 with dst := 1, sa := 2, sb := 3, ty := 4 },
       .visub { v0 with dst := 2, sa := 2, sb := 3, ty := 5 }].map some := by decide +kernel

/-- Words of 05 R85-R99 by their stored units (vector). -/
theorem test_decode_vector_8 :
    [[0xB0203020, 0x30000600, 0x00000000],
     [0xB0304020, 0x30700800, 0x00000000],
     [0xB0405020, 0x30000900, 0x00000000],
     [0xB0506020, 0x30000A00, 0x00000000]].map unitsDecode =
      [.vimul { v0 with dst := 3, sa := 2, sb := 3, ty := 6 },
       .vimad { v0 with dst := 4, sa := 2, sb := 3, ty := 8, sc := 7 },
       .vand { v0 with dst := 5, sa := 2, sb := 3, ty := 9 },
       .vor { v0 with dst := 6, sa := 2, sb := 3, ty := 10 }].map some := by decide +kernel

/-- Words of 05 R85-R99 by their stored units (vector). -/
theorem test_decode_vector_9 :
    [[0xB0607020, 0x30000400, 0x00000000],
     [0xB0708020, 0x30000500, 0x00000000],
     [0xB0809020, 0x30000600, 0x00000000],
     [0xB090A020, 0x30000800, 0x00000000]].map unitsDecode =
      [.vxor { v0 with dst := 7, sa := 2, sb := 3, ty := 4 },
       .vshl { v0 with dst := 8, sa := 2, sb := 3, ty := 5 },
       .vshr { v0 with dst := 9, sa := 2, sb := 3, ty := 6 },
       .vsar { v0 with dst := 10, sa := 2, sb := 3, ty := 8 }].map some := by decide +kernel

/-- Words of 05 R85-R99 by their stored units (vector). -/
theorem test_decode_vector_10 :
    [[0xB0A0B020, 0x30000900, 0x00000000],
     [0xB0B0C020, 0x30000A00, 0x00000000],
     [0xB0C05010, 0x20000600, 0x0000000B],
     [0xB0D05010, 0x20000A00, 0x00000013]].map unitsDecode =
      [.vimin { v0 with dst := 11, sa := 2, sb := 3, ty := 9 },
       .vimax { v0 with dst := 12, sa := 2, sb := 3, ty := 10 },
       .vicmp { v0 with dst := 5, sa := 1, sb := 2, ty := 6, imm := 11 },
       .vhash { v0 with dst := 5, sa := 1, sb := 2, ty := 10, imm := 19 }].map some := by decide +kernel

/-- Words of 05 R85-R99 by their stored units (vector). -/
theorem test_decode_vector_11 :
    [[0xB8005010, 0x20000900, 0x00000000],
     [0xB8105010, 0x20000400, 0x00000000],
     [0xB8205830, 0x00000600, 0x00000000],
     [0xB834A4B0, 0x00000600, 0x00000000]].map unitsDecode =
      [.vperm { v0 with dst := 5, sa := 1, sb := 2, ty := 9 },
       .vbcast { v0 with dst := 5, sa := 1, sb := 2, ty := 4 },
       .viota { v0 with dst := 5, sa := 131, ty := 6 },
       .vmov { v0 with dst := 74, sa := 75, ty := 6 }].map some := by decide +kernel

/-- Words of 05 R85-R99 by their stored units (vector). -/
theorem test_decode_vector_12 :
    [[0xB8485000, 0x00000500, 0x00000000],
     [0xB8585018, 0x20000600, 0x00000007],
     [0xBC0050F0, 0x00000241, 0x4000001E],
     [0xBC10F040, 0x00000000, 0x0000001F]].map unitsDecode =
      [.vlen { v0 with dst := 133, ty := 5 },
       .vextr { v0 with dst := 133, sa := 1, sb := 130, ty := 6, imm := 7 },
       .vaccrd { v0 with dst := 5, sa := 15, ty := 2, rnd := 4, rep := 1, strd := 64, imm := 30 },
       .vaccwr { v0 with dst := 15, sa := 4, ty := 0, imm := 31 }].map some := by decide +kernel

/-- Words of 05 R85-R99 by their stored units (vector). -/
theorem test_decode_vector_13 :
    [[0xBE094123, 0x40000000, 0x00000000],
     [0xBE15FFFF, 0x00000000, 0x00000000],
     [0xBE300000, 0x00000000, 0x00000000],
     [0xBF005010, 0x20000600, 0x00000000]].map unitsDecode =
      [.vloop 2 5 0x1234 0,
       .vdbr 1 0 0x1FFFF0 0,
       .vnop 0,
       .vdot4 { v0 with dst := 5, sa := 1, sb := 2, ty := 6 }].map some := by decide +kernel

/-- Words of 05 R85-R99 by their stored units (matrix). -/
theorem test_decode_matrix_1 :
    [[0xC00A0040, 0x01002000, 0x8C350244, 0x01100480, 0x40000000, 0x03000000],
     [0xC02A0040, 0x01002000, 0x804101A8, 0x00000000, 0x00000000, 0xFF000000],
     [0xC0520000, 0x00000000, 0x00000000, 0x00000000, 0x00000000, 0x00000000],
     [0xC0720014, 0x01000000, 0x00400000, 0x00000000, 0x00000000, 0x00000000]].map unitsDecode =
      [.mma { m0 with cidx := 5, aoff := 16, apitch := 4, boff := 32, bpitch := 8, bt := 1, afmt := 33, bfmt := 42, acc2 := 2, chk := 1, mxe := 1, sca := 17, scb := 18, fscale := 1073741824, rep := 3 },
       .mmas { m0 with cidx := 5, aoff := 16, apitch := 4, boff := 32, bpitch := 8, afmt := 2, bfmt := 2, acc2 := 1, chk := 2, spm := 2, mqs := 1, rep := 255 },
       .mzero { m0 with cidx := 9 },
       .mload { m0 with cidx := 9, aoff := 5, apitch := 4, afmt := 2 }].map some := by decide +kernel

/-- Words of 05 R85-R99 by their stored units (matrix). -/
theorem test_decode_matrix_2 :
    [[0xC0920014, 0x01000000, 0x00402C00, 0x00000000, 0x00000000, 0x00000000],
     [0xC0B20000, 0x00000000, 0x00001000, 0x00000000, 0x3F800000, 0x00000000],
     [0xC0D20000, 0x00000000, 0x00000000, 0x00000021, 0x00000000, 0x00000000],
     [0xC2128246, 0x80000000, 0x00000000, 0x00000000, 0x00000000, 0x00000000]].map unitsDecode =
      [.mstore { m0 with cidx := 9, aoff := 5, apitch := 4, afmt := 2, arnd := 5, asat := 1 },
       .mscale { m0 with cidx := 9, fscale := 1065353216, arnd := 2 },
       .mflag { m0 with cidx := 9, xd := 33 },
       .mloop 2 5 0x1234 0].map some := by decide +kernel

/-- Words of 05 R85-R99 by their stored units (matrix). -/
theorem test_decode_matrix_3 :
    [[0xC22FFFFE, 0x00000000, 0x00000000, 0x00000000, 0x00000000, 0x00000000],
     [0xC2400000, 0x00000000, 0x00000000, 0x00000000, 0x00000000, 0x00000000],
     [0xC3EA0040, 0x01002000, 0x80410000, 0x00000000, 0x00000000, 0x00000000]].map unitsDecode =
      [.mdbr 1 1 0x1FFFF0 0,
       .mnop 0,
       .mma16 { m0 with cidx := 5, aoff := 16, apitch := 4, boff := 32, bpitch := 8, afmt := 2, bfmt := 2 }].map some := by decide +kernel

/-! States the tests start from. -/

/-- A partition with cluster 0, a bank and a range. -/
def cfg1 : PartConfig :=
  { part := 1, clusters := 1, ways := [(0, 0)], staging := [(0, 1)], banks := [0, 1], ranges := [0, 1], entries0 := 64, entries1 := 0,
    bytes0 := [2 ^ 20, 2 ^ 20], bytes1 := [0, 0], ringBase := 0, ringSize := 4, preQueues := 0, class0 := 0, fpid := 7, weight := 256,
    ptroot := 0, hostVec := 3, brk := false }

/-- Partition 1 with its context. -/
def part1 : Partition :=
  { noPart with cfg := cfg1, ctx := 1, vden := 256, acked := 1, key0 := some 3, key1 := some 4 }

/-- A text of 16 NOPs. -/
def nops : List (BitVec 32) := List.replicate 16 0x5B000000

/-- Core 0 runs task 2 of a launch of partition 1. -/
def core0 : Core :=
  { Core.idle 0 with run := .running, text := nops, csr := { Csrs.clear with vl := 512, cycleft := 1000 },
                     task := { Task.none with part := 1, launch := 5, serial := 2 } }

/-- The module in service, with core 0 running logical text. -/
def base : State :=
  { State.reset with me := core0, parts := [part1], stage := .ready,
                     tlb := [{ part := 1, va := 0, size := 2 ^ 16, pa := 0, rd := true, wr := true },
                             { part := 1, va := 2 ^ 16, size := 2 ^ 16, pa := 2 ^ 16, rd := true, wr := false }],
                     rmap := { RMap.none with version := 1, cores := BitVec.allOnes 384, l2 := BitVec.allOnes 96, rdc := BitVec.allOnes 16,
                                              banks := BitVec.allOnes 96, channels := BitVec.allOnes 192 } }

/-- A core in slice form at its entry; every word advances its slice by one position. -/
def slicedCore (c : Core) : Core :=
  { c with
    form := .slices, parked := [(.s, .entry), (.v, .entry), (.m, .entry)], code := Vector.replicate 4 nops,
    anns := Vector.replicate 4 (List.replicate 16 1) }

/-- The same with core 0 in slice form, on engine `e`. -/
def sliced (e : Engine) : State :=
  { base with me := Core.turn (slicedCore core0) e }

/-- A state with values in x registers. -/
def withX (l : List (BitVec 6 × Word)) (s : State) : State := l.foldl (fun t p => setX t p.1 p.2) s

/-- A state of the moving core's registers. -/
def withR (f : Regs → Regs) (s : State) : State := mapRegs s f

/-- A state of the moving core. -/
def withC (f : Core → Core) (s : State) : State := { s with me := f s.me }

/-- The state after exec, where it is a next one. -/
def after_ (i : Instr) (s : State) : State := match exec i s with | .next t => t | _ => s

/-- Whether a word issues in a state. -/
def issues (i : Instr) (s : State) : Bool := (issuedIn i s).isSome

/-- The code the last record delivered to the host holds. -/
def lastCode (s : State) : Option Nat := s.hostOut.getLast?.bind fun r => match r with | .fault q => some q.code | _ => none

/-- The address of an offset in the core's own scratch. -/
def inScratch (off : Nat) : Word := BitVec.ofNat 64 (0xF000000000000000 + off)

/-- A state with a target in t1 and t7. -/
def withT (a : Nat) (s : State) : State := withR (fun r => writeT (writeT r 1 (BitVec.ofNat 64 a)) 7 (BitVec.ofNat 64 a)) s

/-- Bytes put into memory. -/
def withMem (k : Nat) (bs : List Byte) (s : State) : State := { s with mem := cellsSet s.mem k bs }
/-- The module byte that the global address 0x40 maps to. -/
def gkey : Nat := match translate base part1 0x40 false with | (_, .ok k) => k | _ => 0

/-- A state whose core waits. -/
def waits (w : Wait) (s : State) : State := withC (fun c => { c with wait := w }) s
/-- The same core with a text of one word. -/
def fetching (u : Nat) (s : State) : State := withC (fun c => { c with text := BitVec.ofNat 32 u :: nops }) s

/-- Core 1 runs task 3 of the same crew. -/
def crewed : State :=
  let c (k : Core) (ser : Nat) : Core := { k with task := { k.task with serial := ser, crew := 9 } }
  { base with
    me := c base.me 2, others := [c { core0 with id := 1 } 3],
    crews := [{ id := 9, launch := 5, cluster := 0, members := [2, 3], bars := Vector.replicate 16 .start, cp := 0 }] }

/-- A record of four tasks of the kernel at 0x1000, a CORE level that holds dimension 0. -/
def record4 : List Byte :=
  putN (putN (putN (putN (putN (putN (putN (List.replicate 896 0) 0 8 0x1000) 32 4 3) 56 1 1) 64 8 1) 72 4 999) 78 1 1) 80 2 17
/-- A kernel of 16 NOPs and a TEXIT. -/
def kern : Kernel := { name := 0, units := nops ++ [0x58000000], slots := [], breaks := [], emulate := false }
/-- What the slicer makes of it. -/
def kernSliced : Sliced := match sliceKernel kern with | .ok d => d | .error _ => { code := Vector.replicate 4 [], anns := Vector.replicate 4 [], map := { resume := [], segs := [], loops := [] }, granules := [] }
/-- The kernel is loaded and the record stands at the global address 0x200. -/
def launching : State := withMem gkey (List.replicate 448 0 ++ record4) { base with kernels := [{ part := 1, addr := 0x1000, kernel := kern, sliced := kernSliced }] }


/-- The record `record4` as the partition reads it. -/
def rec4 : LaunchRec := match checkRecord launching 1 record4 false with
  | .ok r => r
  | .error _ => { kernel := 0, gotbase := 0, seed := 0, pblock := 0, extents := [], cls := 0, serp := false, pre := false, order := [],
                  place := 0, limit := 0, policy := 0, levels := [], after := 0, evvec := 0, rtiles := [], wtiles := [] }

/-- Launch 5 of partition 1 with its record. -/
def launch5 : Launch :=
  { id := 5, arrival := 0, accepted := 0, spots := [], lost := [], part := 1, record := rec4, handler := false, next := 0, bound := [], exited := 0, killed := 0,
    cancelled := 0, released := [], first := none, record1 := none, held := false, noRoom := false, waited := 0, done := false }

/-- A version of the tile 0 of pool 0, with the state `st` and held by task 2. -/
def ver (st : VState) (hold : Holder) : Version :=
  { id := 7, part := 1, pool := 0, die := 0, name := 0, k := 12, num := 4, state := st, see := 1, seen := [], holder := hold, cur := true }
/-- A handle on it, of the home `m`. -/
def hand (fill : Bool) (m : Nat) : Handle := { fill := fill, ver := 7, home := m, k := 12, pool := 0, num := 4, name := 0, era := 0 }
/-- The tile table holds it, and h2 the handle. -/
def tiled (fill : Bool) (m : Nat) (st : VState) : State :=
  withR (fun r => writeH r 2 (.held (hand fill m) 0))
    { base with versions := [ver st (if fill then .task 5 2 else .none)], verNext := 8 }
/-- The address of tile 0 of pool 0 in the tile window. -/
def tileA : Word := 0xF400000000000000


/-! Ill-formed instructions: each check refuses one, and the decoder refuses its word. -/

/-- Neither form of text accepts an instruction, and its word is refused. -/
def illFormed (i : Instr) : Bool :=
  !i.wf && (match decode (encodeBytes i) with | .ok (j, _) => j != i | .error _ => true)

/-- Only slice text accepts an instruction. -/
def sliceOnly (i : Instr) : Bool := !i.wfIn false && i.wfIn true

/-- Control words (05 R85-R89). -/
theorem smoke_control :
    [.add 1 2 3 1, .bfx 1 2 60 4, .sel 1 2 3 24, .cmpSigned 24 1 2 0, .cmpSigned 1 1 2 6, .cmpUnsigned 1 1 2 4, .plog 1 2 3 5, .plog 1 2 3 4,
     .shli 1 2 64, .ldb 1 32 1 0, .cvta 1 2 6, .isspace 1 2 6, .fence 0, .fence 29, .fence 33, .pfence 1 1 1, .pfence 2 0 1, .pbrx 8 1,
     .br 24 1 0, .br 1 7 0, .br 1 0 0, .dpush 24 0 0, .hnew 1 2 11, .hnew 1 2 23, .amo 9 0 0 0 1 2 3 0 0, .amo 0 0 0 7 1 2 3 0 0,
     .cas 0 0 7 1 2 3 4 0 0, .swaitt 1 2 3 24].all illFormed = true := by decide +kernel

/-- Stream words (05 R96, R97). -/
theorem smoke_stream :
    [.sbind { s0 with slot := 1 }, .sunbind { s0 with xa := 1 }, .sld { s0 with size := 11 }, .sgather { s0 with mode := 4 },
     .smeta { s0 with imm := 2 }, .cpy { s0 with ckm := 3 }, .cpyr { s0 with mode := 3 }, .ckrdRead { s0 with mode := 2 },
     .snopMark { s0 with imm := 2 }, .snop { s0 with xb := 1 }, .stage { s0 with dims := 1 }].all illFormed = true := by decide +kernel

/-- Vector words (05 R90-R92, 09 R166). -/
theorem smoke_vector :
    [.vadd { v0 with ty := 6 }, .vadd { v0 with rnd := 9 }, .vmin { v0 with rnd := 1 }, .vadd { v0 with imm := 1 }, .vadd { v0 with pred := 24 },
     .vsqrt { v0 with sb := 1 }, .vadd { v0 with sc := 1 }, .viadd { v0 with ty := 0 }, .vcmpOrdered { v0 with imm := 6 },
     .vicmp { v0 with ty := 6, imm := 6 }, .vred { v0 with imm := 3 }, .vcvt { v0 with sc := 64 }, .vpack { v0 with sc := 0, ty := 0 },
     .vunpk { v0 with sc := 0, ty := 0 }, .vhash { v0 with ty := 4 }, .vperm { v0 with ty := 4 }, .vlen { v0 with ty := 6, imm := 1 },
     .vextr { v0 with ty := 6, pred := 1 }, .vaccrd { v0 with sa := 16 }, .vaccrd { v0 with imm := 31, rep := 1 }, .vaccwr { v0 with dst := 16 },
     .vdot4 { v0 with ty := 5 }].all illFormed = true := by decide +kernel

/-- Matrix words (05 R98, 10 R190-R201). -/
theorem smoke_matrix :
    [.mma { m0 with apitch := 4, bpitch := 4, afmt := 2, bfmt := 1 }, .mma { m0 with bpitch := 4, afmt := 2, bfmt := 2 },
     .mma { m0 with apitch := 4, bpitch := 4, afmt := 2, bfmt := 2, acc2 := 3 }, .mma { m0 with apitch := 4, bpitch := 4, afmt := 2, bfmt := 2, spm := 1 },
     .mmas { m0 with apitch := 4, bpitch := 4, afmt := 2, bfmt := 2 }, .mma16 { m0 with apitch := 4, bpitch := 4, afmt := 1, bfmt := 1 },
     .mzero { m0 with afmt := 1 }, .mload { m0 with afmt := 2 }, .mstore { m0 with apitch := 4, afmt := 2, arnd := 9 }, .mscale { m0 with xd := 1 },
     .mflag { m0 with bpitch := 1 }].all illFormed = true := by decide +kernel

/-- What only slice text accepts (05 R86, R87, R93, R96). -/
theorem smoke_slice_only :
    [.add 0 2 3 32, .add 1 2 0 48, .dpush 1 2 3, .dtake 1 2, .sloop 1 2 3 0, .vloop 1 2 3 0, .mdbr 1 2 3 0, .vnop 0x40000, .mnop 0x200].all sliceOnly
      = true := by decide +kernel

/-! Witnesses: for each statement with hypotheses, states and operands that meet them; with them one step each, whose result is
worked out by hand from the rule. -/

/-- A channel entry in ch3. -/
def pushed (v : Word) : State := withC (fun c => { c with str := { c.str with ch := c.str.ch.set 3 [{ tag := 0, val := .scalar v, popped := none }] } }) (sliced .c)
/-- ch3 is full. -/
def fullCh : State := (List.range 16).foldl (fun s k => chanPush s 3 (.scalar (BitVec.ofNat 64 k))) (sliced .c)

theorem witness_ScalarArithmetic :
    [Instr.add 1 2 3 0, .div 1 2 3 0, .addi 1 2 5, .shli 1 2 63, .lih 1 5, .ldil 1 5].all (issues · base) = true
    ∧ issues (.add 0 2 3 0x23) (sliced .c) = true ∧ issues (.add 0 2 3 0x23) fullCh = true
    ∧ issues (.add 1 2 0 0x33) (pushed 9) = true ∧ issues (.add 1 2 0 0x33) (sliced .c) = true
    ∧ (fullCh.me.str.ch.getD 3 []).length = 16 ∧ chanHead (pushed 9) 3 = some (.scalar 9) ∧ chanHead (sliced .c) 3 = none := by
  decide +kernel

/-- The values written by a few words; division by zero and the two long constants (08 R136, R142, R143). -/
theorem test_scalar_values :
    xOf (after_ (.add 1 2 3 0) (withX [(2, BitVec.allOnes 64), (3, 2)] base)) 1 = 1
    ∧ xOf (after_ (.div 1 2 3 0) (withX [(2, 7)] base)) 1 = BitVec.allOnes 64
    ∧ xOf (after_ (.div 1 2 3 0) (withX [(2, BitVec.ofInt 64 (-7)), (3, 2)] base)) 1 = BitVec.ofInt 64 (-3)
    ∧ xOf (after_ (.rem 1 2 3 0) (withX [(2, 7)] base)) 1 = 7
    ∧ xOf (after_ (.mulh 1 2 3 0) (withX [(2, BitVec.allOnes 64), (3, BitVec.allOnes 64)] base)) 1 = 0
    ∧ xOf (after_ (.mulhu 1 2 3 0) (withX [(2, BitVec.allOnes 64), (3, BitVec.allOnes 64)] base)) 1 = BitVec.ofInt 64 (-2)
    ∧ xOf (after_ (.sar 1 2 3 0) (withX [(2, BitVec.ofInt 64 (-8)), (3, 65)] base)) 1 = BitVec.ofInt 64 (-4)
    ∧ xOf (after_ (.lih 1 5) (withX [(1, 3)] base)) 1 = 3 * 2 ^ 18 + 5
    ∧ xOf (after_ (.add 1 2 0 0x33) (withX [(2, 1)] (pushed 9))) 1 = 10
    ∧ xOf (after_ (.add 0 2 3 0) (withX [(2, 1)] base)) 0 = 0 := by decide +kernel

theorem witness_BitCounts : [Instr.clz 1 2, .ctz 1 2, .popc 1 2].all (issues · base) = true := by decide +kernel

/-- CLZ, CTZ and POPC of zero and of 0x50 (08 R137). -/
theorem test_counts :
    ([Instr.clz 1 2, .ctz 1 2, .popc 1 2].map fun i => (xOf (after_ i base) 1).toNat) = [64, 64, 0]
    ∧ ([Instr.clz 1 2, .ctz 1 2, .popc 1 2].map fun i => (xOf (after_ i (withX [(2, 0x50)] base)) 1).toNat) = [57, 4, 2] := by
  decide +kernel

theorem witness_FieldsAndCompares :
    [Instr.bfx 1 2 8 7, .bfi 1 2 8 7, .sel 1 2 3 0x21, .cmpSigned 3 1 2 5, .cmpUnsigned 3 1 2 3, .cmpiEq 3 1 5, .cmpiLeu 3 1 5,
     .plog 3 1 2 0, .plog 3 1 0 4].all (issues · base) = true := by decide +kernel

/-- A field taken and one put in; a compare of -1 with 1, signed and unsigned (08 R138, R139). -/
theorem test_fields_and_compares :
    xOf (after_ (.bfx 1 2 8 7) (withX [(2, 0xABCD)] base)) 1 = 0xAB
    ∧ xOf (after_ (.bfi 1 2 8 7) (withX [(1, 0x11111), (2, 0xCD)] base)) 1 = 0x1CD11
    ∧ readP (after_ (.cmpSigned 3 1 2 2) (withX [(1, BitVec.allOnes 64), (2, 1)] base)).me.regs 3 = BitVec.allOnes 128
    ∧ readP (after_ (.cmpUnsigned 3 1 2 0) (withX [(1, BitVec.allOnes 64), (2, 1)] base)).me.regs 3 = 0
    ∧ readP (after_ (.plog 3 0 0 4) base).me.regs 3 = 0 := by decide +kernel

theorem witness_PredicateCounts : [Instr.psetn 3 2, .ptest 1 3].all (issues · base) = true := by decide +kernel

/-- PSETN above 128 sets every lane, PTEST counts them (08 R141). -/
theorem test_predicate_counts :
    readP (after_ (.psetn 3 2) (withX [(2, 200)] base)).me.regs 3 = BitVec.allOnes 128
    ∧ xOf (after_ (.ptest 1 3) (after_ (.psetn 3 2) (withX [(2, 5)] base))) 1 = 5 := by decide +kernel

/-- The vector slice's mode queue is full. -/
def fullMode : State :=
  withC (fun c => { c with str := { c.str with modeV := List.replicate 8 { tag := 0, rmode := false, val := 512 } } }) (sliced .c)

theorem witness_CsrWords :
    issues (.csrrd 1 0x015) base = true ∧ csrValue base 0x015 = some 1 ∧ issues (.csrrd 1 0x020) base = true ∧ csrValue base 0x020 = none
    ∧ csrValue base 0x01A = none
    ∧ issues (.csrwr 2 0x012) base = true ∧ base.me.form = .logical ∧ issues (.csrwr 2 0x012) (sliced .c) = true
    ∧ (sliced .c).me.str.modeS.length < 8 ∧ (sliced .c).me.str.modeV.length < 8 ∧ (sliced .c).me.str.modeM.length < 8
    ∧ 8 ≤ fullMode.me.str.modeV.length ∧ issues (.csrwr 2 0x013) fullMode = true ∧ (xOf fullMode 2).toNat ≤ 512 := by decide +kernel

/-- Reads of CSRs and writes with their refusals at the edges of their ranges (03 R54, R55). -/
theorem test_csr_values :
    xOf (after_ (.csrrd 1 0x013) base) 1 = 512 ∧ lastCode (after_ (.csrrd 1 0x020) base) = some 0x0202
    ∧ lastCode (after_ (.csrrd 1 0x01A) base) = some 0x0102
    ∧ (after_ (.csrwr 2 0x013) (withX [(2, 512)] base)).me.csr.vl = 512
    ∧ lastCode (after_ (.csrwr 2 0x013) (withX [(2, 513)] base)) = some 0x0102
    ∧ lastCode (after_ (.csrwr 2 0x012) (withX [(2, 16)] base)) = some 0x0102
    ∧ lastCode (after_ (.csrwr 2 0x016) (withX [(2, 6)] base)) = some 0x0203
    ∧ lastCode (after_ (.csrwr 2 0x019) (withX [(2, 64)] base)) = some 0x0203
    ∧ lastCode (after_ (.csrwr 2 0x015) base) = some 0x0202 := by decide +kernel


/-- The code a translation ends in, 0 where it succeeds. -/
def transCode (va : Nat) (wr : Bool) : Nat := match (translate base part1 va wr).2 with | .error c => c | .ok _ => 0

/-- The constant cache of cluster 0 holds a word read after the submission of launch 5, and the schedule's choice is the cache. -/
def constCached : State :=
  { withC (fun c => { c with defer := [true] }) base with ccache := [((0, gkey), 3, 9)], launches := [launch5] }

theorem witness_AddressWords :
    issues (.ldc 1 2 0) base = true ∧ issues (.ldg 1 0) base = true ∧ transCode (2 ^ 17) false = 0x0201 ∧ transCode 0x40 false = 0
    ∧ deferNow base = false ∧ markOf base gkey = none ∧ deferNow (withC (fun c => { c with defer := [true] }) base) = true
    ∧ issues (.cvta 1 2 0x0A) base = true ∧ inSpace base 1 (inScratch 8).toNat = true ∧ inSpace base 1 8 = false
    ∧ [0, 1, 2, 3, 4, 5].all (fun f => issues (.isspace 3 2 f) crewed) = true ∧ isMate crewed 1 = true ∧ isMate crewed 2 = false
    ∧ inSpace crewed 2 (0xF1 * 2 ^ 56 + 2 ^ 20) = true ∧ inSpace crewed 2 (0xF1 * 2 ^ 56) = true
    ∧ constCached.ccache.find? (fun e => e.1 == (constCached.me.id / 8, gkey)) = some ((0, gkey), 3, 9) ∧ deferNow constCached = true
    ∧ (launchOf constCached constCached.me.task.launch).map Launch.arrival = some 0 := by decide +kernel

/-- LDC reads eight bytes little-endian and refuses what is outside the global aperture or off its alignment; CVTA from scratch to
the crew window at position 0; ISSPACE (08 R146, 12 R253, R254). -/
theorem test_addresses :
    xOf (after_ (.ldc 1 2 0) (withX [(2, 0x40)] (withMem gkey [1, 2, 3] base))) 1 = 0x030201
    ∧ xOf (after_ (.ldc 1 2 0) (withX [(2, 0x40)] constCached)) 1 = 9
    ∧ lastCode (after_ (.ldc 1 2 4) (withX [(2, 0x40)] base)) = some 0x0203
    ∧ lastCode (after_ (.ldc 1 2 0) (withX [(2, inScratch 8)] base)) = some 0x0204
    ∧ xOf (after_ (.cvta 1 2 0x11) (withX [(2, inScratch 8)] base)) 1 = 0xF100000000000008
    ∧ xOf (after_ (.cvta 1 2 0x02) (withX [(2, inScratch 8)] base)) 1 = 0
    ∧ readP (after_ (.isspace 3 2 1) (withX [(2, inScratch 8)] base)).me.regs 3 = BitVec.allOnes 128
    ∧ readP (after_ (.isspace 3 2 0) (withX [(2, inScratch 8)] base)).me.regs 3 = 0 := by decide +kernel

theorem witness_ScalarAccesses :
    [Instr.ldb 1 2 0 0, .ldbu 1 2 0 0, .ldh 1 2 0 0, .ldhu 1 2 0 0, .ldw 1 2 0 0, .ldwu 1 2 0 0, .ldd 1 2 0 0, .stb 1 2 0 0,
     .sth 1 2 0 0, .stw 1 2 0 0, .std 1 2 0 0].all (issues · (withX [(2, inScratch 16)] base)) = true
    ∧ (let s := withX [(2, inScratch 16)] base
       let k : Acc1 := { key := scratchKey 0 16, global := false, ver := none, remote := none }
       (checkC s 0 2 0 8 false false).2 = .ok k ∧ loadMark s s.me.flow.lsn k.key 8 k.global = none
         ∧ (checkC s 0 2 0 8 true false).2 = .ok k ∧ s.me.sqC.length < 32 ∧ deferNow s = false) := by decide +kernel

/-- A load sign-extends its bytes, and takes them from a store that waits in SQ(C); a store leaves memory alone (08 R148, R150). -/
theorem test_loads_and_stores :
    xOf (after_ (.ldb 1 2 0 1) (withX [(2, inScratch 16)] (withMem (scratchKey 0 17) [0x80] base))) 1 = BitVec.ofInt 64 (-128)
    ∧ xOf (after_ (.ldhu 1 2 0 0) (withX [(2, inScratch 16)] (withMem (scratchKey 0 16) [0x34, 0x82] base))) 1 = 0x8234
    ∧ (let s := after_ (.stw 4 2 0 0) (withX [(2, inScratch 16), (4, 0x11223344)] base)
       s.mem = [] ∧ s.me.sqC.length = 1 ∧ xOf (after_ (.ldbu 1 2 0 1) s) 1 = 0x33) := by decide +kernel

theorem witness_AccessChecks :
    (let s := withX [(2, inScratch (2 ^ 20))] base; issues (.ldw 1 2 0 0) s = true ∧ placeOf s (inScratch (2 ^ 20)).toNat = .none)
    ∧ placeOf base (0xF4 * 2 ^ 56) = .tile 0 ∧ placeOf base 0xF320000000000000 = .none ∧ placeOf base (0xF3 * 2 ^ 56 + 2 ^ 30) = .stack none
    ∧ transCode (2 ^ 17) true = 0x0201 ∧ transCode (2 ^ 16) true = 0x0202
    ∧ readH base.me.regs 3 = .empty := by decide +kernel

/-- The codes of a few failing accesses (08 R149). -/
theorem test_access_codes :
    lastCode (after_ (.ldw 1 2 0 0) (withX [(2, inScratch (2 ^ 20))] base)) = some 0x0204
    ∧ lastCode (after_ (.ldw 1 2 0 2) (withX [(2, inScratch 16)] base)) = some 0x0203
    ∧ lastCode (after_ (.stw 1 2 0 0) (withX [(2, BitVec.ofNat 64 (2 ^ 16))] base)) = some 0x0202
    ∧ lastCode (after_ (.ldd 1 3 1 0) base) = some 0x0404
    ∧ (after_ (.ldw 1 2 0 0) (withX [(2, BitVec.ofNat 64 (2 ^ 17))] base)).saved.length = 1 := by decide +kernel

theorem witness_FenceWords :
    NonePending base.me ∧ base.me.lqC.length < 32 ∧ base.me.sqC.length < 32 ∧ issues .qmark base = true
    ∧ [Instr.fence 0x05, .fence 0x06, .fence 0x07, .fence 0x15,
       .pfence 0 1 0x05, .pfence 0 1 0x06, .pfence 0 1 0x17].all (issues · base) = true
    ∧ deferNow base = false ∧ deferNow (withC (fun c => { c with defer := [true] }) base) = true := by
  unfold NonePending
  decide +kernel

/-- The state with a scalar at the head of ch3. -/
def withCh (v : Nat) (s : State) : State := chanPush s 3 (.scalar (BitVec.ofNat 64 v))
/-- The state with a decision at the head of dq1. -/
def withDec (b : Bool) (s : State) : State := setDq s 1 [{ tag := 0, bit := b, popped := [] }]

theorem witness_BranchWords :
    [Instr.pbr 1 3, .pbrx 1 2, .br 0 0 1, .br 3 1 1, .call 0 0 1, .call 3 1 1].all (issues · (withT 8 base)) = true
    ∧ isFirst (withT 8 base).me (readT (withT 8 base).me.regs 1).toNat = true ∧ isFirst base.me 4096 = false
    ∧ (readP base.me.regs 3).getLsbD 0 = false := by decide +kernel

/-- BR and CALL: to the target and x62, not taken, off a unit, and outside the text; a prepared target (08 R152, R153). -/
theorem test_branches :
    (after_ (.br 0 0 1) (withT 8 base)).me.flow.pc = 8 ∧ (after_ (.br 3 1 1) (withT 8 base)).me.flow.pc = 4
    ∧ (after_ (.call 0 0 1) (withT 8 base)).me.flow.pc = 8 ∧ xOf (after_ (.call 0 0 1) (withT 8 base)) 62 = 4
    ∧ lastCode (after_ (.br 0 0 1) (withT 6 base)) = some 0x0203 ∧ lastCode (after_ (.call 0 0 1) (withT 4096 base)) = some 0x0101
    ∧ readT (after_ (.pbr 1 0x1FFFFF) (withC (fun c => { c with flow := { c.flow with pc := 8 } }) base)).me.regs 1 = 4 := by
  decide +kernel

/-- Loop 0 is active and ends at the word at 0 with count `n`. -/
def inLoop (n : Nat) : State :=
  withC (fun c => { c with flow := { c.flow with
    loops := c.flow.loops.set 0 { count := BitVec.ofNat 32 n, active := true, start := 0, stop := 0, rank := 0 } } }) (withT 8 base)

theorem witness_TakenBranches : issues (.br 0 0 1) (inLoop 2) = true ∧ issues (.call 0 0 1) (inLoop 2) = true
    ∧ isFirst (inLoop 2).me 8 = true ∧ (inLoop 2).me.hdl = false := by decide +kernel

/-- A branch at a loop's END keeps the loop; a NOP there goes back, and falls out with the last pass (08 R154, R156). -/
theorem test_loop_back :
    ((after_ (.br 0 0 1) (inLoop 2)).me.flow.loops.getD 0 .none).active = true
    ∧ (after_ .nop (inLoop 2)).me.flow.pc = 0 ∧ ((after_ .nop (inLoop 2)).me.flow.loops.getD 0 .none).count = 1
    ∧ (after_ .nop (inLoop 1)).me.flow.pc = 4 ∧ ((after_ .nop (inLoop 1)).me.flow.loops.getD 0 .none).active = false := by
  decide +kernel

/-- A LOOP of that BODY14 at the start of slice C, whose loop table row names ch0 for slice S. -/
def loopOf (body : Nat) : State :=
  withC (fun c => { c with text := BitVec.ofNat 32 (0x5541C000 + body) :: nops, map := { resume := [], segs := [], loops := [(0, 16)] } })
    (sliced .c)
/-- Its body is of three units. -/
def loopsTo : State := loopOf 3
/-- Its channel is full. -/
def loopsFull : State := (List.range 16).foldl (fun s k => chanPush s 0 (.scalar (BitVec.ofNat 64 k))) loopsTo

theorem witness_LoopWords :
    issues (.loopReg 1 2 3) base = true ∧ issues (.loopImm 1 7 3) base = true ∧ isLast base.me 16 = true ∧ isLast base.me 4096 = false
    ∧ issues (.loopImm 1 7 3) (sliced .c) = true ∧ loopChans loopsTo.me = [0] ∧ (loopsTo.me.str.ch.getD 0 []).length < 16
    ∧ issues (.loopImm 1 7 3) loopsFull = true ∧ 16 ≤ (loopsFull.me.str.ch.getD 0 []).length
    ∧ isLast loopsTo.me ((logicalPc loopsTo.me).toNat + 4 + 4 * logicalBody loopsTo 3) = true
    ∧ isLast (loopOf 3000).me ((logicalPc (loopOf 3000).me).toNat + 4 + 4 * logicalBody (loopOf 3000) 3000) = false
    ∧ chanHead (chanPush (sliced .s) 3 .skipped) 3 = some .skipped ∧ chanHead (chanPush (sliced .s) 3 (.vector 1)) 3 = some (.vector 1)
    ∧ [Engine.s, .v, .m].all (fun e => (chanHead (withCh 4 (sliced e)) 3).isSome) = true
    ∧ issues (.sloop 1 3 3 0) (withCh 4 (sliced .s)) = true ∧ issues (.vloop 1 3 3 0) (withCh 4 (sliced .v)) = true
    ∧ issues (.mloop 1 3 3 0) (withCh 4 (sliced .m)) = true ∧ issues (.sloop 1 3 3 0) (sliced .s) = true := by decide +kernel

/-- LOOP sets START, END and the count; a count of 0 skips the body; one above 2^32 - 1 is refused (08 R155, R156). -/
theorem test_loops :
    (let l := (after_ (.loopImm 1 7 3) base).me.flow.loops.getD 1 .none
     l.count = 8 ∧ l.start = 4 ∧ l.stop = 16 ∧ l.active = true)
    ∧ (after_ (.loopReg 1 2 3) base).me.flow.pc = 20
    ∧ lastCode (after_ (.loopReg 1 2 3) (withX [(2, BitVec.ofNat 64 (2 ^ 32))] base)) = some 0x0102
    ∧ lastCode (after_ (.loopReg 1 2 3000) (withX [(2, 1)] base)) = some 0x0101
    ∧ ((after_ (.sloop 1 3 3 0) (withCh 4 (sliced .s))).me.flow.loops.getD 1 .none).count = 4 := by decide +kernel

/-- 32 decisions in dq1 that no slice has taken. -/
def fullDec : State := setDq (sliced .c) 1 (List.replicate 32 { tag := 0, bit := true, popped := [] })
/-- A stream command of the LSN `n` waits, and the frontier stands at 0. -/
def queued (n : Nat) : State := withC (fun c => { c with sqS := [SCmd.mk n .cpy [] 0 none 0 0 0 0 none 0 false] }) (sliced .s)

theorem witness_DecisionAndEmptyWords :
    issues (.dpush 3 1 1) (sliced .c) = true ∧ issues (.dtake 3 1) (withDec true (sliced .c)) = true ∧ issues (.sdbr 1 1 2 0) (withDec true (sliced .s)) = true
    ∧ issues (.vdbr 1 1 2 0) (withDec true (sliced .v)) = true ∧ issues (.mdbr 1 1 2 0) (withDec true (sliced .m)) = true
    ∧ decHead (withDec true (sliced .s)) 1 = some true ∧ decHead (sliced .s) 1 = none
    ∧ issues (.vnop 0) (sliced .v) = true ∧ issues (.mnop 0) (sliced .m) = true ∧ issues (.snop s0) (sliced .s) = true
    ∧ issues (.snopMark { s0 with imm := 1 }) (queued 0) = true ∧ (queued 0).me.sqS.all (fun c => c.lsn ≤ frontier (queued 0).me) = true
    ∧ issues (.snopMark { s0 with imm := 1 }) (queued 3) = true ∧ (queued 3).me.sqS.any (fun c => frontier (queued 3).me < c.lsn) = true
    ∧ issues (.dpush 3 1 1) fullDec = true
    ∧ 32 ≤ ((fullDec.me.str.dq.getD 1 []).filter fun e => !decFreed (decReaders fullDec.me 1) e).length := by decide +kernel

/-- A decision popped branches or not; DPUSH appends the test's value; DTAKE writes it (08 R158, 09 R182). -/
theorem test_decisions :
    (after_ (.sdbr 1 1 2 0) (withDec true (sliced .s))).me.flow.pc = 8 ∧ (after_ (.sdbr 1 1 2 0) (withDec false (sliced .s))).me.flow.pc = 12
    ∧ ((after_ (.dpush 3 2 1) (sliced .c)).me.str.dq.getD 1 []).map DqEntry.bit = [true]
    ∧ readP (after_ (.dtake 3 1) (withDec true (sliced .c))).me.regs 3 = BitVec.allOnes 128 := by decide +kernel

theorem witness_NopWord : issues .nop base = true := by decide +kernel

/-- NOP takes one LSN and a cycle (08 R159). -/
theorem test_nop : (after_ .nop base).me.flow.lsn = 1 ∧ (after_ .nop base).me.flow.pc = 4 ∧ (after_ .nop base).me.csr.cycle = 1 := by
  decide +kernel

/-- Handlers at 16, a record at offset 128 of the scratch. -/
def withHandlers (s : State) : State :=
  withC (fun c => { c with csr := { c.csr with trapvec := 16, emuvec := 20, faultrec := inScratch 128 }, emulate := true }) s
/-- One region is open with its handler at 24. -/
def withRegion (s : State) : State := withC (fun c => { c with regions := [{ handler := 24, opened := 0 }] }) s
/-- A code raised by the word at the PC. -/
def raiseAt (s : State) (c : Nat) : Raise := { raiseOf s c none with insn := [0, 0, 0, 0x5B] }
/-- Nothing waits in the core's queues. -/
def settled (s : State) : Bool :=
  s.me.lqC.isEmpty && s.me.sqC.isEmpty && s.me.sqS.isEmpty && s.me.rewind.isEmpty && s.me.posts.isEmpty && s.me.parked.isEmpty

theorem witness_ContainmentRegions :
    issues (.cropen 2) base = true ∧ base.me.regions.length < 4 ∧ issues .crclose base = true ∧ issues .crclose (withRegion base) = true
    ∧ issues (.cropen 2) (withC (fun c => { c with regions := List.replicate 4 { handler := 0, opened := 0 } }) base) = true := by decide +kernel

/-- CROPEN and CRCLOSE, a fifth region, and a close with none open (19 R363). -/
theorem test_regions :
    (after_ (.cropen 2) base).me.regions = [{ handler := 8, opened := 0 }] ∧ (after_ .crclose (withRegion base)).me.regions = []
    ∧ lastCode (after_ .crclose base) = some 0x0102
    ∧ (after_ (.cropen 2) (withC (fun c => { c with regions := List.replicate 4 { handler := 24, opened := 0 } }) base)).me.flow.pc = 24 := by
  decide +kernel

theorem witness_HandlerEntries :
    issues (.trap 5) (withHandlers base) = true ∧ Memory.wf base.mem = true ∧ settled (withHandlers base) = true
    ∧ (withHandlers base).me.csr.faultrec.toNat = 0xF0 * 2 ^ 56 + 128 ∧ isFirst base.me 16 = true ∧ isFirst base.me 20 = true
    ∧ (raiseAt base 0x0101).after = false ∧ (raiseAt base 0x0101).lsn = base.me.flow.lsn ∧ (raiseAt base 0x0101).pc = base.me.flow.pc
    ∧ issues (.br 0 0 7) (withT 8 (withC (fun c => { c with hdl := true }) base)) = true ∧ isReturn base.me (logicalPc base.me) = true
    ∧ isReturn (withC (fun c => { c with text := (0x50E00001 : BitVec 32) :: nops }) base).me 4 = false := by decide +kernel

/-- TRAP 5 enters its handler after itself; an undefined word enters the emulation handler at itself; a return word goes to t7 (18
R354, R357, R358). -/
theorem test_handlers :
    (let u := after_ (.trap 5) (withHandlers base)
     u.me.flow.pc = 16 ∧ u.me.flow.lsn = 1 ∧ readT u.me.regs 7 = 4 ∧ u.me.hdl = true ∧ memField u (scratchKey 0 128) 2 = 0x0905)
    ∧ (let u := raiseCode (withHandlers base) (raiseAt (withHandlers base) 0x0101)
       u.me.flow.pc = 20 ∧ u.me.flow.lsn = 0 ∧ readT u.me.regs 7 = 4 ∧ u.me.emu = true)
    ∧ (let u := after_ (.br 0 0 7) (withT 8 (withC (fun c => { c with hdl := true }) base))
       u.me.flow.pc = 8 ∧ u.me.hdl = false) := by decide +kernel

theorem witness_FaultRouting :
    settled (withRegion (withHandlers base)) = true ∧ isFirst base.me 24 = true ∧ (raiseAt base 0x0303).code / 256 ≠ 9
    ∧ (raiseAt base 0x0201).after = false := by decide +kernel

/-- The innermost region takes 0x0303; 0x0201 saves the task; inside a handler a code becomes 0x0107; else it kills (18 R354, R358). -/
theorem test_routing :
    (let s := withRegion (withHandlers base); let u := raiseCode s (raiseAt s 0x0303); u.me.flow.pc = 24 ∧ u.me.regions = [] ∧ u.hostOut = [])
    ∧ (let u := raiseCode base (raiseAt base 0x0201); u.saved.map Saved.cause = [.systemFault] ∧ u.me.run = .idle)
    ∧ lastCode (raiseCode (withC (fun c => { c with hdl := true }) base) (raiseAt base 0x0303)) = some 0x0107
    ∧ (let u := raiseCode base (raiseAt base 0x0303); lastCode u = some 0x0303 ∧ u.me.run = .idle) := by decide +kernel

/-- The core is past its TEXIT. -/
def exiting : State := withC (fun c => { c with run := .exiting }) { base with launches := [launch5] }
/-- Breakpoints are enabled. -/
def breaks : State := { base with parts := [{ part1 with cfg := { cfg1 with brk := true } }] }

theorem witness_TaskEndAndBreakpoints :
    issues .texit base = true ∧ (coreOf exiting 0).run = .exiting ∧ handlesFrom (coreOf exiting 0).regs 0 = []
    ∧ issues (.bkpt 9) base = true ∧ (myPart base).cfg.brk = false ∧ issues (.bkpt 9) breaks = true ∧ (myPart breaks).cfg.brk = true
    ∧ settled breaks = true ∧ (launchOf exiting (coreOf exiting 0).task.launch).map Launch.exited = some 0
    ∧ (let s : State := { sliced .c with parts := breaks.parts }
       issues (.bkpt 9) s = true ∧ s.me.parked.any (fun p => nextLsn p.2 ≤ s.me.flow.lsn) = true) := by decide +kernel

/-- TEXIT, then TASK_EXIT; a breakpoint halts with its tag after the word (16 R325, 18 R356). -/
theorem test_task_end :
    (after_ .texit base).me.run = .exiting ∧ (after_ (.taskExit 0) exiting).me.run = .idle
    ∧ (after_ (.bkpt 9) base).me.flow.pc = 4
    ∧ (let u := after_ (.bkpt 9) breaks
       u.me.run = .halted 9 true ∧ u.me.flow.pc = 4 ∧ u.me.flow.lsn = 1 ∧ u.saved = []) := by decide +kernel

theorem witness_EarlyRelease :
    issues .erls base = true ∧ base.me.erls = false ∧ issues .erls (withRegion base) = true
    ∧ issues .erls (withC (fun c => { c with erls := true }) base) = true := by decide +kernel

/-- ERLS marks its task once; in a region it raises 0x0705, which the region takes (16 R324). -/
theorem test_erls : (after_ .erls base).me.erls = true ∧ (after_ .erls (withRegion base)).me.flow.pc = 24 := by decide +kernel

/-- A state with a count in s3. -/
def withSem (n : Nat) (s : State) : State := withR (fun r => writeS r 3 n) s
theorem witness_SemaphoreWords :
    [Instr.swait 3 2, .swaitge 3 2, .swaitt 3 2 1 4, .saddImm 3 2, .saddReg 3 1 0, .saddImm 128 2].all (issues · base) = true
    ∧ issues (.spostx 3 2 1) crewed = true ∧ isMate crewed 1 = true ∧ isMate crewed 2 = false ∧ base.me.wait = .none
    ∧ ({ crewed with spostq := [(1, 3, 2, 0)] } : State).spostq.head? = some (1, 3, 2, 0) := by decide +kernel

/-- Waits taken, left and timed out; adds at the edge of 32 bits and of the ranges; a post to a core of the crew (16 R314-R317). -/
theorem test_semaphores :
    readS (after_ (.swait 3 2) (withSem 5 base)).me.regs 3 = 3 ∧ readS (after_ (.swaitge 3 2) (withSem 5 base)).me.regs 3 = 5
    ∧ (after_ (.swait 3 2) (withSem 1 base)).me.flow.pc = 0
    ∧ readP (after_ (.swaitt 3 2 1 4) (withC (fun c => { c with csr := { c.csr with cycle := 9 } }) (waits (.sem 3 2 true (some (8, 4)) 0) (withX [(1, 8)] base)))).me.regs 4 = 0
    ∧ readP (after_ (.swaitt 3 2 1 4) (withSem 2 base)).me.regs 4 = BitVec.allOnes 128
    ∧ lastCode (after_ (.saddImm 3 2) (withSem (2 ^ 32 - 1) base)) = some 0x0304 ∧ lastCode (after_ (.saddImm 128 2) base) = some 0x0202
    ∧ (after_ (.spostx 3 2 1) (withX [(1, 1)] crewed)).spostq.map (fun e => (e.1, e.2.1, e.2.2.1)) = [(1, 3, 2)] ∧ lastCode (after_ (.spostx 3 2 1) (withX [(1, 2)] crewed)) = some 0x0204
    ∧ readS (coreOf (after_ .spostxArrival { crewed with spostq := [(1, 3, 2, 0)] }) 1).regs 3 = 2 := by decide +kernel

theorem witness_ResultQueues :
    issues (.push 1 2 3) crewed = true ∧ issues (.popy 4 1) crewed = true ∧ issues (.popyNb 4 1) crewed = true ∧ isMate crewed 0 = true
    ∧ (readY (coreOf crewed 0).regs 1).length < 8 ∧ readY crewed.me.regs 1 = []
    ∧ (readY (coreOf (withR (fun r => writeY r 1 (List.replicate 8 0)) crewed) 0).regs 1).length = 8 := by decide +kernel

/-- PUSH to itself and to a position that runs no member; POPY with nb on an empty queue; POPY takes the head (16 R318). -/
theorem test_result_queues :
    readY (after_ (.push 1 2 3) (withX [(2, 7)] crewed)).me.regs 1 = [7] ∧ lastCode (after_ (.push 1 2 3) (withX [(3, 2)] crewed)) = some 0x0204
    ∧ lastCode (after_ (.push 1 2 3) (withX [(3, 8)] crewed)) = some 0x0102
    ∧ readP (after_ (.popyNb 4 1) crewed).me.regs 23 = BitVec.allOnes 128
    ∧ xOf (after_ (.popy 4 1) (withR (fun r => writeY r 1 [7, 8]) crewed)) 4 = 7 := by decide +kernel

theorem witness_BarrierWords :
    issues (.bararr 2) crewed = true ∧ issues (.barexp 2 1) crewed = true ∧ issues (.barwait 2) crewed = true ∧ issues (.barwaitt 2 1 4) crewed = true
    ∧ (crewOf crewed 9).isSome = true ∧ (crewOf (releaseAt crewed 1) 9).isSome = true ∧ crewed.me.wait = .none := by decide +kernel

/-- One member arrives, the second completes the phase; a second arrival is refused; a wait for the open phase waits (16 R320). -/
theorem test_barriers :
    (let u := after_ (.bararr 2) crewed
     ((crewOf u 9).map fun c => ((barOf c 2).phase, (barOf c 2).arr)) = some (0, [2]) ∧ lastCode (after_ (.bararr 2) u) = some 0x0305
     ∧ (after_ (.barwait 2) u).me.flow.lsn = 1
     ∧ ((crewOf (after_ (.bararr 2) (focus 1 u)) 9).map fun c => (barOf c 2).phase) = some 1)
    ∧ (after_ (.barwait 2) crewed).me.flow.lsn = 1
    ∧ ((crewOf (after_ (.barexp 2 1) (withX [(1, 64)] crewed)) 9).map fun c => (barOf c 2).out) = some 64 := by decide +kernel


theorem witness_WaitEvents :
    fetch (fetching 0x60030002 base).me = .word (.swait 3 2)
    ∧ (let s := waits (.sem 3 2 true none 0) (withSem 2 (fetching 0x60030002 base))
       s.me.run = .running ∧ stoppedFor s.me = false ∧ s.me.wait = .sem 3 2 true none 0 ∧ 2 ≤ readS s.me.regs 3
       ∧ readS (after_ (.semaphoreWaitSuccess 0) s).me.regs 3 = 0 ∧ (after_ (.semaphoreWaitSuccess 0) s).me.flow.pc = 4) := by
  decide +kernel

/-- An HDROP of h2 waits for VERSION_SEAL. -/
def hdropWaits : State := waits (.hdrop 7) (fetching 0x74002000 (tiled true 0 .filling))

theorem witness_HandleWords :
    issues (.hnew 3 1 12) base = true ∧ heldOf base 3 = none ∧ tileName tileA.toNat = some 0 ∧ quotaOk base part1 0 12 = true
    ∧ tileName 0 = none ∧ (heldOf (tiled true 0 .filling) 2).isSome = true ∧ issues (.hsee 3 1) (tiled false 0 .sealed) = true
    ∧ (currentOf (tiled false 0 .sealed) 1 0).isSome = true ∧ currentOf base 1 0 = none
    ∧ issues (.hseeof 3 2) (tiled true 0 .filling) = true ∧ issues (.hdup 3 2) (tiled false 0 .sealed) = true
    ∧ issues (.hdrop 2) (tiled true 0 .filling) = true ∧ issues (.hdrop 2) (tiled true 3 .filling) = true
    ∧ unacked (releaseAt (popDefer (tiled true 3 .filling)) 4) (hand true 3) = false
        ∧ issues (.hstat 1 2) (tiled false 0 .sealed) = true ∧ issues (.hstat 1 2) (tiled false 3 .sealed) = true
    ∧ (coreOf (waits (.parked 7 0) (tiled false 0 .sealed)) 0).wait = .parked 7 base.fabric
    ∧ deferNow (tiled true 0 .filling) = false ∧ deferNow (withC (fun c => { c with defer := [true] }) (tiled true 0 .filling)) = true
    ∧ lostHandle (tiled true 3 .filling) (hand true 3) = false ∧ lostHandle { tiled true 3 .filling with eras := [(3, 1)] } (hand true 3) = true
    ∧ knownOf { tiled false 3 .sealed with known := [((3, 7), (1, 1))] } 3 7 = some (1, 1)
    ∧ fetch hdropWaits.me = .word (.hdrop 2) ∧ hdropWaits.me.run = .running ∧ stoppedFor hdropWaits.me = false
    ∧ hdropWaits.me.wait = .hdrop 7 ∧ ((allCores hdropWaits).filter fun d => waitOf d .c == .hdrop 7).map Core.id = [0]
    ∧ ((verOf (after_ (.versionSeal 7) hdropWaits) 7).map Version.state) = some .sealed := by decide +kernel

/-- HNEW makes the next number of a name; a full register, a name outside, another size, no current version; HDROP seals; HSTAT (13
R263-R267). -/
theorem test_handles :
    (let u := after_ (.hnew 3 1 12) (withX [(1, tileA)] (tiled false 0 .sealed))
     (currentOf u 1 0).map (fun v => (v.id, v.num, v.state)) = some (8, 5, .filling) ∧ (heldOf u 3).map Handle.fill = some true)
    ∧ lastCode (after_ (.hnew 2 1 12) (withX [(1, tileA)] (tiled false 0 .sealed))) = some 0x0407
    ∧ lastCode (after_ (.hnew 3 1 12) (withX [(1, 64)] base)) = some 0x0204
    ∧ lastCode (after_ (.hnew 3 1 13) (withX [(1, tileA)] (tiled false 0 .sealed))) = some 0x0409
    ∧ lastCode (after_ (.hsee 3 1) (withX [(1, tileA)] base)) = some 0x0408
    ∧ lastCode (after_ (.hdup 3 2) (tiled true 0 .filling)) = some 0x0405
    ∧ ((verOf (after_ (.hdup 3 2) (tiled false 0 .sealed)) 7).map Version.see) = some 2
    ∧ ((verOf (after_ (.hdrop 2) (tiled true 0 .filling)) 7).map Version.state) = some .sealed
    ∧ xOf (after_ (.hstat 1 2) (tiled false 0 .sealed)) 1 = BitVec.ofNat 64 (4 * 2 ^ 16 + 12 * 2 ^ 8 + 2 ^ 4 + 2 ^ 2) := by decide +kernel

theorem witness_Mailboxes :
    issues (.hsend 2 1) (tiled false 0 .sealed) = true ∧ (heldOf (tiled false 0 .sealed) 2).isSome = true ∧ base.outHands = []
    ∧ (mailboxOf base 1 5).length < 16 ∧ base.rmap.gone.contains 3 = false ∧ issues (.hrecv 3 1) base = true ∧ mailboxOf base 1 5 = []
    ∧ (mailboxOf ({ base with outHands := [{ part := 1, dst := base.fabric, mailbox := 5, handle := hand false 0, sent := none }] } : State) 1 5).length < 16
    ∧ 16 ≤ (mailboxOf ({ base with mailboxes := [((1, 5), List.replicate 16 (hand false 0))] } : State) 1 5).length
    ∧ mailboxOf ({ base with mailboxes := [((1, 5), [hand false 0])] } : State) 1 5 = [hand false 0]
    ∧ (let s := waits (.hrecv 5 3) (withX [(1, 5)] (fetching 0x760C1000 { base with mailboxes := [((1, 5), [hand false 0])] }))
       fetch s.me = .word (.hrecv 3 1) ∧ heldOf (after_ (.handleReceived 0) s) 3 = some (hand false 0)) := by decide +kernel

/-- A handle goes to a mailbox of this module and out to another; HRECV takes it, and waits for one (13 R266). -/
theorem test_mailboxes :
    (let u := after_ (.hsend 2 1) (withX [(1, 5)] (tiled false 0 .sealed))
     mailboxOf u 1 5 = [hand false 0] ∧ readH u.me.regs 2 = .empty
     ∧ heldOf (after_ (.hrecv 3 1) u) 3 = some (hand false 0))
    ∧ ((after_ (.hsend 2 1) (withX [(1, BitVec.ofNat 64 (3 * 2 ^ 32 + 5))] (tiled false 0 .sealed))).outbox.map Packet.dst) = [3]
    ∧ lastCode (after_ (.hsend 2 1) (withX [(1, 256)] (tiled false 0 .sealed))) = some 0x0102
    ∧ (after_ (.hrecv 3 1) (withX [(1, 5)] base)).me.wait = .hrecv 5 3 := by decide +kernel

theorem witness_MapWords : issues (.maprd 1 2) base = true ∧ issues (.mapack 2) base = true := by decide +kernel

/-- Words of the map record, and an acknowledgement (20 R374, R377, R378). -/
theorem test_map_words :
    xOf (after_ (.maprd 1 2) base) 1 = 1 ∧ xOf (after_ (.maprd 1 2) (withX [(2, 0x58)] base)) 1 = BitVec.ofNat 64 (2 ^ 48 - 1)
    ∧ xOf (after_ (.maprd 1 2) (withX [(2, 0xA0)] base)) 1 = BitVec.ofNat 64 (4000 + 2000 * 2 ^ 32)
    ∧ lastCode (after_ (.maprd 1 2) (withX [(2, 4)] base)) = some 0x0203 ∧ lastCode (after_ (.maprd 1 2) (withX [(2, 0x10000)] base)) = some 0x0102
    ∧ lastCode (after_ (.mapack 2) (withX [(2, 2)] base)) = some 0x0102
    ∧ ((after_ (.mapack 2) (withX [(2, 1)] { base with parts := [{ part1 with acked := 0 }] })).parts.map Partition.acked) = [1] := by
  decide +kernel

/-- The partition with a record in its overflow ring. -/
def ringed : Partition := { part1 with ring := [{ arrival := 0, cycle := 0, source := 64, record := rec4 }] }

theorem witness_LaunchWords :
    issues (.launch 1) launching = true ∧ issues (.launchNb 2 1) launching = true ∧ (readY launching.me.regs 2).length < 8
    ∧ (match readRecordAt (releaseAt launching 4) 0x200 with
       | (w, .ok bs) => (match checkRecord w w.me.task.part bs false with | .ok r => r.extents == [4] && r.limit == 1000 | .error _ => false)
       | _ => false) = true
    ∧ (partOf launching 1).map (fun p => (p.pool.length, p.ring.length)) = some (0, 0)
    ∧ ringed.ring ≠ [] ∧ ringed.ring.length < ringed.cfg.ringSize ∧ 1 ≤ ({ ringed with cfg := { cfg1 with ringSize := 1 } } : Partition).ring.length
    ∧ (launching.me.regs.y.toList.all fun l => l.length < 8) = true
    ∧ 8 ≤ (readY (writeY launching.me.regs 2 (List.replicate 8 0)) 2).length := by decide +kernel

/-- LAUNCH puts a record in the pool; off its alignment; outside the windows; no record (16 R323, 15 R295). -/
theorem test_launch :
    ((after_ (.launch 1) (withX [(1, 0x200)] launching)).parts.map fun p => p.pool.map Pending.source) = [[64]]
    ∧ readY (after_ (.launchNb 2 1) (withX [(1, 0x200)] launching)).me.regs 2 = [1]
    ∧ ((after_ (.launch 1) (withX [(1, 0x200)] { launching with parts := [ringed] })).parts.map fun p => (p.pool.length, p.ring.length)) = [(0, 2)]
    ∧ lastCode (after_ (.launch 1) (withX [(1, 0x240)] launching)) = some 0x0203
    ∧ lastCode (after_ (.launch 1) (withX [(1, inScratch 0)] launching)) = some 0x0204
    ∧ lastCode (after_ (.launch 1) (withX [(1, 0)] launching)) = some 0x0A11 := by decide +kernel

theorem witness_AtomicWords :
    (let s := withX [(1, 0x40)] base
     issues (.amo 0 1 0 1 3 1 2 0 0) s = true ∧ issues (.cas 1 0 1 2 3 1 2 0 0) s = true
     ∧ (checkAtomic s 0 1 0 8).2 = .ok { key := gkey, global := true, ver := none, remote := none } ∧ markOf s gkey = none
     ∧ s.me.lqC = [] ∧ s.me.sqC = [] ∧ s.me.l1 = [] ∧ Memory.wf s.mem = true)
    ∧ (let s := after_ (.amo 0 1 0 1 3 1 2 0 0) (withX [(1, 0x40), (2, 5)] (withC (fun c => { c with defer := [true] }) (sliced .c)))
       s.me.sqC.length = 1 ∧ (s.me.sqC.all fun e => e.atomic.isSome && e.lsn ≤ frontier s.me) = true
       ∧ memField (after_ (.atomic 0) s) gkey 8 = 5) := by decide +kernel

/-- AMO min signed and CAS, equal and unequal; scratch is refused (12 R250, R251). -/
theorem test_atomics :
    (let u := after_ (.amo 4 0 0 1 3 1 2 0 0) (withX [(1, 0x40), (2, 1)] (withMem gkey [0xFF, 0xFF, 0xFF, 0xFF] base))
     memField u gkey 4 = 2 ^ 32 - 1 ∧ xOf u 3 = BitVec.ofNat 64 (2 ^ 32 - 1))
    ∧ memField (after_ (.cas 1 0 1 4 3 1 2 0 0) (withX [(1, 0x40), (2, 9), (4, 8)] (withMem gkey [9] base))) gkey 8 = 8
    ∧ memField (after_ (.cas 1 0 1 4 3 1 2 0 0) (withX [(1, 0x40), (2, 7), (4, 8)] (withMem gkey [9] base))) gkey 8 = 9
    ∧ lastCode (after_ (.amo 0 1 0 1 3 1 2 0 0) (withX [(1, inScratch 8)] base)) = some 0x0202 := by decide +kernel

/-- A load of four bytes of the own scratch waits in LQ(C) for x3. -/
def loadWaits : State :=
  withMem (scratchKey 0 8) [1, 2, 3, 0x84] (withC (fun c => { c with
    lqC := [{ lsn := 0, pc := 0, xd := 3, signed := true, bytes := 4, key := scratchKey 0 8, addr := 0, global := false, mark := none }] }) base)
/-- A store to the key waits in SQ(C). -/
def storeWaits (k : Nat) (gl : Bool) : State :=
  withC (fun c => { c with sqC := [{ lsn := 0, pc := 0, key := k, addr := 0, bytes := [1, 2], global := gl, ver := none, remote := none, atomic := none, mark := none }] }) base
/-- The one write of a copy of a sector: its source still to be read, or its bytes fixed. -/
def copyWrite (read : Bool) : SWrite :=
  { dest := .here (scratchKey 0 64) false, src := if read then [] else [{ key := scratchKey 0 8, len := 4, global := false }],
    bytes := if read then [1, 2, 3, 4] else [], poison := false }
/-- That copy waits in SQ(S). -/
def copyWaits (read : Bool) : State :=
  withC (fun c => { c with sqS := [SCmd.mk 0 .cpy [copyWrite read] 0 none 0 0 0 0 none 0 false] }) (withMem (scratchKey 0 8) [1, 2, 3, 4] base)
/-- A byte of L1. -/
def cached (d : Bool) : State := withC (fun c => { c with l1 := [(gkey, { val := 9, dirty := d, since := 0 })] }) base

theorem witness_QueueSteps :
    (coreOf loadWaits 0).lqC.all (fun e => lqReady (focus 0 loadWaits) e && e.mark.isNone) = true ∧ (coreOf loadWaits 0).lqC.length = 1
    ∧ (coreOf (storeWaits gkey true) 0).sqC.all (fun e => sqReady (focus 0 (storeWaits gkey true)) e && decide (e.lsn ≤ frontier (storeWaits gkey true).me)) = true
    ∧ lateAccess (focus 0 loadWaits) = none ∧ (lateAccess (focus 0 { loadWaits with marks := [(scratchKey 0 0 / 64, .poison)] })).isSome = true
    ∧ (coreOf loadWaits 0).l1.length < 1024 ∧ markOf (copyWaits false) (scratchKey 0 8) = none
    ∧ (coreOf (copyWaits false) 0).sqS.map (fun c => (c.kind, c.writes.map fun w => w.src.length)) = [(.cpy, [1])]
    ∧ (coreOf (copyWaits true) 0).sqS.map (fun c => (c.lsn, c.sent, c.writes.map fun w => w.src.length)) = [(0, 0, [0])] := by decide +kernel

/-- PERFORM writes the register; DEPART leaves dirty bytes or bytes of memory; a copy lands and posts s86; a post fires (11 R212, 12
R232). -/
theorem test_queue_steps :
    xOf (after_ (.perform 0 .c) loadWaits) 3 = BitVec.ofInt 64 (-0x7BFCFDFF)
    ∧ assoc (after_ (.depart 0 .c) (storeWaits gkey true)).me.l1 (gkey + 1) = some { val := 2, dirty := true, since := 0 }
    ∧ memField (after_ (.depart 0 .c) (storeWaits (scratchKey 0 8) false)) (scratchKey 0 8) 2 = 0x0201
    ∧ ((after_ (.perform 0 .s) (copyWaits false)).me.sqS.map fun c => c.writes.map SWrite.bytes) = [[[1, 2, 3, 4]]]
    ∧ memField (after_ (.depart 0 .s) (copyWaits true)) (scratchKey 0 64) 4 = 0x04030201
    ∧ readS (after_ (.depart 0 .s) (copyWaits true)).me.regs 86 = 1
    ∧ readS (after_ (.frontierPost 0) (withC (fun c => { c with posts := [{ eng := .c, lsn := 0, sem := 9, late := true }] }) base)).me.regs 9 = 1 := by
  decide +kernel

theorem witness_CacheWork :
    Memory.wf (cached true).mem = true ∧ 64 * (gkey / 64) < 2 ^ 40 ∧ keyDie gkey = coreDie (coreOf base 0).id ∧ markOf base (64 * (gkey / 64)) = none
    ∧ keyDie gkey ≠ 1 ∧ 0 < rvCap base 1 ∧ (cached true).me.l1.length < 1024 ∧ (cached false).me.l1.all (fun e => e.2.dirty == false) = true ∧ (cached true).me.l1.all (fun e => e.2.dirty) = true := by
  decide +kernel

/-- A dirty byte is written back and stays clean; only clean sectors drop; a fill; a remote view of the other die (11 R212). -/
theorem test_cache :
    (let u := after_ (.writeback 0 (gkey / 64) 0xFFFF) (cached true)
     cellGet u.mem gkey = 9 ∧ assoc u.me.l1 gkey = some { val := 9, dirty := false, since := 0 })
    ∧ (after_ (.drop 0 (gkey / 64)) (cached false)).me.l1 = [] ∧ (after_ (.drop 0 (gkey / 64)) (cached true)).me.l1.length = 1
    ∧ assoc (after_ (.fill 0 (gkey / 64)) (withMem (gkey + 1) [7] base)).me.l1 (gkey + 1) = some { val := 7, dirty := false, since := 0 }
    ∧ rvGet (after_ (.rvfill 1 (gkey / 64)) (withMem (64 * (gkey / 64)) [7] base)) 1 (gkey / 64) = some 7 := by decide +kernel

/-- A stream word with a q register, dimensions and register numbers. -/
def sw (a b c : BitVec 6) : SWord := { s0 with xa := a, xb := b, xc := c }
/-- The stream slice's channel values: XA from ch1, XB from ch2, XC from ch3. -/
def withABC (a b c : Nat) (s : State) : State := withX [(1, BitVec.ofNat 64 a), (2, BitVec.ofNat 64 b), (3, BitVec.ofNat 64 c)] s

/-- A pattern of two entries bound to q0 with nothing read of its first entry, and with its eight sectors begun. -/
def boundQ : State := after_ (.sbind (sw 1 2 3)) (withABC 0 8 1 base)
def readingQ : State := after_ (.qEntryFetch 0 0) boundQ

theorem witness_BindingWords :
    issues (.sbind (sw 1 2 3)) (withABC 0 8 0 base) = true ∧ sValues (withABC 0 8 0 base) [1, 2, 3] = some [0, 8, 0]
    ∧ (match (checkRuns (withABC 0 8 0 base) (runs 0 512) false).2 with | .ok _ => true | _ => false) = true
    ∧ issues (.sunbind (sw 0 0 0)) base = true
    ∧ (coreOf boundQ 0).run = .running ∧ ((coreOf boundQ 0).str.q.getD 0 .unbound).kind = .sbind
    ∧ ((coreOf boundQ 0).str.q.getD 0 .unbound).part = [] ∧ qTotal ((coreOf boundQ 0).str.q.getD 0 .unbound) = 2
    ∧ (match (readOpen (focus 0 boundQ) 0 [] (runs 0 512)).2 with | .ok ps => ps.any unread | .error _ => false) = true
    ∧ ((coreOf readingQ 0).str.q.getD 0 .unbound).part.length = 8
    ∧ ((partNext (focus 0 readingQ) 0 ((coreOf readingQ 0).str.q.getD 0 .unbound).part).2.any unread) = true
    ∧ ¬ vectorLags base ∧ vectorLags (withC (fun c => { c with flow := { c.flow with lsn := 2 } }) (sliced .s)) := by
  unfold vectorLags
  decide +kernel

/-- SBIND binds, and refuses bits beyond its dimension and a base off 64; a pattern's entries; a fetch (12 R233, R235). -/
theorem test_bindings :
    lastCode (after_ (.sbind (sw 1 2 3)) (withABC 0 0x10000 0 base)) = some 0x0102
    ∧ lastCode (after_ (.sbind (sw 1 2 3)) (withABC 8 0 0 base)) = some 0x0203
    ∧ (let u := after_ (.sbind (sw 1 2 3)) (withABC 0 8 1 base)
       entryAddr (qOf u 0) 1 = 512 ∧ qTotal (qOf u 0) = 2
       ∧ (qOf (after_ (.qEntryFetch 0 0) u) 0).part.length = 8
       ∧ (qOf (after_ (.sunbind (sw 0 0 0)) u) 0).kind = .unbound) := by decide +kernel

theorem witness_GathersAndMetadata :
    issues (.sgather { sw 1 2 0 with mode := 2 }) (withABC 0 0 0 base) = true ∧ issues (.sscatter { sw 1 2 0 with mode := 2 }) (withABC 0 0 0 base) = true
    ∧ (match (readIndices (withABC 0 0 0 base) 0 1).2 with | .ok l => l == [0] | .error _ => false) = true
    ∧ issues (.smeta (sw 1 2 0)) (withABC 0 1 0 base) = true ∧ sValues (withABC 0 1 0 base) [1, 2] = some [0, 1] := by decide +kernel

/-- A gather with its index, a pair outside the scratch; a metadata run, a count of 0, and the fetch of its entry (12 R237, R238). -/
theorem test_gathers :
    (qOf (after_ (.sgather { sw 1 2 0 with mode := 2 }) (withABC 0 16 0 (withMem (scratchKey 0 16) [3] base))) 0).idx = [3]
    ∧ lastCode (after_ (.sgather { sw 1 2 0 with mode := 2 }) (withABC 0 (2 ^ 32 + 2 ^ 20 - 4) 0 base)) = some 0x0204
    ∧ lastCode (after_ (.smeta (sw 1 2 0)) (withABC 0 0 0 base)) = some 0x0102
    ∧ (mqOf (after_ (.smeta (sw 1 2 0)) (withABC 64 2 0 base)) 0).runs = [{ addr := 64, count := 2, popped := 0, hands := [] }] := by decide +kernel

/-- Slot 0 of the kernel: one stage of 4 KiB at offset 4096. -/
def slotted (s : State) : State := withC (fun c => { c with slots := [{ slot := 0, off := 4096, size := 4096, stages := 1 }] }) s

theorem witness_StageAndCopyWords :
    issues (.sld (sw 1 0 0)) (slotted (withABC 0 0 0 base)) = true ∧ issues (.sst (sw 1 0 0)) (slotted (withABC 0 0 0 base)) = true
    ∧ stageAddr (slotted base) 0 0 4096 = some (0xF0 * 2 ^ 56 + 4096) ∧ stageAddr base 0 0 4096 = none
    ∧ issues (.cpy (sw 1 2 3)) (withABC 0 64 16 base) = true ∧ issues (.stage (sw 1 2 3)) (withABC 0 64 16 base) = true
    ∧ (match (checkRuns base [(64, 16)] false).2 with | .ok [(64, 16, a)] => a.remote == none | _ => false) = true := by decide +kernel

/-- A copy within a sector joins SQ(S) with one write; STAGE outside the staging window; an undeclared stage (12 R236, R240). -/
theorem test_copies :
    ((after_ (.cpy (sw 1 2 3)) (withABC 0 64 16 base)).me.sqS.map fun c => (c.kind, c.writes.length)) = [(.cpy, 1)]
    ∧ lastCode (after_ (.stage (sw 1 2 3)) (withABC 0 64 16 base)) = some 0x0204
    ∧ lastCode (after_ (.sld (sw 1 0 0)) (withABC 0 0 0 base)) = some 0x0102
    ∧ lastCode (after_ (.cpy (sw 1 2 3)) (withABC 0 64 (2 ^ 32) base)) = some 0x0102 := by decide +kernel

theorem witness_OtherCopies :
    issues (.cpymc (sw 1 2 3)) (withABC 64 0 3 crewed) = true ∧ issues (.cpyr { sw 1 2 3 with mode := 0 }) (withABC 0 64 64 base) = true
    ∧ issues (.cpyf (sw 1 2 3)) (withABC 0 64 (3 * 2 ^ 32 + 16) base) = true
    ∧ (match (checkRuns crewed (runs 0 4096) false).2 with | .ok l => l.length == 64 && l.all fun r => r.2.2.remote.isNone | _ => false) = true := by
  decide +kernel

/-- CPYMC to two receivers and to one that runs no member; CPYR into scratch; CPYF to module 3 (12 R241-R243). -/
theorem test_other_copies :
    ((after_ (.cpymc (sw 1 2 3)) (withABC 64 0 3 crewed)).me.sqS.map fun c => c.writes.length) = [128]
    ∧ lastCode (after_ (.cpymc (sw 1 2 3)) (withABC 64 0 4 crewed)) = some 0x0204
    ∧ lastCode (after_ (.cpyr (sw 1 2 3)) (withABC (0xF0 * 2 ^ 56) 64 64 base)) = some 0x0202
    ∧ ((after_ (.cpyf (sw 1 2 3)) (withABC 0 64 (3 * 2 ^ 32 + 16) base)).me.sqS.map fun c => c.writes.map SWrite.dest) = [[.away 3 0 none]] := by
  decide +kernel

theorem witness_ChecksumAndBlockWords :
    issues (.ckrdRead { sw 4 0 0 with ckr := 1 }) base = true ∧ ckPending base 1 = false ∧ issues (.ckrdLoad { sw 1 0 0 with ckr := 1, mode := 1 }) base = true
    ∧ issues (.spf (sw 1 0 3)) (withABC 0 0 64 base) = true ∧ issues (.gpush (sw 1 2 0)) (withABC 0 0 0 base) = true
    ∧ issues (.ckrdRead { sw 0x21 0 0 with ckr := 1 }) (sliced .s) = true := by decide +kernel

/-- CKRD both ways, SPF, and a block sent from an address off 64 (12 R246-R248). -/
theorem test_checksum_words :
    xOf (after_ (.ckrdRead { sw 4 0 0 with ckr := 1 }) (withR (fun r => writeCk r 1 77) base)) 4 = 77
    ∧ readCk (after_ (.ckrdLoad { sw 1 0 0 with ckr := 1, mode := 1 }) (withABC (2 ^ 32 + 5) 0 0 base)).me.regs 1 = 5
    ∧ (after_ (.spf (sw 1 0 3)) (withABC 0 0 64 base)).me.flow.lsn = 1
    ∧ lastCode (after_ (.gpush (sw 1 2 0)) (withABC 8 0 0 base)) = some 0x0203 := by decide +kernel

/-- Vector words of type `ty` to v8 with one, two and three sources v0, v1, v2. -/
def vw1 (ty : BitVec 6) : VWord := { v0 with dst := 8, ty := ty }
def vw2 (ty : BitVec 6) : VWord := { vw1 ty with sb := 1 }
def vw3 (ty : BitVec 6) : VWord := { vw2 ty with sc := 2 }
/-- Elements 0 and 1 of v0, v1 and v2 as 32-bit patterns, VL 2. -/
def withV (a b c : List Nat) : State :=
  let vec (l : List Nat) : VecWord := BitVec.ofNat 4096 (l.getD 0 0 + 2 ^ 32 * l.getD 1 0)
  withC (fun k => { k with csr := { k.csr with vl := 2 } }) (withR (fun r => writeV (writeV (writeV r 0 (vec a)) 1 (vec b)) 2 (vec c)) base)
/-- Element `i` of v8. -/
def v8 (w i : Nat) (s : State) : Nat := getElem (readV s.me.regs 8) w i

theorem witness_VectorFloats :
    [Instr.vadd (vw2 0), .vsub (vw2 0), .vmul (vw2 0), .vfma (vw3 0), .vfms (vw3 1), .vfnma (vw3 2), .vmin (vw2 0), .vmax (vw2 0),
     .vabs (vw1 0), .vneg (vw1 0), .vdiv (vw2 0), .vsqrt (vw1 0), .vexp2 (vw1 0), .vlog2 (vw1 0), .vrsq (vw1 0), .vscale (vw2 0),
     .vclass (vw1 0)].all (issues · base) = true
    ∧ qChecks base (vw2 0) [] true true = none ∧ dstRoom base (vw2 0) true = true ∧ roundMode base 0 = some 0
    ∧ vlOf base ≠ 0 ∧ (qReadyAll (List.range 16) base (vw2 0) (twoSrcs (vw2 0))).2 = none
    ∧ issues (.vadd { vw2 0 with rnd := 5 }) (withC (fun c => { c with csr := { c.csr with rmode := 5 } }) base) = true
    ∧ roundMode (withC (fun c => { c with csr := { c.csr with rmode := 5 } }) base) 5 = none := by decide +kernel

/-- 1.5 + 2.25, 1.5 * -2 + 4, a third rounded to nearest, an exact root, the class of -0, 2^3, log2 8 (09 R169). -/
theorem test_vector_floats :
    v8 32 0 (after_ (.vadd (vw2 0)) (withV [0x3FC00000] [0x40100000] [])) = 0x40700000
    ∧ v8 32 1 (after_ (.vfma (vw3 0)) (withV [0, 0x3FC00000] [0, 0xC0000000] [0, 0x40800000])) = 0x3F800000
    ∧ v8 32 0 (after_ (.vdiv (vw2 0)) (withV [0x3F800000] [0x40400000] [])) = 0x3EAAAAAB
    ∧ v8 32 0 (after_ (.vsqrt (vw1 0)) (withV [0x40800000] [] [])) = 0x40000000
    ∧ v8 32 0 (after_ (.vclass (vw1 0)) (withV [0x80000000] [] [])) = 16
    ∧ v8 32 0 (after_ (.vexp2 (vw1 0)) (withV [0x40400000] [] [])) = 0x41000000
    ∧ v8 32 0 (after_ (.vlog2 (vw1 0)) (withV [0x41000000] [] [])) = 0x40400000 := by decide +kernel

theorem witness_VectorElements : (8 : Nat) ∈ [4, 8, 16, 32] ∧ 2 ≤ 4096 / 8 ∧ opFile (vw2 0).dst = 0 ∧ regAt (vw2 0) (vw2 0).dst 3 0 < 32
    ∧ opFile 0x40 = 1 ∧ opFile 0x80 = 2 := by decide +kernel

theorem witness_VectorIntegers :
    [Instr.viadd (vw2 6), .visub (vw2 6), .vimul (vw2 6), .vimad (vw3 6), .vand (vw2 10), .vor (vw2 10), .vxor (vw2 10), .vshl (vw2 10),
     .vshr (vw2 10), .vsar (vw2 6), .vimin (vw2 6), .vimax (vw2 10), .vhash (vw2 10)].all (issues · base) = true := by decide +kernel

/-- A sum that wraps, a product taken low, shifts by the width, the least by sign, one hash round (09 R172, R173). -/
theorem test_vector_integers :
    v8 32 0 (after_ (.viadd (vw2 6)) (withV [0xFFFFFFFF] [2] [])) = 1
    ∧ v8 32 0 (after_ (.vimul (vw2 10)) (withV [0x10001] [0x10001] [])) = 0x20001
    ∧ v8 32 0 (after_ (.vshl (vw2 10)) (withV [1] [32] [])) = 0
    ∧ v8 32 0 (after_ (.vsar (vw2 6)) (withV [0x80000000] [40] [])) = 0xFFFFFFFF
    ∧ v8 32 0 (after_ (.vimin (vw2 6)) (withV [0xFFFFFFFF] [1] [])) = 0xFFFFFFFF
    ∧ v8 32 0 (after_ (.vhash (vw2 10)) (withV [0] [0] [])) = 0 := by decide +kernel

theorem witness_ComparesAndConversions :
    [Instr.vcmpOrdered { vw2 0 with dst := 3 }, .vcmpUnordered { vw2 0 with dst := 3 }, .vicmp { vw2 6 with dst := 3 }, .vsel (vw2 10), .vred (vw1 0),
     .vscan (vw1 0), .vcvt { vw1 1 with sc := 0 }, .vpack { vw2 1 with sc := 0 }, .vunpk { vw1 0 with sc := 1 }].all
      (issues · base) = true := by decide +kernel

/-- Lanes of a compare, a sum of a tree, FP32 to FP16 (09 R170, R174, R175). -/
theorem test_compares_and_conversions :
    readP (after_ (.vcmpOrdered { vw2 0 with dst := 3, imm := 2 }) (withV [0x3F800000, 0x40000000] [0x40000000, 0x3F800000] [])).me.regs 3 = 1
    ∧ v8 32 0 (after_ (.vred (vw1 6)) (withV [5, 7] [] [])) = 12
    ∧ v8 16 0 (after_ (.vcvt { vw1 1 with sc := 0 }) (withV [0x3FC00000] [] [])) = 0x3E00 := by decide +kernel

theorem witness_VectorMoves :
    [Instr.vperm (vw2 10), .vbcast (vw2 10), .viota (vw1 10), .vmov (vw1 10), .vdot4 (vw2 6)].all (issues · base) = true := by decide +kernel

/-- VPERM past the end gives 0, VIOTA counts (09 R177). -/
theorem test_vector_moves :
    v8 32 0 (after_ (.vperm (vw2 10)) (withV [5, 6] [1, 128] [])) = 6 ∧ v8 32 1 (after_ (.vperm (vw2 10)) (withV [5, 6] [1, 128] [])) = 0
    ∧ v8 32 1 (after_ (.viota (vw1 10)) (withV [5] [] [])) = 6
    ∧ v8 32 0 (after_ (.vdot4 (vw2 6)) (withV [0x01FF0203] [0x01020304] [])) = 17 := by decide +kernel

theorem witness_MatrixWords :
    issues (.mma { m0 with aoff := 0, apitch := 4, boff := 0x200, bpitch := 2, afmt := 2, bfmt := 2 }) base = true
    ∧ regionCheck { m0 with aoff := 0, apitch := 4, boff := 0x200, bpitch := 2, afmt := 2, bfmt := 2 }
        (mmaStep { m0 with aoff := 0, apitch := 4, boff := 0x200, bpitch := 2, afmt := 2, bfmt := 2 } false) = none
    ∧ badRows base (repRegions { m0 with aoff := 0, apitch := 4, boff := 0x200, bpitch := 2, afmt := 2, bfmt := 2 }
        (mmaStep { m0 with aoff := 0, apitch := 4, boff := 0x200, bpitch := 2, afmt := 2, bfmt := 2 } false) 0) = none
    ∧ issues (.mzero { m0 with cidx := 3 }) base = true ∧ issues (.mflag { m0 with cidx := 3, xd := 4 }) base = true
    ∧ issues (.mscale { m0 with cidx := 3, fscale := 0x3F800000 }) base = true
    ∧ base.soft = [] ∧ (readA base.me.regs 0).err = .clean ∧ (readA base.me.regs 3).err = .clean := by decide +kernel

/-- MZERO clears the flags MFLAG reads; a region past the scratch (10 R189, R196, R199). -/
theorem test_matrix_words :
    (let s := withR (fun r => writeA r 3 { valid := true, suspect := true, err := .clean, elems := [] }) base
     xOf (after_ (.mflag { m0 with cidx := 3, xd := 4 }) s) 4 = 3
     ∧ xOf (after_ (.mflag { m0 with cidx := 3, xd := 4 }) (after_ (.mzero { m0 with cidx := 3 }) s)) 4 = 0)
    ∧ lastCode (after_ (.mma { m0 with aoff := 0x3FFF, apitch := 4, boff := 0x200, bpitch := 2, afmt := 2, bfmt := 2 }) base) = some 0x0204 := by
  decide +kernel

/-- A record waits in the partition's pool. -/
def pooled : State := { launching with cycles := 4000, parts := [{ part1 with pool := [{ arrival := 0, cycle := 0, source := 64, record := rec4 }] }] }
/-- Launch 5 is accepted, and core 0 is free. -/
def accepted (f : Launch → Launch) : State := { launching with me := Core.idle 0, launches := [f launch5] }
/-- Its first task is bound. -/
def bound1 : State := accepted fun l => { l with next := 1, bound := [{ serial := 0, handles := [], bindErr := false }] }
/-- Its first task is dispatched to core 0. -/
def dispatched : State := after_ (.taskDispatch [0]) bound1

theorem witness_LaunchBinding :
    (match checkRecord launching 1 record4 false with | .ok r => r.extents == [4] | .error _ => false) = true
    ∧ (match checkRecord launching 1 [] false with | .ok _ => false | .error _ => true) = true
    ∧ (partOf pooled 1).map (fun p => (p.pool.map Pending.source, p.queues.length)) = some ([64], 0)
    ∧ (let p (tm so ar : Nat) : Pending := { arrival := ar, cycle := tm, source := so, record := rec4 }
       arrivesFirst (p 1 64 0) (p 2 3 1) ∧ arrivesFirst (p 2 3 1) (p 2 64 0) ∧ arrivesFirst (p 2 3 0) (p 2 3 1))
    ∧ 0 < uncore pooled ∧ taskCount rec4 = 4 ∧ rec4.rtiles = [] ∧ rec4.wtiles = []
    ∧ (match chooseOn bound1 0 with | some (l, .start bs) => l.id == 5 && bs.length == 1 && freeCore bound1 l 0 | _ => false) = true := by
  unfold arrivesFirst
  decide +kernel

/-- A submission, an acceptance, a binding, a dispatch (15 R295-R304). -/
theorem test_launch_binding :
    ((after_ (.launchQueueSubmit 1 3 record4) launching).parts.map fun p => p.queues.map Pending.source) = [[3]]
    ∧ ((after_ (.launchQueueSubmit 1 3 []) launching).events.length) = 1
    ∧ ((after_ (.launchAccept 1 64) pooled).launches.map fun l => (l.id, l.next)) = [(2 ^ 64 + 64 * 2 ^ 56 + 1, 0)]
    ∧ ((after_ (.taskBind 5) (accepted id)).launches.map fun l => (l.next, l.bound.map Bound.serial)) = [(1, [0])]
    ∧ dispatched.me.run = .starting ∧ dispatched.me.task.serial = 0 ∧ (dispatched.launches.map fun l => l.bound.length) = [0] := by
  decide +kernel

/-- An object of the kernel `kern` alone, its text behind the header. -/
def object1 (m v : Nat) : CodeObject :=
  { image := bytesOf 4 m ++ bytesOf 2 v ++ bytesOf 2 1 ++ List.replicate 8 0 ++ bytesOf 8 64 ++ bytesOf 8 132 ++ bytesOf 8 132
      ++ List.replicate 24 0 ++ kern.units.flatMap fun u => bytesOf 4 u.toNat,
    dir := [{ name := 0, off := 64, len := 17, slots := [], breaks := [], emulate := false }], data := [], got := [], launches := [] }
/-- With a data object for the stack window. -/
def object2 : CodeObject :=
  { object1 0x314F594B 1 with
    image := (object1 0x314F594B 1).image ++ [1, 2, 3, 4], data := [{ place := .stack, align := 64, off := 0, len := 4, refs := [] }] }
/-- The partition has neither banks nor ranges. -/
def noRooms : State := { base with parts := [{ part1 with cfg := { cfg1 with banks := [], ranges := [] } }] }

theorem witness_TasksAndCode :
    dispatched.me.run = .starting ∧ (launchOf dispatched 5).isSome = true ∧ dispatched.me.task.bindErr = false
    ∧ Settled dispatched.me ∧ Memory.wf dispatched.mem = true ∧ CoresOnce dispatched ∧ startsLater dispatched dispatched.me.task = false
    ∧ (startersOf dispatched dispatched.me.task).map Core.id = [0]
    ∧ (match kernelOf dispatched 1 rec4.kernel.toNat with | some x => x.kernel == kern | none => false) = true
    ∧ startsLater { dispatched with others := [{ dispatched.me with id := 1, task := { dispatched.me.task with serial := 1, crew := 1 } }] }
        { dispatched.me.task with serial := 1, crew := 1 } = true
    ∧ (launchOf (accepted fun l => { l with exited := 4 }) 5).map (fun l => l.exited + l.killed + l.cancelled) = some 4
    ∧ (let o := object1 0x314F594B 1
       objectWhole o = true ∧ (objHeader o.image).objver = 1 ∧ (objHeader o.image).reserved = false ∧ (placeObjs launching 1 o).2 = []
       ∧ (takeGlobal (placeObjs launching 1 o).1 1 0 64).2 ≠ none
       ∧ (placeKernels (takeGlobal (placeObjs launching 1 o).1 1 0 64).1 1 o).2.map (fun r => (r.1, match r.2 with | .ok _ => true | _ => false))
          = [(0, true)])
    ∧ objectWhole object2 = true ∧ (placeObjs noRooms 1 object2).2 = [none] ∧ (takeGlobal noRooms 1 8 64).2 = none := by
  unfold Settled CoresOnce
  decide +kernel

/-- A task starts; a launch ends; a code object is loaded or refused (02 R32, 04 R70, 15 R298). -/
theorem test_tasks_and_code :
    (let u := after_ (.taskStart 0) dispatched
     u.me.run = .running ∧ u.me.form = .slices ∧ u.me.code.toList.map List.length = kernSliced.code.toList.map List.length
     ∧ u.me.csr.vl = 512 ∧ u.me.csr.cycleft = 1000 ∧ xOf u 7 = 0 ∧ xOf u 1 = 0 ∧ u.me.text.length = 17)
    ∧ ((after_ (.launchComplete 5) (accepted fun l => { l with exited := 4 })).launches.map Launch.done) = [true]
    ∧ (after_ (.launchComplete 5) (accepted fun l => { l with exited := 3 })).events = []
    ∧ (after_ (.loadCodeObject 1 (object1 0 1)) base).hostOut = [.refused 0x0A01]
    ∧ (after_ (.loadCodeObject 1 (object1 0x314F594B 2)) base).hostOut = [.refused 0x0A02]
    ∧ (after_ (.loadCodeObject 1 object2) noRooms).hostOut = [.notPlaced 1 0]
    ∧ ((after_ (.loadCodeObject 1 (object1 0x314F594B 1)) base).kernels.map Loaded.part) = [1]
    ∧ (after_ (.granuleArrival 0 .c 2) (withC (fun c => { c with absent := [(.c, 2), (.s, 2)] }) base)).me.absent = [(.s, 2)] := by
  decide +kernel

/-- ADDI, VADD, TEXIT: slice C takes the first two positions of three in one word, slice V fills the first and the last with VNOP, the
last DELTA 0 with END; S and M stay empty (14 R282, R285). -/
theorem test_slicer :
    (match sliceKernel { kern with units := [0x20041001, 0xA0008000, 0x10000000, 0, 0x58000000] } with
      | .ok d => d.code.toList == [[0x20041001, 0x58000000], [], [0xBE300000, 0, 0, 0xA0008000, 0x10000000, 0, 0xBE300000, 0, 0], []]
          && d.anns.toList == [[2, 0x8000], [], [0x4001, 0, 0, 1, 0, 0, 0xC000, 0, 0], []]
      | .error _ => false) = true := by decide +kernel

/-- A slice-only form in logical text, and a semaphore of the slicer's own, are refused (14 R278). -/
theorem test_slicer_refuses :
    (match sliceKernel { kern with units := [0xBE300000, 0, 0x4000, 0x58000000] } with | .ok _ => 0 | .error c => c) = 0x0A04
    ∧ (match sliceKernel { kern with units := [0x62C00001, 0x58000000] } with | .ok _ => 0 | .error c => c) = 0x0A03 := by
  decide +kernel

/-- The task on core 0 has been stopped for a cause. -/
def stopped (c : StopCause) : State := after_ (.rebuild 0 c) { accepted id with me := { core0 with stops := [stopOf c] } }
/-- The image of a task that class 0 took its core from, assigned to core 0. -/
def assigned (f : Launch → Launch) : State :=
  let s := stopped .class0
  { s with saved := s.saved.map (fun v => { v with onCore := some 0 }), launches := s.launches.map f }
/-- Launch 6 of class 0 with PRE finds its one cluster's one core with a task of launch 5. -/
def preempting : State :=
  { launching with
    rmap := { launching.rmap with cores := 1 },
    launches := [{ launch5 with record := { rec4 with cls := 2 } },
                 { launch5 with id := 6, next := 1, record := { rec4 with cls := 0, pre := true },
                                bound := [{ serial := 0, handles := [], bindErr := false }] }] }

theorem witness_StopsAndResumes :
    CoresOnce base ∧ base.me.fault = none ∧ base.me.csr.cycleft ≠ 0 ∧ base.me.run = .running ∧ Settled base.me
    ∧ (coreOfTask (stopped .debug) 5 2).map (fun c => (c.run, isFirst c c.flow.pc.toNat, noTransit c)) = some (.halted 0 true, true, true)
    ∧ (savedOf (stopped .class0) 5 2).map (fun v => (v.cause, v.onCore, v.release)) = some (.class0, none, false)
    ∧ coreOfTask (stopped .class0) 5 2 = none ∧ (coreOf (assigned id) 0).run = .idle
    ∧ (match savedOf (assigned id) 5 2 with
        | some v => v.onCore == some 0 && v.cause == .class0 && mayResume (assigned id) v 0 && isFirst v.core v.core.flow.pc.toNat && v.sound
            && resumesNow (assigned id) v && v.raised.isNone && Memory.wf v.scratch
        | none => false) = true
    ∧ (match savedOf (assigned id) 5 2 with
        | some v => !mayResume (assigned fun l => { l with held := true }) v 0 | none => false) = true
    ∧ (let l : Launch := (launchOf preempting 6).getD launch5
       l.record.cls = 0 ∧ l.record.pre = true ∧ fitsSome preempting l = false ∧ choosesLater preempting l = false
       ∧ 0 ∈ clustersFor preempting l ∧ unreserved preempting 0 = true ∧ (victimsFor preempting l 0).isSome = true)
    ∧ headerEdit (.pc 4) = true ∧ headerEdit (.x 3 9) = false := by
  unfold CoresOnce Settled
  decide +kernel

/-- A halt is asked for, applied, and released; an edit; a saved task on its core; a victim of class 0; an expired limit (15 R307, R309,
18 R347, R360). -/
theorem test_stops :
    (after_ (.debugHalt 0) base).me.stops = [.debugger] ∧ (stopped .debug).me.run = .halted 0 true
    ∧ (let u := after_ (.debugRelease 5 2) (stopped .debug)
       u.saved = [] ∧ u.me.run = .running ∧ u.me.task.serial = 2 ∧ u.me.stepTo = none)
    ∧ (after_ (.debugSingleStep 5 2) (stopped .debug)).me.stepTo = some 1
    ∧ readX (after_ (.debugImageEdit 5 2 (.x 3 9)) (stopped .debug)).me.regs 3 = 9
    ∧ (after_ (.taskResume 5 2 0) (assigned id)).me.run = .running ∧ (after_ (.class0Preemption 6) preempting).me.stops = [.class0]
    ∧ lastCode (after_ (.cycleLimitExpiry 0) (withC (fun c => { c with csr := { c.csr with cycleft := 0 }, granted := true }) base)) = some 0x0701 := by
  decide +kernel

theorem witness_HostControl :
    (partOf base 1).map Partition.evicted = some false ∧ (coreOfTask base 5 2).map Core.run = some .running ∧ CoresOnce base
    ∧ (launchOf (accepted id) 5).map Launch.done = some false := by
  unfold CoresOnce
  decide +kernel

/-- An eviction asks the partition's tasks; a kill frees the core; a held launch goes on (13 R273, 17 R329). -/
theorem test_host_control :
    (after_ (.partitionEviction 1) base).me.stops = [.evicted]
    ∧ (after_ (.hostKill (.task 5 2)) base).me.run = .idle
    ∧ ((after_ (.hostKill (.launch 5)) (accepted id)).launches.map fun l => (l.next, l.bound.length)) = [(4, 0)]
    ∧ (after_ (.hostKill (.context 2)) base).me.run = .running
    ∧ ((after_ (.heldLaunchResume 5) (accepted fun l => { l with held := true })).launches.map Launch.held) = [false] := by decide +kernel

/-- A unit of this module. -/
def unitOn (k i : Nat) : UnitId := { kind := k, module := 0, die := 0, index := i }
/-- An image that the boot ROM accepts. -/
def goodImage : FwImage := { magic := 0x46574B59, secver := 2, len := 64, keyDigest := 0, sigOk := true, digest := 9 }
/-- The module with port 3 trained. -/
def withPort (f : Port → Port) : State :=
  { base with rmap := { base.rmap with ports := 8 },
              ports := [(3, f { next := 5, got := 2, nak := false, owes := false, replay := [], credit := 10, grant := 0, sending := [] })] }
/-- Partition 1 has its window, run out. -/
def windowOut (p : Partition → Partition) : State :=
  { base with parts := [p { part1 with acked := 0, window := some 0 }] }
/-- A die whose firmware is being replaced. -/
def quietDie : State := { base with quiet := [(0, 5)], rmap := { base.rmap with cores := 0 } }

/-- The partition's table maps one page of 64 KiB, at the start of channel 1. -/
def paged : State :=
  let put (pa e : Nat) (s : State) : State := withMem ((partKey part1 pa).getD 0) (bytesOf 8 e) s
  put 0 0x10001 (put 0x10000 0x20001 (put 0x20000 0x38000003 base))

theorem witness_MapEvents :
    moves base (changeOf (unitOn 1 12) false) = true ∧ moves base (changeOf (unitOn 1 (4 * 384)) false) = false
    ∧ causeOk base 4 none (.clock 3750) = true ∧ causeOk base 4 none (.module 3 true) = false
    ∧ (movePages base []).2 = true ∧ moves base (.channel 0 3 false) = true
    ∧ moves { base with rmap := { base.rmap with channels := 0 } } (.channel 0 3 true) = true
    ∧ moves (withPort id) (.port 3 false) = true ∧ inUse (withPort id) (.port 3 false) = false ∧ moves base (.port 3 true) = true
    ∧ moves base (.module 3 false) = true ∧ moves { base with rmap := { base.rmap with gone := [3] } } (.module 3 true) = true
    ∧ unitExists (unitOn 1 12) = true ∧ unitExists (unitOn 9 5) = false ∧ unitExists (unitOn 5 3) = true
    ∧ moves base (changeOf (unitOn 5 3) false) = true ∧ holdsPage base 3 = false ∧ holdsPage paged 1 = true ∧ holdsPage paged 2 = false
    ∧ moves paged (changeOf (unitOn 5 1) false) = true
    ∧ imageOk quietDie goodImage = true ∧ quietDie.stage = .ready
    ∧ (partOf (windowOut id) 1).map Partition.window = some (some 0) ∧ (windowOut id).rmap.version = 1
    ∧ (partOf (windowOut fun p => { p with suspended := true }) 1).map Partition.suspended = some true := by decide +kernel

/-- A failed core, a channel and a port that leave, a module that joins, a die's new firmware, a window (20 R374-R383). -/
theorem test_map_events :
    (let u := after_ (.unitFailure (unitOn 1 12)) base
     u.rmap.version = 2 ∧ u.rmap.cause = 1 ∧ u.rmap.cores.getLsbD 3 = false ∧ u.rmap.cores.getLsbD 4 = true)
    ∧ (after_ (.unitFailure (unitOn 1 1)) base).me.run = .idle
    ∧ (let u := after_ (.gddr7ChannelRetraining 0 3 .leave []) base
       u.rmap.cause = 2 ∧ u.rmap.channels.getLsbD 3 = false ∧ u.rmap.unit = some (unitOn 5 3))
    ∧ (let u := after_ (.unitFailure (unitOn 5 1)) paged
       u.rmap.version = 1 ∧ u.failing = 2 ∧ (after_ (.unitFailure (unitOn 5 2)) paged).rmap.version = 2)
    ∧ (after_ (.unitFailure (unitOn 9 5)) base).rmap.version = 1
    ∧ ((after_ (.rurelPortRetraining 3 .leave) (withPort id)).ports = [])
    ∧ (after_ (.moduleReplacement 3 .leave) base).rmap.gone = [3]
    ∧ (after_ (.dieFirmwareUpdate 0 .back goodImage) quietDie).rmap.cores = 5
    ∧ (let u := after_ (.ackWindowExpiry 1) (windowOut id)
       u.me.stops = [.suspended] ∧ (u.events.map EventMsg.code) = [0x0702])
    ∧ ((after_ (.hostMapAck 1 1) (windowOut fun p => { p with suspended := true })).parts.map fun p => (p.suspended, p.acked)) = [(false, 1)] := by
  decide +kernel

/-- The clock at a speed, with an excursion that began at another. -/
def clocked (f : Nat) (b : Option Nat) : State := { base with rmap := { base.rmap with aclk := f }, power := { base.power with under := b } }
/-- One failed unit of the self-test. -/
def failedCore : SelfTest := { unit := unitOn 1 12, test := .logicScan, detail := 0 }

/-- A bring-up with that core found, at a stage. -/
def bring1 : Machine.BringUp := { bootsel := false, tests := [failedCore], lat := [], romOk := 0xFF, map := none }
def bringing (g : Stage) (m : Option RMap) : State := { State.reset with stage := g, bring := some { bring1 with map := m } }

theorem witness_PowerAndBringUp :
    1 ≤ (clocked 1250 none).rmap.version ∧ 1250 ≤ (clocked 1250 none).rmap.aclk ∧ (clocked 1249 none).rmap.aclk < 1250
    ∧ (clocked 3750 (some 4000)).rmap.aclk + 250 ≤ 4000 ∧ 4000 < (clocked 3751 (some 4000)).rmap.aclk + 250
    ∧ base.power.on = true ∧ base.power.noticed = false
    ∧ State.reset.power.on = true ∧ State.reset.stage = .reset ∧ State.reset.power.stopped = false
    ∧ (bringing .boot none).stage = .boot ∧ (bringing .boot none).sched = [] ∧ (bringing .boot none).inbox = []
    ∧ (testedMap (bringing .selftest none) [failedCore]).mgmt &&& bring1.romOk ≠ 0
    ∧ (testedMap (bringing .selftest none) [failedCore]).mgmt &&& 0 = 0
    ∧ foundHere (bringing .selftest none) [failedCore] = [failedCore]
    ∧ imageOk State.reset State.reset.flash.die = true ∧ imageOk State.reset { goodImage with sigOk := false } = false
    ∧ (bringing .selftest (some RMap.none)).rmap.version = 0
    ∧ (State.reset.flash.slotA.map (imageOk State.reset)) = some true ∧ State.reset.flash.slotB = none
    ∧ ({ State.reset.flash with slotA := none } : Flash).slotA = none
    ∧ ({ base with flash := { base.flash with booted := some false } } : State).flash.booted = some false := by decide +kernel

/-- Clock steps at their edges, dips and failures, bring-up with a failed core, the recovery image (01 R16-R22, 22 R403-R406). -/
theorem test_power :
    (after_ .thermalClockStep (clocked 1250 none)).rmap.aclk = 1000 ∧ (after_ .thermalClockStep (clocked 1249 none)).rmap.aclk = 1249
    ∧ (after_ (.undervoltClockStep 43999) base).rmap.aclk = 3750 ∧ (after_ (.undervoltClockStep 44000) base).rmap.aclk = 4000
    ∧ (after_ .undervoltRecoveryStep (clocked 3750 (some 4000))).rmap.aclk = 4000
    ∧ (after_ (.voltageDip 99) base).stage = .ready ∧ (after_ (.voltageDip 100) base).stage = .failed
    ∧ (after_ (.overvoltageNotify 54001) base).hostOut = [.boardNotice 2] ∧ (after_ (.overvoltageNotify 54000) base).hostOut = [] := by
  decide +kernel

theorem test_bring_up :
    (let u := after_ (.modResetRelease false [failedCore] [] 0xFF) State.reset
     u.stage = .boot ∧ u.rmap.version = 0 ∧ u.bring.isSome = true)
    ∧ (let u := bringStep (bringing .boot none) bring1
       u.stage = .selftest ∧ u.flash.booted = some false)
    ∧ (bringStep (bringing .boot none) { bring1 with bootsel := true }).stage = .recovery
    ∧ (bringStep (bringing .boot none) { bring1 with romOk := 0 }).stage = .failed := by decide +kernel

/-- Self-test takes the core out of the map; version 1 with cause 7; READY (22 R403, R406). -/
theorem test_bring_up_steps :
    (let u := bringStep (bringing .selftest none) bring1
     (u.bring.bind Machine.BringUp.map).map (fun m => (m.cores.getLsbD 3, m.cores.getLsbD 4)) = some (false, true)
     ∧ u.report = [failedCore] ∧ u.hostCnt = [(2, 1)])
    ∧ (let u := bringStep (bringing .selftest (some RMap.none)) { bring1 with map := some RMap.none }
       u.rmap.version = 1 ∧ u.rmap.cause = 7 ∧ u.stage = .selftest)
    ∧ (let s := bringing .selftest (some RMap.none)
       let u := bringStep { s with rmap := { s.rmap with version := 1 } } { bring1 with map := some RMap.none }
       u.stage = .ready ∧ u.bring = none) := by decide +kernel

theorem witness_Management :
    (partOf base 1).isSome = true ∧ errinjOk 0 = true ∧ errinjOk (BitVec.allOnes 64) = false
    ∧ configOk { base with parts := [] } { cfg1 with weight := 255 } = true ∧ configOk { base with parts := [] } cfg1 = false ∧ configOk base cfg1 = false
    ∧ onResource base 1 (.range 0) = true
    ∧ (let s := { base with me := Core.idle 0, parts := [part1, { part1 with cfg := { cfg1 with part := 2, banks := [4] } }] }
       onResource s 1 (.bank 0) = false ∧ namesResource cfg1 (.bank 0) = true ∧ (s.parts.all fun x => x.handler.isNone) = true)
    ∧ ((coreOf { base with me := Core.idle 0 } 0).run = .idle) := by decide +kernel

/-- A counter that a read clears, the error-injection word, a partition made and ended, an invalidation (17 R327-R340, 22 R408). -/
theorem test_management :
    (let u := after_ (.errorCounterRead 1 2) { base with parts := [{ part1 with counters := part1.counters.set 2 7 }] }
     u.hostOut = [.counter 1 2 7] ∧ (u.parts.map fun p => p.counters.getD 2 0) = [0])
    ∧ (after_ (.errinjWrite (BitVec.allOnes 64)) base).hostOut = [.refused 0x0202]
    ∧ (after_ (.mgmtRegisterWrite (.virtualFunction 1) 6 0 0) base).hostOut = [.refused 0x0202]
    ∧ ((after_ (.partitionCreate { cfg1 with weight := 255 }) { base with parts := [] }).parts.map fun p => p.cfg.part) = [1]
    ∧ (after_ (.partitionEnd 1) base).parts = [] ∧ (after_ (.partitionEnd 1) base).tlb = []
    ∧ (after_ (.translationInvalidate 1 0 1) { base with me := Core.idle 0 }).hostOut = [.invalidated 1 0 1]
    ∧ ((after_ (.translationInvalidate 1 0 1) { base with me := Core.idle 0 }).tlb.map TlbEntry.va) = [2 ^ 16]
    ∧ ((after_ (.patrolScrub 9) { base with marks := [(9, .uncorrectable)] }).hostCnt) = [(3, 1)]
    ∧ ((after_ (.patrolScrub 9) { base with soft := [9] }).hostCnt) = [(3, 1)] := by decide +kernel

/-- A flit in sequence on port 3. -/
def flit3 : Flit := { seq := 3, ack := 0, nak := false, kind := 0, cred := 1, crcOk := true, packet := none }
/-- A packet from module 2 with a body. -/
def pk (t : Nat) (b : PacketBody) : Packet :=
  { ptype := t, reserved := false, epoch := false, fpid := 7, key := 3, tagOk := true, src := 2, srcDie := 0, dst := 0, dstDie := 0, xid := 77,
    stamp := 0, body := b }
/-- The same with the type its body has. -/
def pkt (b : PacketBody) : Packet := pk (typeOf b) b
/-- A command that awaits its one acknowledgement. -/
def out1 : Outstanding :=
  { xid := 77, dst := 2, launch := 5, serial := 2, part := 1, path := .s, vers := [], ck := none, ckm := 0, posts := [9], own := [], acks := [],
    total := 1, since := 0, sends := [pkt (.copySector 0 0 [1] false none { base := 0, len := 1, ckm := 0, last := true })] }
/-- A block kept for its home on module 2. -/
def kept : Retained :=
  { tag := 2 ^ 32 * 3 + 1, launch := 5, serial := 2, part := 1, dest := (2, 0), home := none, mirror := false, bytes := [1] }

theorem witness_LinksAndResends :
    (assoc (withPort id).ports 3).map (fun p => (p.got, p.credit)) = some (2, 10) ∧ flit3.crcOk = true ∧ flit3.seq = 2 + 1
    ∧ (let r := [({ flit3 with seq := 4 }, 14)]
       (assoc (withPort fun p => { p with replay := r }).ports 3).map (fun p => p.replay.length) = some 1
       ∧ (r.all fun g => g.1.seq != flit3.ack && decide (g.2 + 1 < 16)) = true)
    ∧ portStuck { base with time := 1000000 } { trained with replay := [(flit3, 0)] } = true ∧ portStuck base trained = false
    ∧ (assoc (withPort fun p => { p with credit := 0, sending := [flit3] }).ports 3).map (fun p => (p.credit, p.sending.length)) = some (0, 1)
    ∧ (withPort id).stage = .ready ∧ State.reset.stage ≠ .ready ∧ assoc base.ports 3 = none
    ∧ out1.sends ≠ [] ∧ out1.dst ∉ base.rmap.gone ∧ moves base (.module out1.dst false) = true
    ∧ ({ base with time := 12000000 } : State).time = out1.since + 12000000 ∧ kept.dest.1 ∉ base.rmap.gone := by decide +kernel

/-- Flits in and out of sequence, credit at 512 and beyond, the 16th replay, resends and the end of a command (21 R385-R392). -/
theorem test_links :
    ((after_ (.flitReceive 3 flit3) (withPort id)).ports.map fun p => (p.2.got, p.2.credit)) = [(3, 11)]
    ∧ ((after_ (.flitReceive 3 { flit3 with seq := 4 }) (withPort id)).ports.map fun p => p.2.got) = [2]
    ∧ ((after_ (.flitReceive 3 { flit3 with crcOk := false }) (withPort id)).ports.map fun p => p.2.nak) = [true]
    ∧ ((after_ (.flitReceive 3 { flit3 with cred := 502 }) (withPort id)).ports.map fun p => p.2.credit) = [512]
    ∧ (after_ (.flitReceive 3 { flit3 with cred := 503 }) (withPort id)).ports = []
    ∧ (after_ (.flitReceive 3 { flit3 with nak := true }) (withPort fun p => { p with replay := [({ flit3 with seq := 4 }, 15)] })).ports = []
    ∧ ((after_ (.flitReceive 3 { flit3 with nak := true }) (withPort fun p => { p with replay := [({ flit3 with seq := 4 }, 14)] })).wire.length) = 1
    ∧ (after_ (.portFailure 3) (withPort id)).ports.length = 1
    ∧ (after_ (.portFailure 3) { withPort (fun p => { p with replay := [(flit3, 0)] }) with time := 1000000 }).rmap.cause = 1
    ∧ ((portSends (withPort fun p => { p with credit := 0, sending := [flit3] }) 3).wire.map fun w => w.2.kind) = [0]
    ∧ ((portSends (withPort fun p => { p with sending := [{ flit3 with kind := 1 }] }) 3).wire.map fun w => w.2.kind) = [1] := by decide +kernel

theorem test_resends :
    ((after_ (.sectorResend 77) { base with outs := [out1], time := 5 }).outbox.map Packet.stamp) = [5]
    ∧ (after_ (.commandGiveUp 77) { base with outs := [out1], time := 11999999 }).outs.length = 1
    ∧ (after_ (.commandGiveUp 77) { base with outs := [out1], time := 12000000 }).outs = []
    ∧ (after_ (.xidMarkExpiry 77) { base with xmarks := [{ src := 2, xid := 77, time := 0, vals := [] }], time := 16000000 }).xmarks = []
    ∧ (after_ (.xidMarkExpiry 77) { base with xmarks := [{ src := 2, xid := 77, time := 0, vals := [] }], time := 15999999 }).xmarks.length = 1
    ∧ ((after_ (.gradientBlockResend kept.tag) { base with retained := [kept] }).outbox.map Packet.dst) = [2] := by decide +kernel

/-- A packet of module 2 under the key of its slot, in time, is not discarded. -/
theorem fresh_packet : ¬ Discarded base (pkt (.readRequest 0x40 4 none false)) := by
  simp only [Discarded, not_or]
  refine ⟨by decide +kernel, by decide +kernel, by decide +kernel, fun h => ?_⟩
  have k := h part1 (by decide +kernel)
  revert k
  decide +kernel

theorem witness_PacketsAtHome :
    ¬ Discarded base (pkt (.readRequest 0x40 4 none false)) ∧ Discarded base (pk 1 (.write 0x40 [1] none)) ∧ partByFpid base 7 = some part1
    ∧ (pathRead base part1 0x40 4).2.isSome = true ∧ (pathRead base part1 (2 ^ 50) 4).2 = none
    ∧ versionAt (tiled false 0 .sealed) part1 7 ≠ none ∧ versionAt base part1 7 = none
    ∧ (versionAt (tiled true 2 .filling) part1 7).map Version.state = some .filling
    ∧ (versionAt (tiled false 0 .abandoned) part1 7).map Version.state = some .abandoned
    ∧ (waits (.fabric [] 77 none) base).me.wait = .fabric [] 77 none
    ∧ (writeKeysOf base part1 none 0x40 4).2 = some [(gkey, 4)] ∧ (writeKeysOf base part1 none (2 ^ 50) 4).2 = none
    ∧ markOf base gkey = none ∧ base.rmap.gone.contains 2 = false ∧ base.xmarks = [] ∧ Memory.wf base.mem = true := by
  refine ⟨fresh_packet, .inl (by decide +kernel), ?_⟩
  decide +kernel

/-- A read, a store applied once, an atomic, sectors in order (11 R219, R226, 21 R392). -/
theorem test_packets_at_home :
    ((after_ (.readRequest (pkt (.readRequest 0x40 2 none false))) (withMem gkey [7, 8] base)).outbox.map Packet.body) = [.readResponse [7, 8] none]
    ∧ (let r (f : Bool) := after_ (.readRequest (pkt (.readRequest 0 1 (some 7) f))) (tiled true 2 .filling)
       (r false).parkedReq.length = 1 ∧ (r true).parkedReq = [] ∧ (r true).outbox.length = 1)
    ∧ (let u := after_ (.writePacket (pkt (.write 0x40 [1, 2] none))) base
       memField u gkey 2 = 0x0201 ∧ u.xmarks.length = 1
       ∧ memField (after_ (.writePacket (pkt (.write 0x40 [3, 4] none))) u) gkey 2 = 0x0201)
    ∧ memField (after_ (.atomicPacket (pkt (.atomic 0 false true 0x40 5 0 none))) (withMem gkey [2] base)) gkey 8 = 7
    ∧ (after_ (.readResponse (pkt (.readResponse [9] none))) (waits (.fabric [] 77 none) base)).me.wait = .fabric [] 77 (some (.bytes [9]))
    ∧ (after_ (.writePacket { pkt (.write 0x40 [1] none) with tagOk := false }) base).hostCnt = [(0, 1)]
    ∧ (after_ (.writePacket { pkt (.write 0x40 [1] none) with dst := 4 }) base).outbox.length = 1 := by decide +kernel

theorem test_packet_sectors :
    (let r : SectorRun := { base := 0x40, len := 4, ckm := 0, last := false }
     let u := after_ (.copySector (pkt (.copySector 0x40 0 [1, 2] false none r))) base
     memField u gkey 2 = 0x0201 ∧ (u.xmarks.map fun m => m.vals.length) = [1] ∧ u.outbox.length = 1
     ∧ (after_ (.copySector (pkt (.copySector 0x46 3 [9] false none r))) u).outbox.length = 1
     ∧ memField (after_ (.copySector (pkt (.copySector 0x42 1 [9] false none r))) u) gkey 4 = 0x090201) := by decide +kernel

/-- A host command under the host's key. -/
def hostPk (f : Nat) (c : HostCmd) : Packet :=
  { pkt (.hostCommand 1 c) with fpid := BitVec.ofNat 16 f, key := if f == 0xFFFF then 0 else 3 }

theorem witness_NoticesAndCommands :
    base.xmarks = [] ∧ (mailboxOf base 1 4).length < 16
    ∧ 16 ≤ (mailboxOf ({ base with mailboxes := [((1, 4), List.replicate 16 (hand false 0))] } : State) 1 4).length
    ∧ moves base (.module 3 false) = true ∧ moves base (.module 3 true) = false
    ∧ ((tiled true 2 .filling).versions.map fun v => (v.id, v.part, v.state, v.cur)) = [(7, 1, .filling, true)]
    ∧ base.hostKey0 = some (hostPk 0xFFFF .evict).key ∧ (pkt (.hostCommand 1 .evict)).key = 3
    ∧ base.hostKey1 ≠ some (hostPk 0xFFFF .evict).key
    ∧ ({ base with outs := [out1] } : State).outs = [out1] ∧ out1.sends.map indexOf = [0] ∧ out1.acks.length + 1 = out1.total
    ∧ (hostPk 0xFFFF .evict).fpid = 0xFFFF ∧ (hostPk 7 .evict).fpid ≠ 0xFFFF ∧ partByFpid base 7 = some part1 := by decide +kernel

/-- An event of another module. -/
def event1 : EventMsg :=
  { code := 0x0802, vec := 3, part := 4, launch := 6, killed := 1, cancelled := 0, first := 0, lsn := 8, unit := none, time := 2 }

/-- A handle, a notice, a seal and an acknowledgement from another module (13 R266, R274, 20 R379, 21 R392). -/
theorem test_packet_notices :
    ((after_ (.handlePacket (pkt (.handle 4 (hand false 2)))) base).mailboxes.map fun m => (m.1, m.2.length)) = [((1, 4), 1)]
    ∧ (after_ (.mapNotice (pkt (.mapNotice (.module 3 false)))) base).rmap.gone = [3]
    ∧ ((after_ (.sealOrAbandon (pkt (.seal 7 true))) (tiled true 2 .filling)).versions.map Version.state) = [.abandoned]
    ∧ ((after_ (.sealOrAbandon (pkt (.seal 7 false))) (tiled true 2 .filling)).versions.map Version.state) = [.sealed]
    ∧ (let u := after_ (.acknowledgement (pkt (.ack 77 0 (some 0) false))) { base with outs := [out1] }
       u.outs = [] ∧ readS u.me.regs 9 = 1)
    ∧ ((after_ (.event (pkt (.event event1))) base).events.map fun e => (e.code, e.vec, e.part, e.killed, e.time)) = [(0x0802, 3, 1, 1, 2)] := by decide +kernel

theorem test_host_commands :
    (after_ (.hostCommand (hostPk 0xFFFF (.debugHalt 0))) base).me.stops = [.debugger]
    ∧ ((after_ (.hostCommand (hostPk 0xFFFF (.setBreakpoints true))) base).parts.map fun p => p.cfg.brk) = [true]
    ∧ (after_ (.hostCommand (hostPk 7 (.errinj 0))) base).hostOut = [.refused 0x0202]
    ∧ (after_ (.hostCommand { hostPk 0xFFFF (.debugHalt 0) with key := 1 }) base).hostCnt = [(0, 1)]
    ∧ ((after_ (.hostCommand (hostPk 0xFFFF (.installKey true 9))) base).parts.map fun p => (p.key0, p.key1)) = [(some 3, some 9)]
    ∧ (after_ (.hostCommand { hostPk 0xFFFF (.debugHalt 0) with epoch := true, key := 8 })
        (after_ (.hostCommand { pkt (.hostCommand 0xFFFF (.installKey true 8)) with fpid := 0xFFFF, key := 0 }) base)).me.stops = [.debugger]
    ∧ (after_ (.hostCommand (hostPk 0xFFFF (.debugHalt 0))) { base with stage := .boot }).hostCnt = [(0, 1)] := by decide +kernel

/-- A home of two blocks of partition 1 at die 0. -/
def desc2 : HomeDesc :=
  { part := 1, die := 0, waddr := 0x1000, maddr := 0x2000, vaddr := 0x3000, nblk := 2, pfmt := 0, psat := false, mirrored := false,
    isMirror := false, pk := 16, plen := 1, ptile := 0, step := 3, deadline := 10, peer := 0, peerDie := 0, prog := 0, seed := 0, scal := 0,
    nscal := 0, consts := [], stat := 0, shadow := 0, reserved := false }
/-- That home. -/
def home2 : ParamHome :=
  { desc := desc2, program := [], step := 3, since := 0, applied := [0], ahead := [], scalars := [], versions := [], role := 0, past := [] }
/-- The module with the home. -/
def homed (f : ParamHome → ParamHome) : State := { base with homes := [f home2], time := 10000 }
/-- A block for it. -/
def block (st b : Nat) (n : Nat) : Packet := pkt (.gradient st b 0 (List.replicate n 0))

theorem witness_ParameterHomes :
    (homeOf (homed id) 1 0 = some home2 ∧ homeOf base 1 0 = none ∧ home2.applied.length ≠ home2.desc.nblk
      ∧ (homed fun h => { h with applied := [0, 1] }).homes.map (fun h => h.applied.length) = [2]
      ∧ home2.since + 1000 * home2.desc.deadline ≤ (homed id).time ∧ home2.ahead.length < 256
      ∧ descOk base part1 { desc2 with reserved := true } = false)
    ∧ (List.replicate 65536 (0 : Byte)).length = 65536 :=
  ⟨by decide +kernel, List.length_replicate⟩

/-- A step completed, a deadline, a descriptor refused, blocks of another length (21 R393-R400). -/
theorem test_homes :
    ((after_ (.stepComplete 1 0) (homed fun h => { h with applied := [0, 1], versions := [9] })).homes.map ParamHome.step) = [4]
    ∧ ((after_ (.stepComplete 1 0) (homed id)).homes.map ParamHome.step) = [3]
    ∧ ((after_ (.stepDeadlineExpiry 1 0) (homed fun h => { h with versions := [9] })).homes.map fun h => (h.step, h.versions, h.since)) = [(3, [], 10000)]
    ∧ (after_ (.paramHomeCreate { desc2 with reserved := true }) base).hostOut = [.refused 0x0A01]
    ∧ (after_ (.gradientBlock (block 3 1 8)) (homed id)).outbox = [] := by decide +kernel

/-- The schedule turns core 0's control slice on a text of one ADDI. -/
def scheduled : State := { fetching 0x00248280 base with sched := [.turn 0 .c] }

theorem witness_StepRunsDecoded :
    scheduled.power.on = true ∧ scheduled.power.failed = false ∧ (tick scheduled).sched = [.turn 0 .c]
    ∧ (let s' := { tick scheduled with sched := [] }
       let u := { focus 0 s' with me := (focus 0 s').me.turn .c }
       Moves scheduled u ∧ Fetches u ∧ (match decode (fetchBytes u.me) with | .ok (i, _) => i == .add 9 8 10 0 | .error _ => false) = true) := by
  refine ⟨by decide +kernel, by decide +kernel, by decide +kernel, ⟨⟨by decide +kernel, by decide +kernel, .inr ?_⟩, by decide +kernel⟩, ?_, ?_⟩
  · exact ⟨0, .c, [], by decide +kernel, by decide +kernel, rfl⟩
  · exact ⟨by decide +kernel, by decide +kernel, by decide +kernel, by decide +kernel⟩
  · decide +kernel

/-- The same with an empty schedule. -/
def unscheduled : State := { scheduled with sched := [] }

/-- An empty schedule moves the core that stands; the cases in which a core fetches nothing. -/
theorem witness_StepRunsDecoded_others :
    (Moves unscheduled (movedOn (tick unscheduled)) ∧ Fetches (movedOn (tick unscheduled)))
    ∧ (lateAccess { loadWaits with marks := [(scratchKey 0 0 / 64, .poison)] }).isSome = true
    ∧ granuleAbsent (withC (fun c => { c with absent := [(.c, 0)] }) (sliced .c)).me = true
    ∧ codeFound (withC (fun c => { c with weak := [((.c, 0), true)] }) (sliced .c)).me = .uncorrectable
    ∧ codeFound (withC (fun c => { c with weak := [((.c, 0), false)] }) (sliced .c)).me = .corrected
    ∧ fetchBytes (withC (fun c => { c with flow := { c.flow with pc := 64 } }) base).me = []
    ∧ (match decode (fetchBytes (fetching 0x5B000001 base).me) with | .ok _ => false | .error r => r.code == 0x0102) = true
    ∧ powerAdmits base.power (.debugHalt 0) = true := by
  refine ⟨⟨⟨⟨?_, ?_, .inl ⟨?_, ?_, ?_, ?_, rfl⟩⟩, ?_⟩, ?_, ?_, ?_, ?_, ?_, ?_⟩, ?_⟩ <;> decide +kernel

/-- One step runs the word at the PC, and an event of the schedule (05 R80, 06 R110). -/
theorem test_step :
    (match step (withX [(8, 5), (10, 6)] scheduled) with | .next t => xOf t 9 | _ => 0) = 11
    ∧ (match step { base with sched := [.event (.debugHalt 0)] } with | .next t => t.me.stops | _ => []) = [.debugger]
    ∧ (match step (withX [(8, 5), (10, 6)] unscheduled) with | .next t => xOf t 9 | _ => 0) = 11
    ∧ (match step { base with power := { base.power with on := false } } with | .fault f => f == .unpowered | _ => false) = true := by
  decide +kernel

/-- DecodeEncode and StepKeepsMemory have words and steps that meet their hypotheses. -/
theorem witness_DecodeEncode : (Instr.add 9 8 10 0).wf = true ∧ 0 < (Instr.add 9 8 10 0).units := by decide +kernel

theorem witness_StepKeepsMemory :
    Memory.wf scheduled.mem = true ∧ (match step scheduled with | .next t => t.me.flow.pc == 4 | _ => false) = true := by decide +kernel

theorem witness_CompletionRules :
    base.me.form = .logical ∧ (sliced .c).me.form = .slices ∧ (sliced .c).me.posts = []
    ∧ (let f := { Flow.entry with loops := Flow.entry.loops.set 2 { count := 2, active := true, start := 0, stop := 0, rank := 1 } }
       LoopEnds f 2 0) := by
  refine ⟨by decide +kernel, by decide +kernel, by decide +kernel, ?_⟩
  unfold LoopEnds
  decide +kernel

/-- A loop goes back and falls out (08 R156); a slice word advances by its DELTA (05 R94). -/
theorem test_completion :
    (let f (n : Nat) : Flow := { Flow.entry with loops := Flow.entry.loops.set 2 { count := BitVec.ofNat 32 n, active := true, start := 8, stop := 0, rank := 1 } }
     (flowNext 1 (f 2) .fall).pc = 8 ∧ (flowNext 1 (f 1) .fall).pc = 4 ∧ (flowNext 1 (f 1) .fall).lsn = 1)
    ∧ (after_ .nop (sliced .c)).me.flow.lsn = 1
    ∧ (let y (p : Nat) : BitVec 19 := BitVec.ofNat 19 p
       let u (p : Nat) (s : State) := after_ (.vnop (y p)) s
       let ahead := withC (fun c => { c with flow := { c.flow with lsn := 1 } }) (sliced .v)
       readS (u (512 + 200) ahead).me.regs 200 = 1 ∧ (u (512 + 256 + 200) ahead).me.posts.map PendPost.sem = [200]
       ∧ readS (u (512 + 256 + 200) ahead).me.regs 200 = 0 ∧ readS (u (512 + 256 + 200) (sliced .v)).me.regs 200 = 1) := by decide +kernel

/-! More witnesses: clauses at the ends of their ranges. -/

/-- A see handle of a version homed on module 3, and SBIND of its window; its home's answer. -/
def bindFar : State := withABC tileA.toNat 0 0 (tiled false 3 .sealed)
def farCheck (s : State) : State × List (Nat × Nat × Acc1) × Option Chk := checkPrefix s (heldHandles s.me.regs) (runs tileA.toNat 512) false
def answeredFar (r : Reply) : State := waits (.fabric [] 5 (some r)) bindFar

/-- A home is asked and the word waits; an answer lets it go on, a refusal decides it; a byte no handle reaches parks or is bad (12 R228). -/
theorem witness_BindingWords_more :
    issues (.sbind (sw 1 2 3)) bindFar = true ∧ (farVersions (farCheck bindFar).2.1 []).length = 1
    ∧ (fabricRuns (unpark (farCheck bindFar).1) 0 (farVersions (farCheck bindFar).2.1 [])).2 = none
    ∧ (qOf (after_ (.sbind (sw 1 2 3)) (answeredFar (.bytes []))) 0).kind = .sbind
    ∧ lastCode (after_ (.sbind (sw 1 2 3)) (answeredFar (.refused 0x0401))) = some 0x0401
    ∧ (farCheck (withABC tileA.toNat 0 0 (tiled false 0 .filling))).2.2 = some (.park 7 0)
    ∧ (checkPrefix (withABC (2 ^ 17) 0 0 base) [] (runs (2 ^ 17) 512) false).2.2 = some (.bad 0x0201 131072) := by decide +kernel

/-- SQ(S) with its sixteen places taken by commands of one LSN. -/
def sixteen (n : Nat) : State :=
  withC (fun c => { c with sqS := List.replicate 16 (SCmd.mk n .cpy [] 0 none 0 0 0 0 none 0 false) }) (withABC 0 64 16 base)

/-- The oldest departs where the frontier has reached it, else the word waits (11 R212, 14 R293). -/
theorem witness_StageAndCopyWords_more :
    issues (.cpy (sw 1 2 3)) (sixteen 0) = true ∧ ((sixteen 0).me.sqS.filter fun d => !isPushed d).length = 16 ∧ frontier (sixteen 0).me = 0
    ∧ (after_ (.cpy (sw 1 2 3)) (sixteen 0)).me.sqS.length = 16 ∧ (after_ (.cpy (sw 1 2 3)) (sixteen 3)).me.wait = .queue := by decide +kernel

/-- The channel's head is what a word that wrote nothing left (log 57). -/
def skipped3 : State := chanPush (sliced .c) 3 .skipped

theorem witness_ScalarArithmetic_more :
    issues (.add 1 2 0 0x33) skipped3 = true ∧ chanHead skipped3 3 = some .skipped
    ∧ readX (after_ (.add 1 2 0 0x33) (withX [(1, 9)] skipped3)).me.regs 1 = 9 := by decide +kernel

/-- VL is zero. -/
def vlZero : State := withC (fun c => { c with csr := { c.csr with vl := 0 } }) base

theorem witness_VectorFloats_more :
    issues (.vadd (vw2 0)) vlZero = true ∧ vlOf vlZero = 0 ∧ skipReady (vw2 0) [] vlZero = true ∧ dstRoom vlZero (vw2 0) true = true := by
  decide +kernel

/-- The matrix words of two matrices of scratch, one compressed with its metadata in mq1. -/
def mA : MWord := { m0 with cidx := 5, aoff := 16, apitch := 4, boff := 0x400, bpitch := 8, afmt := 2, bfmt := 2 }
def mS : MWord := { mA with spm := 2, mqs := 1 }
def metaAt (b : Byte) : State :=
  withC (fun c => { c with str := { c.str with
    mq := c.str.mq.setIfInBounds 1 { MqReg.empty with fifo := [{ data := List.replicate 2048 b, failed := none }] } } }) base

/-- MMAS and MMA16 meet the conditions of their completion; a bad group of metadata does not; no rounding mode (10 R193, R194, R201). -/
theorem witness_MatrixWords_more :
    issues (.mmas mS) (metaAt 0x44) = true ∧ regionCheck mS (mmaStep mS false) = none
    ∧ badRows (metaAt 0x44) (repRegions mS (mmaStep mS false) 0) = none ∧ (mqFetch (settleStages (metaAt 0x44)) 1 1).2 = none
    ∧ (mqFetch (settleStages base) 1 1).2 ≠ none
    ∧ metaOk (List.replicate 2048 0x44) (mmaStep mS false).k = true ∧ metaOk (List.replicate 2048 0) (mmaStep mS false).k = false
    ∧ issues (.mma16 mA) base = true ∧ regionCheck mA (mmaStep mA true) = none ∧ badRows base (repRegions mA (mmaStep mA true) 0) = none
    ∧ mA.chk = 0 ∧ (mA.acc2, mA.asrc, mA.rep) = (0, 0, 0) ∧ base.me.rho = 0
    ∧ roundMode (withC (fun c => { c with csr := { c.csr with rmode := 5 } }) base) 7 = none := by decide +kernel

/-- MLOAD and MSTORE within scratch and past it (10 R197). -/
theorem witness_MatrixWords_rows :
    issues (.mload { m0 with apitch := 4 }) base = true ∧ issues (.mstore { m0 with apitch := 4 }) base = true
    ∧ 64 * 4 * 63 + 64 * (fmtWidth 0 / 8) ≤ 2 ^ 20 ∧ badRows base [(0, 256, 64, 64 * (fmtWidth 0 / 8))] = none
    ∧ roundMode base (m0.arnd.toNat) = some 0 ∧ (pastScratch (64 * 0x3FFF) 256 64 128).isSome = true := by decide +kernel

theorem witness_MapEvents_more :
    unitExists (unitOn 0x0A 0) = true ∧ unitExists (unitOn 1 4000) = false ∧ moves base (changeOf (unitOn 1 12) false) = true
    ∧ moves base (changeOf (unitOn 0x0A 0) false) = false ∧ inUse base (.core 0 false) = true ∧ inUse base (.core 5 false) = false
    ∧ imageOk base { goodImage with sigOk := false } = false ∧ imageOk base goodImage = true := by decide +kernel

/-- A place for an image, and none; a mate that a stop still has to reach; a word whose gated act is done (02 R43, 18 R350). -/
theorem witness_StopsAndResumes_more :
    freePlace base 1 = none ∧ freePlace { base with parts := [{ part1 with saveSlots := 1 }] } 1 = some 0
    ∧ (coreOf crewed 1).run = .running ∧ crewed.me.task.crew = (coreOf crewed 1).task.crew ∧ crewed.me.task.launch = (coreOf crewed 1).task.launch
    ∧ frontier base.me < 1 ∧ (base.me.gate ≤ frontier base.me) := by decide +kernel

/-- What is due takes the step, and where nothing is the core moves. -/
theorem witness_StepRunsDecoded_more :
    dueCore (pump (autoTurn (autoCore (pumpOthers (tick unscheduled))))) = none ∧ dueModule (tick unscheduled) = none
    ∧ (tick unscheduled).inbox = [] ∧ (tick unscheduled).sched = [] ∧ (dueModule (tick (bringing .boot none))).isSome = true
    ∧ (dueCore { unscheduled with me := { unscheduled.me with stops := [.debugger] } }).isSome = true := by decide +kernel

end Sys2Proof.Tests
end

section
namespace Sys2Proof.Machine

/-! The state outside the memory machine. Stores, loads, translation and packets change the state through many branches; what a change of
the resource map turns on (the map, the partitions, the cores' tasks) is not among what they touch. `outer` blanks what they touch, so that
each operation leaves `outer` as it was, by one `@[simp]` rule per operation. -/

/-- A partition without its error counters. -/
def uncounted (p : Partition) : Partition := { p with counters := Vector.replicate 8 0 }

/-- The state without what the memory machine works on. -/
def outer (s : State) : State :=
  { s with
    mem := [], marks := [], soft := [], rv := [], tlb := [], crews := [], outs := [], retained := [], inbox := [], outbox := [],
    events := [], hostCnt := [], errinj := 0, errCount := 0, cmdCount := 0, askCount := 0, freeCount := 0,
    parts := s.parts.map uncounted,
    me := { s.me with regs := .clear, lqC := [], sqC := [], sqS := [], l1 := [], rewind := [], gate := 0, posts := [] } }

theorem outer_foldl {α : Type} {f : State → α → State} (hf : ∀ u a, outer (f u a) = outer u) (l : List α) (s : State) :
    outer (l.foldl f s) = outer s := by
  induction l generalizing s with
  | nil => rfl
  | cons a rest ih => rw [List.foldl_cons, ih, hf]

section
variable (s : State)

@[simp] theorem outer_mapRegs (f : Regs → Regs) : outer (mapRegs s f) = outer s := rfl
@[simp] theorem outer_setX (i : BitVec 6) (v : Word) : outer (setX s i v) = outer s := rfl
@[simp] theorem outer_setL1 (l : List (Nat × L1Byte)) : outer (setL1 s l) = outer s := rfl
@[simp] theorem outer_updCrew (n : Nat) (f : Crew → Crew) : outer (updCrew s n f) = outer s := rfl
@[simp] theorem outer_setMark (k : Nat) (m : Mark) : outer (setMark s k m) = outer s := rfl
@[simp] theorem outer_clearMark (k : Nat) : outer (clearMark s k) = outer s := rfl
@[simp] theorem outer_hostBump (i : Nat) : outer (hostBump s i) = outer s := rfl
@[simp] theorem outer_rvUpdate (d k : Nat) (bs : List Byte) : outer (rvUpdate s d k bs) = outer s := rfl
@[simp] theorem outer_rvDrop (d k : Nat) : outer (rvDrop s d k) = outer s := rfl
@[simp] theorem outer_rvFill (d k : Nat) : outer (rvFill s d k) = outer s := rfl
@[simp] theorem outer_rvTrim : outer (rvTrim s) = outer s := rfl
@[simp] theorem outer_postEvent (c p l f n : Nat) : outer (postEvent s c p l f n) = outer s := rfl
@[simp] theorem outer_drawAsk : outer (drawAsk s).1 = outer s := rfl
@[simp] theorem outer_drawXid : outer (drawXid s).1 = outer s := rfl
@[simp] theorem outer_awaitAck (path : Path) (x d : Nat) (v : List Nat) (c : Option (BitVec 2)) (m : BitVec 2) (p : List Nat)
    (n : Nat) : outer (awaitAck s path x d v c m p n) = outer s := rfl
@[simp] theorem outer_keepCopy (x : Nat) (p : Packet) : outer (keepCopy s x p) = outer s := rfl
@[simp] theorem outer_dropAwait (x m : Nat) : outer (dropAwait s x m) = outer s := rfl
@[simp] theorem outer_ackHere (c : SCmd) (bs : List Byte) : outer (ackHere s c bs) = outer s := rfl
@[simp] theorem outer_actAt (n : Nat) : outer (actAt s n) = outer s := rfl
@[simp] theorem outer_dropClean : outer (dropClean s) = outer s := rfl
@[simp] theorem outer_logLoad (e : LqEntry) : outer (logLoad s e) = outer s := rfl
@[simp] theorem outer_cutShort (c : SCmd) : outer (cutShort s c) = outer s := rfl

@[simp] theorem outer_bump (p i : Nat) : outer (bump s p i) = outer s := by
  have h : ∀ q : Partition, uncounted (if q.cfg.part = p then
      { q with counters := q.counters.setIfInBounds i (min (2 ^ 32 - 1) (q.counters.getD i 0 + 1)) } else q) = uncounted q :=
    fun q => by split <;> rfl
  simp only [outer, bump, updPart, List.map_map, Function.comp_def, h]

/-! Homes, marks and L1. -/

@[simp] theorem outer_noteL1 (l : List Nat) : outer (noteL1 s l) = outer s := by
  unfold noteL1; split <;> simp

@[simp] theorem outer_loseL1 (k : Nat) (l : List Nat) : outer (loseL1 s k l) = outer s := by
  unfold loseL1; split <;> simp

@[simp] theorem outer_countMark (p k : Nat) (m : Mark) : outer (countMark s p k m) = outer s := by
  unfold countMark; (repeat' split) <;> simp

@[simp] theorem outer_noteSoft (p k : Nat) : outer (noteSoft s p k) = outer s := by
  unfold noteSoft; split <;> simp

@[simp] theorem outer_noteSofts (p : Nat) (l : List Nat) : outer (noteSofts s p l) = outer s := by
  unfold noteSofts; split
  · rfl
  · exact outer_foldl (fun _ _ => outer_noteSoft ..) _ _

@[simp] theorem outer_homeWrite (p k : Nat) (bs : List Byte) : outer (homeWrite s p k bs) = outer s := by
  have h : outer { s with mem := cellsSet s.mem k bs, soft := s.soft.filter fun n => n != k / 64 } = outer s := rfl
  unfold homeWrite; dsimp only; (repeat' split) <;> simp [h]

@[simp] theorem outer_writeThrough (p d k : Nat) (bs : List Byte) (g : Bool) : outer (writeThrough s p d k bs g) = outer s := by
  unfold writeThrough; dsimp only; split <;> simp

@[simp] theorem outer_writeBackWords (sec : Nat) (w : BitVec 16) : outer (writeBackWords s sec w) = outer s := by
  have f : ∀ l : List (Nat × Byte),
      outer (l.foldl (fun u e => writeThrough u s.me.task.part (coreDie s.me.id) e.1 [e.2] true) s) = outer s :=
    fun l => outer_foldl (fun _ _ => outer_writeThrough ..) l s
  unfold writeBackWords; dsimp only; (repeat' split) <;> simp [f]

@[simp] theorem outer_l1Room (k : Nat) : outer (l1Room s k) = outer s := by
  unfold l1Room; dsimp only; (repeat' split) <;> simp

@[simp] theorem outer_l1Store (k : Nat) (bs : List Byte) : outer (l1Store s k bs) = outer s := by
  unfold l1Store; simp

@[simp] theorem outer_writeBackAll : outer (writeBackAll s) = outer s := outer_foldl (fun _ _ => outer_writeBackWords ..) _ _

@[simp] theorem outer_flushSector (k : Nat) : outer (flushSector s k) = outer s := by
  unfold flushSector; simp

@[simp] theorem outer_invalidate (n : Nat) : outer (invalidate s n) = outer s := by
  unfold invalidate; (repeat' split) <;> rfl

@[simp] theorem outer_releaseScope (n : Nat) : outer (releaseScope s n) = outer s := by
  unfold releaseScope; split <;> simp

@[simp] theorem outer_rvEnsure (d k : Nat) : outer (rvEnsure s d k) = outer s := by
  unfold rvEnsure; (repeat' split) <;> simp

@[simp] theorem outer_fillSector (k : Nat) : outer (fillSector s k) = outer s := by
  unfold fillSector; dsimp only; split <;> simp

/-! Packets. -/

@[simp] theorem outer_putPacket (p l : Nat) (k : Packet) : outer (putPacket s p l k) = outer s := by
  unfold putPacket; (repeat' split) <;> rfl

@[simp] theorem outer_sendFrom (i p l d e x : Nat) (b : PacketBody) : outer (sendFrom s i p l d e x b) = outer s :=
  outer_putPacket ..

@[simp] theorem outer_sendPacket (p l d e x : Nat) (b : PacketBody) : outer (sendPacket s p l d e x b) = outer s :=
  outer_putPacket ..

@[simp] theorem outer_sendSure (p l d : Nat) (v : List Nat) (b : PacketBody) : outer (sendSure s p l d v b) = outer s := by
  have h : outer (sendPacket (drawAsk s).1 p l d 0 (drawAsk s).2 b) = outer s := by simp
  unfold sendSure; dsimp only; split
  · exact h
  · exact h

/-! Translation and checks. -/

@[simp] theorem outer_translate (p : Partition) (va : Nat) (wr : Bool) : outer (translate s p va wr).1 = outer s := by
  unfold translate; dsimp only
  cases tlbHit s p.cfg.part va with
  | some e => dsimp only; (repeat' split) <;> simp_all
  | none =>
    cases walk s p va with
    | error c => rfl
    | ok e =>
      have h : outer { s with tlb := e :: s.tlb } = outer s := rfl
      dsimp only; (repeat' split) <;> simp_all

@[simp] theorem outer_checkVia (l : List Handle) (a : Nat) (wr : Bool) : outer (checkVia s l a wr).1 = outer s := by
  unfold checkVia
  cases placeOf s a with
  | tile off => dsimp only; (repeat' split) <;> rfl
  | none => rfl
  | near k => rfl
  | stack k => cases k <;> rfl
  | global va =>
    have k := outer_translate s (myPart s) va wr
    dsimp only
    split <;> rename_i e <;> rw [e] at k <;> exact k

end
end Sys2Proof.Machine
end

section
namespace Sys2Proof.Machine

/-! The rules of `outer` for the C path, the S path and the rebuild's queues. -/
section
variable (s : State)

@[simp] theorem outer_checkS (a : Nat) (wr : Bool) : outer (checkS s a wr).1 = outer s := outer_checkVia ..

theorem outer_checkPrefix (hs : List Handle) (wr : Bool) (l : List (Nat × Nat)) (s : State) :
    outer (checkPrefix s hs l wr).1 = outer s := by
  induction l generalizing s with
  | nil => rfl
  | cons r rest ih =>
    obtain ⟨a, n⟩ := r
    have k := outer_checkVia s hs a wr
    unfold checkPrefix
    split <;> rename_i e <;> rw [e] at k
    · exact (ih _).trans k
    · exact k

@[simp] theorem outer_checkRuns (l : List (Nat × Nat)) (wr : Bool) : outer (checkRuns s l wr).1 = outer s := by
  have k := outer_checkPrefix (heldHandles s.me.regs) wr l s
  unfold checkRuns checkRunsVia
  split <;> rename_i e <;> rw [e] at k <;> exact k

/-! The C path. -/

@[simp] theorem outer_loadBytes (l k n : Nat) (g : Bool) : outer (loadBytes s l k n g).1 = outer s := by
  unfold loadBytes; dsimp only; (repeat' split) <;> simp

@[simp] theorem outer_performHead : outer (performHead s) = outer s := by
  unfold performHead; split
  · rfl
  · rename_i rest _
    have k : outer { s with me := { s.me with lqC := rest } } = outer s := rfl
    have f : ∀ (u : State) n, outer { u with freeCount := n } = outer u := fun _ _ => rfl
    dsimp only; (repeat' split) <;> simp [k, f]

@[simp] theorem outer_atomicStep (e : SqEntry) (a : AtomicOp) : outer (atomicStep s e a) = outer s := by
  unfold atomicStep; dsimp only; (repeat' split) <;> simp

@[simp] theorem outer_departHead : outer (departHead s) = outer s := by
  unfold departHead; split
  · rfl
  · rename_i rest _
    have k : outer { s with me := { s.me with sqC := rest } } = outer s := rfl
    dsimp only; (repeat' split) <;> simp [k]

@[simp] theorem outer_departDue : outer (departDue s) = outer s := by
  unfold departDue; (repeat' split) <;> simp

@[simp] theorem outer_drainStepC : outer (drainStepC s) = outer s := by
  unfold drainStepC; (repeat' split) <;> simp

theorem outer_drainCN (n : Nat) (s : State) : outer (drainCN n s) = outer s := by
  induction n generalizing s with
  | zero => rfl
  | succ k ih => unfold drainCN; simp [ih]

@[simp] theorem outer_drainC : outer (drainC s) = outer s := outer_drainCN ..

theorem outer_performAllN (n : Nat) (s : State) : outer (performAllN n s) = outer s := by
  induction n generalizing s with
  | zero => rfl
  | succ k ih => unfold performAllN; (repeat' split) <;> simp [ih]

@[simp] theorem outer_performAll : outer (performAll s) = outer s := outer_performAllN ..

/-! The S path. -/

@[simp] theorem outer_touchRun (c : List SCmd) (r : SPiece) : outer (touchRun s c r) = outer s := by
  unfold touchRun; dsimp only; (repeat' split) <;> simp

@[simp] theorem outer_readSector (o : List SCmd) (c : SCmd) (p : SPiece) : outer (readSector s o c p).1 = outer s :=
  outer_touchRun ..

theorem outer_readTill (n : Nat) (o : List SCmd) (i : Nat) (a : Bool) (s : State) (c : SCmd) :
    outer (readTill n s o c i a).1 = outer s := by
  induction n generalizing s c with
  | zero => rfl
  | succ k ih => unfold readTill; split <;> simp [ih]

@[simp] theorem outer_applyReduce (p d k op f : Nat) (bs : List Byte) (po g : Bool) :
    outer (applyReduce s p d k op f bs po g).1 = outer s := by
  unfold applyReduce; dsimp only; (repeat' split) <;> simp

@[simp] theorem outer_injectFlip (p : Nat) (b : PacketBody) : outer (injectFlip s p b).1 = outer s := by
  unfold injectFlip; dsimp only; (repeat' split) <;> rfl

@[simp] theorem outer_departBlock (c : SCmd) (w : SWrite) (m : Nat) : outer (departBlock s c w m) = outer s := by
  have f : ∀ (u : State) l, outer { u with retained := l } = outer u := fun _ _ => rfl
  simp [departBlock, f]

@[simp] theorem outer_departAway (c : SCmd) (w : SWrite) (m a : Nat) (v : Option Nat) :
    outer (departAway s c w m a v) = outer s := by
  unfold departAway; dsimp only; (repeat' split) <;> simp

@[simp] theorem outer_departWrite (c : SCmd) (w : SWrite) : outer (departWrite s c w).1 = outer s := by
  unfold departWrite; dsimp only; split
  · (repeat' split) <;> simp
  · split <;> simp
  · simp
  · rename_i addr _
    have k := outer_checkS s addr true
    split
    · rfl
    · split <;> rename_i e <;> rw [e] at k
      · dsimp only at k ⊢; split <;> simp [k]
      · exact k

@[simp] theorem outer_completeCmd (c : SCmd) : outer (completeCmd s c) = outer s := by
  unfold completeCmd; dsimp only; (repeat' split) <;> rfl

@[simp] theorem outer_awaitAll (c : SCmd) (x : Nat) : outer (awaitAll s c x) = outer s :=
  outer_foldl (fun _ _ => outer_awaitAck ..) _ _

@[simp] theorem outer_startCmd (c : SCmd) : outer (startCmd s c).1 = outer s := by
  unfold startCmd; split
  · rfl
  · split
    · (repeat' split)
      · simp
      · dsimp only
        split <;> rename_i e <;> exact (congrArg (fun q => outer q.1) e).symm.trans (outer_checkRuns (drawXid s).1 _ true)
      · rfl
    · dsimp only; split <;> simp

@[simp] theorem outer_departS : outer (departS s) = outer s := by
  have f : ∀ (u : State) l, outer { u with me := { u.me with sqS := l } } = outer u := fun _ _ => rfl
  unfold departS; split
  · rfl
  · dsimp only; (repeat' split) <;> simp [f, outer_readTill]

theorem outer_departSN (n : Nat) (s : State) : outer (departSN n s) = outer s := by
  induction n generalizing s with
  | zero => rfl
  | succ k ih => unfold departSN; simp [ih]

@[simp] theorem outer_drainS : outer (drainS s) = outer s := outer_departSN ..
@[simp] theorem outer_drainBoth : outer (drainBoth s) = outer s := by simp [drainBoth]

/-! The rebuild's queues, and writes at a partition's addresses. -/

@[simp] theorem outer_fireAll : outer (fireAll s) = outer s := by
  have f : ∀ (u : State), outer { u with me := { u.me with posts := [] } } = outer u := fun _ => rfl
  unfold fireAll
  rw [f]
  exact outer_foldl (fun _ _ => outer_mapRegs ..) _ _

@[simp] theorem outer_settleQueues (f : Nat) (o : Option Nat) : outer (settleQueues s f o) = outer s := by
  have q : ∀ (u : State) a b, outer { u with me := { u.me with sqC := a, sqS := b } } = outer u := fun _ _ _ => rfl
  have q4 : ∀ (u : State) a b c d, outer { u with me := { u.me with lqC := a, sqC := b, sqS := c, posts := d } } = outer u :=
    fun _ _ _ _ _ => rfl
  unfold settleQueues
  simp only [outer_drainBoth, q]
  rw [outer_foldl (fun _ _ => outer_cutShort ..), outer_performAll, q4]

theorem outer_writeAt (p : Partition) (l : List (Nat × Nat)) (bs : List Byte) (s : State) : outer (writeAt s p l bs) = outer s := by
  induction l generalizing s bs with
  | nil => rfl
  | cons x rest ih =>
    obtain ⟨a, n⟩ := x
    have k : outer (if a < 2 ^ 52 then translate s p a true else (s, .error 0)).1 = outer s := by split <;> simp
    unfold writeAt
    rw [ih]
    split <;> rename_i e <;> rw [e] at k
    · simpa using k
    · (repeat' split) <;> simpa using k

end
end Sys2Proof.Machine
end

section
namespace Sys2Proof.Machine

/-! Cores under another core's turn. -/

theorem findCore_id (l : List Core) (g : Nat) : (findCore l g).id = g := by
  unfold findCore
  cases h : l.find? fun c => c.id == g with
  | none => rfl
  | some c => simpa using List.find?_some h

theorem findCore_putCore (l : List Core) (c : Core) (g : Nat) :
    findCore (putCore l c) g = if c.id = g then c else findCore l g := by
  unfold findCore putCore
  by_cases h : c.id = g
  · simp [h]
  · have e : (l.filter fun d => d.id != c.id).find? (fun d => d.id == g) = l.find? fun d => d.id == g := by
      rw [List.find?_filter]; congr 1; funext d
      by_cases k : d.id = g
      · simp [k, Ne.symm h]
      · simp [k]
    simp [h, e]

theorem findCore_filter (l : List Core) {g k : Nat} (h : k ≠ g) : findCore (l.filter fun d => d.id != k) g = findCore l g := by
  unfold findCore
  rw [List.find?_filter]; congr 2; funext d
  by_cases e : d.id = g
  · simp [e, Ne.symm h]
  · simp [e]

@[simp] theorem coreOf_focus (s : State) (g k : Nat) : coreOf (focus g s) k = coreOf s k := by
  unfold focus
  split
  · rfl
  · rename_i h
    simp only [coreOf, findCore_id, findCore_putCore]
    by_cases e : g = k
    · subst e; simp [h]
    · by_cases e2 : s.me.id = k
      · simp [e, e2]
      · simp [e, e2, findCore_filter _ e]

@[simp] theorem focus_me_id (s : State) (g : Nat) : (focus g s).me.id = g := by
  unfold focus
  split
  · assumption
  · exact findCore_id ..

theorem coreOf_onCore (g : Nat) (f : State → State) (s : State) (k : Nat) :
    coreOf (onCore g f s) k = coreOf (f (focus g s)) k := coreOf_focus ..

@[simp] theorem onCore_me_id (g : Nat) (f : State → State) (s : State) : (onCore g f s).me.id = s.me.id := focus_me_id ..

theorem coreOf_me (s : State) : coreOf s s.me.id = s.me := by simp [coreOf]

/-! What a step of the machinery leaves of the map, its windows, the host's replies, the fills and the idle cores. -/

/-- What the map's changes and their windows turn on of a state. -/
structure Steady where
  rmap    : RMap
  time    : Nat
  parts   : List (PartConfig × Nat × Option Nat)
  quiet   : List (Nat × BitVec 384)
  retrain : Option Nat
  ports   : List (Nat × Port)
  power   : Power
  dieFw   : BitVec 256
  flash   : Flash
  fabric  : Nat

/-- That part of a state. -/
def steady (s : State) : Steady :=
  { rmap := s.rmap, time := s.time, parts := s.parts.map fun p => (p.cfg, p.acked, p.window), quiet := s.quiet, retrain := s.retrain,
    ports := s.ports, power := s.power, dieFw := s.dieFw, flash := s.flash, fabric := s.fabric }

/-- No version that is still FILLING has its fill handle on module `m`. -/
def NoFillOn (m : Nat) (s : State) : Prop := ∀ v ∈ s.versions, v.state = .filling → v.holder ≠ .away m

/-- `u` comes from `b` without a change of the map, its windows and what stands beside them; what the host was told stands, no other module
gets a fill, no core gets a task. -/
def Stays (b u : State) : Prop :=
  steady u = steady b ∧ b.hostOut <+: u.hostOut ∧ (∀ m, NoFillOn m b → NoFillOn m u)
    ∧ ∀ g, (coreOf b g).run = .idle → (coreOf u g).run = .idle

theorem Stays.refl (s : State) : Stays s s := ⟨rfl, ⟨[], List.append_nil _⟩, fun _ h => h, fun _ h => h⟩

theorem Stays.trans {a b c : State} (h : Stays a b) (k : Stays b c) : Stays a c :=
  let ⟨e, o, n, i⟩ := h
  let ⟨e2, o2, n2, i2⟩ := k
  ⟨e2.trans e, o.trans o2, fun m hm => n2 m (n m hm), fun g hg => i2 g (i g hg)⟩

theorem stays_foldl {α : Type} {f : State → α → State} {b : State} (hf : ∀ u a, Stays b u → Stays b (f u a)) (l : List α) {s : State}
    (h : Stays b s) : Stays b (l.foldl f s) := by
  induction l generalizing s with
  | nil => exact h
  | cons a rest ih => exact ih (hf s a h)

/-- The moving core's own part, in the state that another state of the same view has. -/
theorem coreOf_run_outer {s u : State} (e : outer u = outer s) (g : Nat) : (coreOf u g).run = (coreOf s g).run := by
  have hid : u.me.id = s.me.id := congrArg (fun t => t.me.id) e
  have hrun : u.me.run = s.me.run := congrArg (fun t => t.me.run) e
  have ho : u.others = s.others := (congrArg State.others e :)
  unfold coreOf
  rw [hid, ho]
  split
  · exact hrun
  · rfl

theorem steady_outer (s : State) : steady (outer s) = steady s := by
  simp [steady, outer, uncounted, Function.comp_def]

/-- The memory machine's work. -/
theorem stays_outer {b s u : State} (h : Stays b s) (e : outer u = outer s) : Stays b u := by
  refine h.trans ⟨?_, ?_, fun m hm => ?_, fun g hg => (coreOf_run_outer e g).trans hg⟩
  · rw [← steady_outer u, e, steady_outer]
  · have ho : u.hostOut = s.hostOut := (congrArg State.hostOut e :)
    exact ⟨[], (List.append_nil _).trans ho.symm⟩
  · have hv : u.versions = s.versions := (congrArg State.versions e :)
    rw [NoFillOn, hv]; exact hm

/-- Another state of the moving core that gives it no task. -/
theorem stays_me {b s : State} (h : Stays b s) {c : Core} (hid : c.id = s.me.id) (hrun : s.me.run = .idle → c.run = .idle) :
    Stays b { s with me := c } := by
  refine h.trans ⟨rfl, ⟨[], List.append_nil _⟩, fun _ hm => hm, fun g hg => ?_⟩
  unfold coreOf at hg ⊢
  simp only [hid]
  split
  · rename_i e; simp only [e, if_true] at hg; exact hrun hg
  · rename_i e; simpa only [e, if_false] using hg

theorem stays_focus {b s : State} (h : Stays b s) (g : Nat) : Stays b (focus g s) := by
  have hi : ∀ k, (coreOf s k).run = .idle → (coreOf (focus g s) k).run = .idle := fun k hk => by rwa [coreOf_focus]
  unfold focus at hi ⊢
  split
  · exact h
  · rename_i e
    rw [if_neg e] at hi
    exact h.trans ⟨rfl, ⟨[], List.append_nil _⟩, fun _ hm => hm, hi⟩

theorem stays_onCore {b s : State} {f : State → State} (hf : ∀ u, Stays b u → Stays b (f u)) (h : Stays b s) (g : Nat) :
    Stays b (onCore g f s) := stays_focus (hf _ (stays_focus h g)) _

end Sys2Proof.Machine
end

section
namespace Sys2Proof.Machine

/-! The rules of `Stays` for versions, handles and tasks that leave: none of them changes the map or gives a core a task. -/
section
variable {b s : State}

/-! Versions. -/

/-- Freed versions are dropped; none comes to be FILLING. -/
theorem NoFillOn.freeVersions {m : Nat} (h : NoFillOn m s) : NoFillOn m (freeVersions s) :=
  fun v hv => h v (List.mem_filter.1 hv).1

theorem stays_freeVersions (h : Stays b s) : Stays b (freeVersions s) :=
  h.trans ⟨rfl, ⟨[], List.append_nil _⟩, fun _ hm => NoFillOn.freeVersions hm, fun _ hg => hg⟩

theorem stays_updVer (h : Stays b s) (n : Nat) {f : Version → Version}
    (hf : ∀ v, (f v).state = .filling → v.state = .filling ∧ (f v).holder = v.holder) : Stays b (updVer s n f) := by
  refine h.trans ⟨rfl, ⟨[], List.append_nil _⟩, fun m hm v hv hs => ?_, fun _ hg => hg⟩
  obtain ⟨w, hw, rfl⟩ := List.mem_map.1 hv
  by_cases e : w.id = n
  · rw [if_pos e] at hs ⊢
    obtain ⟨hs2, hh⟩ := hf w hs
    rw [hh]; exact hm w hw hs2
  · rw [if_neg e] at hs ⊢; exact hm w hw hs

theorem stays_abandonVer (h : Stays b s) (n : Nat) : Stays b (abandonVer s n) :=
  stays_freeVersions (stays_updVer h n fun v hv => by split at hv <;> simp_all)

theorem stays_newVersion (h : Stays b s) (part n k : Nat) {o : Holder} (ho : ∀ m, o ≠ .away m) :
    Stays b (newVersion s part n k o).1 := by
  refine stays_freeVersions (h.trans ⟨rfl, ⟨[], List.append_nil _⟩, fun m hm v hv hs => ?_, fun _ hg => hg⟩)
  obtain rfl | hv := List.mem_cons.1 hv
  · exact ho m
  · obtain ⟨w, hw, rfl⟩ := List.mem_map.1 hv
    by_cases e : w.part = part ∧ w.name = n
    · rw [if_pos e] at hs ⊢; exact hm w hw hs
    · rw [if_neg e] at hs ⊢; exact hm w hw hs

theorem stays_dropSee (h : Stays b s) (x : Handle) : Stays b (dropSee s x) := by
  unfold dropSee; split
  · exact h
  · split
    · exact stays_freeVersions (stays_updVer h _ fun v hv => ⟨hv, rfl⟩)
    · exact stays_outer h (by simp)

theorem stays_abandonHandle (h : Stays b s) (x : Handle) : Stays b (abandonHandle s x) := by
  unfold abandonHandle; split
  · exact h
  · split
    · exact stays_abandonVer h _
    · exact stays_outer h (by simp)

theorem stays_killHandle (h : Stays b s) (x : Handle) : Stays b (killHandle s x) := by
  unfold killHandle; split
  · exact stays_abandonHandle h x
  · exact stays_dropSee h x

theorem stays_killHandles (h : Stays b s) (d : Nat) (e : HReg) : Stays b (killHandles s d e) :=
  stays_outer (stays_foldl (fun _ x hu => stays_killHandle hu x) _ h) rfl

/-! Tasks leave. -/

theorem stays_vacate (h : Stays b s) : Stays b { s with me := s.me.vacate } := stays_me h rfl fun _ => rfl

theorem stays_killMe (h : Stays b s) : Stays b (killMe s) := by
  have k := stays_killHandles (stays_outer h (outer_writeBackAll s)) 0 .empty
  unfold killMe; dsimp only
  generalize killHandles (writeBackAll s) 0 .empty = t at k ⊢
  exact stays_vacate (s := { t with crews := _, launches := _, spostq := _ }) k

theorem stays_asTask {f : State → State} (hf : ∀ u, Stays b u → Stays b (f u)) (h : Stays b s) (t : Task) : Stays b (asTask t f s) :=
  stays_me (hf _ (stays_me h (c := { s.me with task := t }) rfl id)) rfl id

theorem stays_killSaved (h : Stays b s) (v : Saved) : Stays b (killSaved s v) := by
  have k := stays_asTask (fun _ hu => stays_foldl (fun _ x hw => stays_killHandle hw x) (handlesFrom v.core.regs 0) hu) h v.core.task
  exact k

theorem stays_updLaunch (h : Stays b s) (l : Nat) (f : Launch → Launch) : Stays b (updLaunch s l f) := h

theorem stays_cancelRest (h : Stays b s) (l : Nat) : Stays b (cancelRest s l) := by
  unfold cancelRest; split
  · exact h
  · refine stays_updLaunch (stays_asTask (fun _ hu => ?_) h _) ..
    exact stays_foldl (fun _ _ hw => stays_foldl (fun _ x hx => stays_killHandle hx x) _ hw) _ hu

theorem stays_updPart (h : Stays b s) (n : Nat) {f : Partition → Partition}
    (hf : ∀ p, ((f p).cfg, (f p).acked, (f p).window) = (p.cfg, p.acked, p.window)) : Stays b (updPart s n f) := by
  refine h.trans ⟨?_, ⟨[], List.append_nil _⟩, fun _ hm => hm, fun _ hg => hg⟩
  have e : ∀ p, (fun p : Partition => (p.cfg, p.acked, p.window)) (if p.cfg.part = n then f p else p) = (p.cfg, p.acked, p.window) := by
    intro p; split
    · exact hf p
    · rfl
  simp only [steady, updPart, List.map_map, Function.comp_def, e]

theorem stays_acceptLaunch (h : Stays b s) (p o a : Nat) (r : LaunchRec) (c : Bool) : Stays b (acceptLaunch s p o a r c).1 := by
  unfold acceptLaunch; dsimp only
  exact stays_updPart (s := { s with launches := _ }) h _ fun _ => rfl

theorem takeArrival_keeps (p : Partition) (e : Pending) :
    ((takeArrival p e).cfg, (takeArrival p e).acked, (takeArrival p e).window) = (p.cfg, p.acked, p.window) := by
  unfold takeArrival; split <;> rfl

theorem stays_acceptRest (n : Nat) {s : State} (h : Stays b s) (p : Nat) : Stays b (acceptRest n s p) := by
  induction n generalizing s with
  | zero => exact h
  | succ k ih =>
    unfold acceptRest; split
    · exact h
    · exact ih (stays_acceptLaunch (stays_updPart h _ fun q => takeArrival_keeps q _) ..)

/-! The rebuild. -/

theorem undoOne_id (c : Core) (u : Undo) : (undoOne c u).id = c.id := by unfold undoOne; (repeat' split) <;> rfl
theorem undoOne_run (c : Core) (u : Undo) : (undoOne c u).run = c.run := by unfold undoOne; (repeat' split) <;> rfl

theorem foldl_undoOne_id (l : List Rewind) (c : Core) : (l.foldl (fun d e => undoOne d e.undo) c).id = c.id := by
  induction l generalizing c with
  | nil => rfl
  | cons e rest ih => exact (ih _).trans (undoOne_id ..)

theorem foldl_undoOne_run (l : List Rewind) (c : Core) : (l.foldl (fun d e => undoOne d e.undo) c).run = c.run := by
  induction l generalizing c with
  | nil => rfl
  | cons e rest ih => exact (ih _).trans (undoOne_run ..)

theorem rewindTo_id (c : Core) (f : Nat) : (rewindTo c f).id = c.id := foldl_undoOne_id ..
theorem rewindTo_run (c : Core) (f : Nat) : (rewindTo c f).run = c.run := foldl_undoOne_run ..
theorem toLogical_id (c : Core) (pc : Word) (l : Nat) (e : Engine) : (c.toLogical pc l e).id = c.id := by
  unfold Core.toLogical; split <;> rfl
theorem toLogical_run (c : Core) (pc : Word) (l : Nat) (e : Engine) : (c.toLogical pc l e).run = c.run := by
  unfold Core.toLogical; split <;> rfl

theorem stays_rebuildTo (h : Stays b s) (f : Nat) (pc : Word) (e : Engine) (o : Option Nat) : Stays b (rebuildTo s f pc e o) := by
  have k : Stays b { s with me := sortTransit (rewindTo s.me f) f } :=
    stays_me h (rewindTo_id ..) fun hr => (rewindTo_run s.me f).trans hr
  unfold rebuildTo; dsimp only
  generalize { s with me := sortTransit (rewindTo s.me f) f } = u at k ⊢
  have kt : Stays b (fireAll (settleQueues u f o)) := stays_outer k (by simp)
  generalize fireAll (settleQueues u f o) = t at kt ⊢
  exact stays_me kt (toLogical_id ..) fun hr => (toLogical_run ..).trans hr

theorem stays_killNow (h : Stays b s) : Stays b (killNow s) := by
  unfold killNow; split
  · exact stays_killMe (stays_rebuildTo h ..)
  · exact stays_killMe h
  · exact stays_killMe h
  · exact stays_killMe h
  · exact h

theorem stays_killContext (h : Stays b s) (p : Nat) : Stays b (killContext s p) := by
  unfold killContext
  refine stays_foldl (fun _ _ hu => stays_cancelRest hu _) _ (stays_foldl (fun _ v hu => stays_killSaved hu v) _
    (stays_foldl (fun u c hu => ?_) _ (stays_acceptRest _ h p)))
  split
  · exact stays_onCore (fun _ hw => stays_killNow hw) hu _
  · exact hu

end
end Sys2Proof.Machine
end

section
namespace Sys2Proof.Machine

/-! What follows a unit's failure: a core's task goes, a Damask engine's homes move, a lost module's fills are abandoned. Each keeps `Stays`. -/
section
variable {b s : State}

/-! A core that fails. -/

theorem me_id_outer {s u : State} (e : outer u = outer s) : u.me.id = s.me.id := (congrArg (fun t => t.me.id) e :)

theorem dropSee_me_id (s : State) (x : Handle) : (dropSee s x).me.id = s.me.id := by
  unfold dropSee; split
  · rfl
  · split
    · rfl
    · exact me_id_outer (outer_sendSure ..)

theorem abandonHandle_me_id (s : State) (x : Handle) : (abandonHandle s x).me.id = s.me.id := by
  unfold abandonHandle; split
  · rfl
  · split
    · rfl
    · exact me_id_outer (outer_sendSure ..)

theorem killHandle_me_id (s : State) (x : Handle) : (killHandle s x).me.id = s.me.id := by
  unfold killHandle; split
  · exact abandonHandle_me_id s x
  · exact dropSee_me_id s x

theorem foldl_killHandle_me_id (l : List Handle) (s : State) : (l.foldl killHandle s).me.id = s.me.id := by
  induction l generalizing s with
  | nil => rfl
  | cons x rest ih => exact (ih _).trans (killHandle_me_id ..)

theorem killHandles_me_id (s : State) (d : Nat) (e : HReg) : (killHandles s d e).me.id = s.me.id :=
  foldl_killHandle_me_id (handlesFrom s.me.regs d) s

theorem coreOf_killMe (s : State) : (coreOf (killMe s) s.me.id).run = .idle := by
  have k : (killHandles (writeBackAll s) 0 .empty).me.id = s.me.id :=
    (killHandles_me_id ..).trans (me_id_outer (outer_writeBackAll s))
  rw [← k]
  unfold killMe; dsimp only
  generalize killHandles (writeBackAll s) 0 .empty = t
  exact congrArg Core.run (coreOf_me { t with me := t.me.vacate, crews := _, launches := _, spostq := _ })

/-- A fault that kills its task whatever the policy says. -/
theorem stays_faultPolicy (h : Stays b s) (r : Raise) (told : FaultRec) : Stays b (faultPolicy s r true told) := by
  have k : Stays b (killMe (noteFault s s.me.task.launch told)) := stays_killMe h
  unfold faultPolicy; dsimp only; split
  · exact k
  · exact stays_cancelRest k _
  · exact stays_updLaunch k ..
  · exact stays_killContext k _

theorem coreOf_faultPolicy (s : State) (r : Raise) (told : FaultRec) : (coreOf (faultPolicy s r true told) s.me.id).run = .idle := by
  have k := coreOf_killMe (noteFault s s.me.task.launch told)
  unfold faultPolicy; dsimp only; split
  · exact k
  · exact (stays_cancelRest (.refl _) _).2.2.2 _ k
  · exact k
  · exact (stays_killContext (.refl _) _).2.2.2 _ k

theorem stays_tellImage (h : Stays b s) (r : FaultRec) : Stays b (tellImage s r) :=
  h.trans ⟨rfl, ⟨_, rfl⟩, fun _ hm => hm, fun _ hg => hg⟩

theorem stays_killFailed (h : Stays b s) (x : UnitId) : Stays b (killFailed s x) := stays_faultPolicy (stays_tellImage h _) ..

theorem coreOf_killFailed (s : State) (x : UnitId) : (coreOf (killFailed s x) s.me.id).run = .idle := coreOf_faultPolicy ..

theorem stays_unstart (h : Stays b s) : Stays b (unstart s) := by
  unfold unstart; split
  · exact stays_vacate h
  · exact stays_vacate (s := { s with saved := _ }) h

theorem coreOf_unstart (s : State) : (coreOf (unstart s) s.me.id).run = .idle := by
  have e : (unstart s).me = s.me.vacate := by unfold unstart; split <;> rfl
  have hid : (unstart s).me.id = s.me.id := by rw [e]; rfl
  rw [← hid, coreOf_me, e]; rfl

/-- A failed core's state as it is left to its task: what only its L1 held is poisoned, its queues are gone. -/
def strippedCore (t : State) : State :=
  let u := (dirtySectors t).foldl (fun x sec => setMark x (64 * sec) .poison) t
  { u with me := { u.me with l1 := [], lqC := [], sqC := [], sqS := [], posts := [] } }

/-- What becomes of the task of the moving core, which has failed. -/
def failTask (x : UnitId) (t : State) : State :=
  match t.me.run with
  | .idle => t
  | .starting => unstart t
  | .halted tag sound => { t with me := t.me.vacate, saved := t.saved ++ [imageOf t t.me .debugger none tag sound] }
  | _ => killFailed t x

/-- No saved task is assigned to core `g`. -/
def unassignCore (s : State) (g : Nat) : State :=
  { s with saved := s.saved.map fun v => if v.onCore = some g then { v with onCore := none } else v }

theorem failCore_eq (s : State) (g : Nat) (x : UnitId) :
    failCore s g x = onCore g (fun t => failTask x (strippedCore t)) (unassignCore s g) := rfl

theorem outer_strippedCore (t : State) : outer (strippedCore t) = outer t :=
  (outer_foldl (f := fun x sec => setMark x (64 * sec) .poison) (fun _ _ => rfl) (dirtySectors t) t :)

theorem stays_failTask (h : Stays b s) (x : UnitId) : Stays b (failTask x s) := by
  unfold failTask; split
  · exact h
  · exact stays_unstart h
  · exact stays_vacate (s := { s with saved := _ }) h
  · exact stays_killFailed h x

theorem coreOf_failTask (s : State) (x : UnitId) : (coreOf (failTask x s) s.me.id).run = .idle := by
  unfold failTask; split
  · rename_i hr; rw [coreOf_me]; exact hr
  · exact coreOf_unstart s
  · exact congrArg Core.run (coreOf_me { s with me := s.me.vacate, saved := _ })
  · exact coreOf_killFailed s x

theorem stays_failCore (h : Stays b s) (g : Nat) (x : UnitId) : Stays b (failCore s g x) := by
  have k : Stays b (unassignCore s g) := h
  rw [failCore_eq]
  exact stays_onCore (fun _ hu => stays_failTask (stays_outer hu (outer_strippedCore _)) x) k g

theorem coreOf_failCore (s : State) (g : Nat) (x : UnitId) : (coreOf (failCore s g x) g).run = .idle := by
  rw [failCore_eq, coreOf_onCore]
  have k := coreOf_failTask (strippedCore (focus g (unassignCore s g))) x
  rwa [me_id_outer (outer_strippedCore _), focus_me_id] at k

/-! Map-handlers. -/

theorem stays_writeNotice (h : Stays b s) (part : Nat) : Stays b (writeNotice s part) := by
  unfold writeNotice; split
  · exact h
  · split
    · exact h
    · exact stays_outer h (outer_writeAt ..)

theorem stays_noteHandler (h : Stays b s) (part bit : Nat) : Stays b (noteHandler s part bit) := by
  unfold noteHandler; split
  · exact h
  · extract_lets live t n a
    have k : Stays b t := stays_writeNotice (stays_updPart h _ (by intro; rfl)) _
    split
    · exact stays_writeNotice (stays_updPart h _ (by intro; rfl)) _
    · exact stays_updPart (stays_acceptLaunch k ..) _ (by intro; rfl)

theorem stays_settleRoom (h : Stays b s) : Stays b (settleRoom s) := by
  refine stays_foldl (fun u l hu => ?_) _ h
  extract_lets open_ lack dead w
  have k : Stays b w := hu
  split
  · exact stays_noteHandler k _ _
  · exact k

/-! Damask engines. -/

theorem outer_resolveAt (s : State) (p : Partition) (a : Nat) (wr : Bool) : outer (resolveAt s p a wr).1 = outer s := by
  unfold resolveAt; (repeat' split) <;> simp

theorem outer_resolveRuns (p : Partition) (wr : Bool) (l : List (Nat × Nat)) (s : State) :
    outer (resolveRuns s p l wr).1 = outer s := by
  induction l generalizing s with
  | nil => rfl
  | cons r rest ih =>
    obtain ⟨a, n⟩ := r
    have k := outer_resolveAt s p a wr
    unfold resolveRuns
    split <;> rename_i e <;> rw [e] at k
    · exact k
    · exact (ih _).trans k

@[simp] theorem outer_pathRead (s : State) (p : Partition) (a n : Nat) : outer (pathRead s p a n).1 = outer s := by
  have k := outer_resolveRuns p false (runs a n) s
  unfold pathRead
  split <;> rename_i e <;> rw [e] at k
  · exact k
  · dsimp only at k ⊢; split
    · split <;> simp [k]
    · simp [k]

theorem outer_writeKeys (part : Nat) (ks : List (Nat × Nat)) (bs : List Byte) (s : State) : outer (writeKeys s part ks bs) = outer s := by
  induction ks generalizing s bs with
  | nil => rfl
  | cons k rest ih => exact (ih ..).trans (outer_homeWrite ..)

@[simp] theorem outer_pathWrite (s : State) (p : Partition) (a : Nat) (bs : List Byte) : outer (pathWrite s p a bs).1 = outer s := by
  have k := outer_resolveRuns p true (runs a bs.length) s
  unfold pathWrite
  split <;> rename_i e <;> rw [e] at k
  · exact k
  · exact (outer_writeKeys ..).trans k

theorem outer_publish64 (n : Nat) (h : ParamHome) (o : Nat) (bs : List Byte) (s : State) : outer (publish64 n s h o bs) = outer s := by
  induction n generalizing s o bs with
  | zero => rfl
  | succ k ih =>
    unfold publish64; split
    · rfl
    · rw [ih]; split <;> simp

@[simp] theorem outer_copyShadow (s : State) (p : Partition) (h : ParamHome) : outer (copyShadow s p h) = outer s := by
  refine outer_foldl (fun u x => ?_) _ _
  have k := outer_pathRead u p (h.desc.shadow.toNat + pubOff h.desc x) (blockElems * pubBytes h.desc)
  dsimp only
  split <;> rename_i e <;> rw [e] at k
  · exact (outer_publish64 ..).trans k
  · exact k

theorem stays_setHome (h : Stays b s) (k : ParamHome) : Stays b (setHome s k) := h

/-- The publication versions opened so far, with the state that they stand in. -/
def openOne (h : ParamHome) (acc : Option (State × List Nat)) (j : Nat) : Option (State × List Nat) :=
  match acc with
  | none => none
  | some (t, l) =>
    let n := (tileName h.desc.ptile.toNat).getD 0 + j * 2 ^ h.desc.pk
    if tileFits t h.desc n then
      let v := newVersion t h.desc.part n h.desc.pk (.home h.desc.part h.desc.die)
      some (v.1, l ++ [v.2.ver])
    else none

theorem openTiles_eq (s : State) (h : ParamHome) : openTiles s h =
    match (List.range (pubTiles h.desc)).foldl (openOne h) (some (s, [])) with
    | some (t, l) => (t, { h with versions := l })
    | none => (s, { h with versions := [] }) := rfl

theorem stays_openOne (k : ParamHome) (l : List Nat) {acc : Option (State × List Nat)} (h : ∀ r, acc = some r → Stays b r.1) :
    ∀ r, l.foldl (openOne k) acc = some r → Stays b r.1 := by
  induction l generalizing acc with
  | nil => exact h
  | cons j rest ih =>
    refine ih fun r hr => ?_
    unfold openOne at hr
    split at hr
    · cases hr
    · rename_i t l
      dsimp only at hr
      split at hr
      · cases hr; exact stays_newVersion (h _ rfl) _ _ _ fun _ => by simp
      · cases hr

theorem stays_openTiles (h : Stays b s) (k : ParamHome) : Stays b (openTiles s k).1 := by
  rw [openTiles_eq]
  split
  · rename_i e; exact stays_openOne k _ (fun r hr => by cases hr; exact h) _ e
  · exact h

theorem stays_promote (h : Stays b s) (k : ParamHome) : Stays b (promote s k) := by
  unfold promote; split
  · exact h
  · exact stays_setHome (stays_outer (stays_openTiles h _) (outer_copyShadow ..)) _

theorem stays_updTaskRegs (h : Stays b s) (l n : Nat) (f : Regs → Regs) : Stays b (updTaskRegs s l n f) := by
  unfold updTaskRegs; split
  · exact stays_onCore (fun _ hu => stays_outer hu (outer_mapRegs ..)) h _
  · exact h

theorem stays_settleBlock (h : Stays b s) (o r : Retained) : Stays b (settleBlock s o r) := by
  unfold settleBlock; extract_lets done; split
  · have k : Stays b { s with retained := replaceFirst o [] s.retained } := h
    exact stays_updTaskRegs k ..
  · exact h

theorem stays_redirectBlock (h : Stays b s) (r : Retained) : Stays b (redirectBlock s r) := by
  unfold redirectBlock; (repeat' split)
  · exact stays_settleBlock h ..
  · exact stays_settleBlock h ..
  · exact h

theorem stays_writeStats (h : Stays b s) : Stays b (writeStats s) := by
  refine stays_foldl (fun u k hu => ?_) _ h
  split
  · exact stays_outer hu (outer_pathWrite ..)
  · exact hu

theorem stays_engineLost (h : Stays b s) (m die : Nat) : Stays b (engineLost s m die) := by
  unfold engineLost; extract_lets gone t u w
  have kt : Stays b t := stays_foldl (fun _ k hv => stays_foldl (fun _ n hw => stays_abandonVer hw n) k.versions hv) _ h
  have ku : Stays b u := kt
  have kw : Stays b w := stays_writeStats (stays_foldl (fun _ k hv => stays_promote hv k) _ ku)
  exact stays_foldl (fun _ r hv => stays_redirectBlock hv r) _ kw

/-! A module that leaves. -/

/-- The fills that a lost module held are abandoned. -/
def abandonAway (s : State) (m : Nat) : State :=
  (s.versions.filter fun v => v.holder == .away m).foldl (fun u v => abandonVer u v.id) s

theorem stays_abandonAway (h : Stays b s) (m : Nat) : Stays b (abandonAway s m) := stays_foldl (fun _ v hu => stays_abandonVer hu v.id) _ h

/-- What is known here of a lost module's versions and handles is dropped. -/
def forgetModule (t : State) (m : Nat) : State :=
  freeVersions { t with versions := t.versions.map (unseen m), eras := reassoc t.eras m (eraOf t m + 1),
                        lostAt := reassoc t.lostAt m t.time, known := t.known.filter fun e => e.1.1 != m }

theorem stays_forgetModule (h : Stays b s) (m : Nat) : Stays b (forgetModule s m) := by
  refine stays_freeVersions (h.trans ⟨rfl, ⟨[], List.append_nil _⟩, fun n hn v hv hs => ?_, fun _ hg => hg⟩)
  obtain ⟨w, hw, rfl⟩ := List.mem_map.1 hv
  exact hn w hw hs

theorem moduleLost_eq (s : State) (m : Nat) :
    moduleLost s m = engineLost (engineLost (forgetModule (abandonAway s m) m) m 0) m 1 := rfl

theorem stays_moduleLost (h : Stays b s) (m : Nat) : Stays b (moduleLost s m) :=
  stays_engineLost (stays_engineLost (stays_forgetModule (stays_abandonAway h m) m) m 0) m 1

/-- What is still FILLING after an abandonment was so before, and is another version. -/
theorem filling_abandonVer {s : State} {n : Nat} {v : Version} (hv : v ∈ (abandonVer s n).versions) (hs : v.state = .filling) :
    v ∈ s.versions ∧ v.id ≠ n := by
  obtain ⟨w, hw, rfl⟩ := List.mem_map.1 (List.mem_filter.1 hv).1
  by_cases e : w.id = n
  · rw [if_pos e] at hs; dsimp only at hs; split at hs <;> contradiction
  · rw [if_neg e]; exact ⟨hw, e⟩

theorem filling_foldl_abandonVer (l : List Version) {s : State} {v : Version}
    (hv : v ∈ (l.foldl (fun u w => abandonVer u w.id) s).versions) (hs : v.state = .filling) :
    v ∈ s.versions ∧ ∀ w ∈ l, v.id ≠ w.id := by
  induction l generalizing s with
  | nil => exact ⟨hv, by simp⟩
  | cons w rest ih =>
    obtain ⟨h1, h2⟩ := ih hv
    obtain ⟨h3, h4⟩ := filling_abandonVer h1 hs
    exact ⟨h3, by simpa using ⟨h4, h2⟩⟩

/-- Every fill that a lost module held is abandoned (13 R275). -/
theorem noFillOn_abandonAway (s : State) (m : Nat) : NoFillOn m (abandonAway s m) := by
  intro v hv hs hh
  obtain ⟨h1, h2⟩ := filling_foldl_abandonVer _ hv hs
  exact h2 v (by simpa using ⟨h1, hh⟩) rfl

theorem noFillOn_moduleLost (s : State) (m : Nat) : NoFillOn m (moduleLost s m) := by
  have k : Stays (abandonAway s m) (moduleLost s m) :=
    stays_engineLost (stays_engineLost (stays_forgetModule (.refl _) m) m 0) m 1
  exact k.2.2.1 m (noFillOn_abandonAway s m)

theorem stays_tellPeers (h : Stays b s) (die : Nat) : Stays b (tellPeers s die) :=
  stays_outer h (outer_foldl (fun _ _ => outer_sendFrom ..) _ _)

theorem stays_follow (h : Stays b s) (c : MapChange) : Stays b (follow s c) := by
  unfold follow; split
  · exact stays_engineLost (stays_tellPeers h _) ..
  · exact stays_moduleLost h _
  · exact stays_outer h (outer_rvTrim s)
  · exact h

end
end Sys2Proof.Machine
end

section
namespace Sys2Proof.Machine
section
variable {b s : State}

/-! A change made and published: `publishChange` is `withdraw`, the record written (`mapRecorded`), and machinery that keeps `Stays`, so the
new record stands as it was written. -/

theorem getLsbD_putBit {n : Nat} (v : BitVec n) {i : Nat} (b : Bool) (hi : i < n) (j : Nat) :
    (putBit v i b).getLsbD j = if j = i then b else v.getLsbD j := by
  have k : (1#n <<< i).getLsbD j = decide (j = i) := by
    by_cases e : j = i
    · subst e; simp [hi]
    · have : j < i ∨ j - i ≠ 0 := by omega
      rcases this with h | h <;> simp [e, h]
  cases b with
  | true => simp only [putBit, if_true, BitVec.getLsbD_or, k]; by_cases e : j = i <;> simp [e]
  | false =>
    simp only [putBit, Bool.false_eq_true, if_false, BitVec.getLsbD_and, BitVec.getLsbD_not, k]
    by_cases e : j = i
    · simp [e]
    · by_cases hj : j < n
      · simp [e, hj]
      · simp [e, BitVec.getLsbD_of_ge v j (Nat.le_of_not_lt hj)]

/-- Whether the units that a change names lie within their masks. -/
def unitsFit (c : MapChange) : Bool :=
  match c with
  | .core g _ => decide (g < 384)
  | .l2 d n _ => decide (48 * d + n < 96)
  | .bank d n _ => decide (48 * d + n < 96)
  | .channel d n _ => decide (96 * d + n < 192)
  | .port n _ => decide (n < 24)
  | .damask d _ => decide (d < 2)
  | _ => true

theorem unitsFit_of_moves {c : MapChange} (h : moves s c = true) : unitsFit c = true := by
  unfold moves at h
  unfold unitsFit
  split <;> simp only [Bool.and_eq_true, decide_eq_true_eq] at h ⊢ <;> omega

/-- What a change reads of the state. -/
theorem changeMap_congr {s t : State} (hm : t.rmap = s.rmap) (hq : t.quiet = s.quiet) (c : MapChange) :
    changeMap t c = changeMap s c := by
  unfold changeMap; rw [hm, hq]

/-- The ports that a change leaves. -/
def portsAfter (s : State) (c : MapChange) : List (Nat × Port) :=
  match c with
  | .port n false => unassoc s.ports n
  | _ => s.ports

/-- What stops before the record is written touches the ports alone of what the map turns on. -/
theorem steady_withdraw (s : State) (c : MapChange) (x : UnitId) : steady (withdraw s c x) = { steady s with ports := portsAfter s c } := by
  unfold withdraw
  split
  · rfl
  · exact (stays_failCore (.refl s) _ x).1
  · rfl
  · rename_i h1 h2 h3
    have e : portsAfter s c = s.ports := by
      unfold portsAfter; split
      · exact absurd rfl (h3 _)
      · rfl
    rw [e]; rfl

/-- A window opened for a change, where none runs. -/
def windowOpened (v : Nat) (p : Partition) : Partition :=
  if p.acked < v ∧ p.window = none then { p with window := some (1000 * Config.ackWindow) } else p

/-- The record written and the windows opened, before the map-handlers hear of it. -/
def mapRecorded (s : State) (cause : Nat) (unit : Option UnitId) (m : RMap) : State :=
  { s with rmap := { m with version := s.rmap.version + 1, time := s.time, cause := cause, unit := unit },
           parts := s.parts.map (windowOpened (s.rmap.version + 1)) }

theorem publish_eq (s : State) (cause : Nat) (unit : Option UnitId) (m : RMap) : publish s cause unit m =
    settleRoom ((mapRecorded s cause unit m).parts.foldl (fun u p => noteHandler u p.cfg.part cause) (mapRecorded s cause unit m)) := rfl

theorem stays_publish (s : State) (cause : Nat) (unit : Option UnitId) (m : RMap) :
    Stays (mapRecorded s cause unit m) (publish s cause unit m) := by
  rw [publish_eq]
  exact stays_settleRoom (stays_foldl (fun _ _ hu => stays_noteHandler hu _ _) _ (.refl _))

/-- The state as a change has stopped what it stops. -/
def withdrawn (s : State) (u : Option UnitId) (c : MapChange) : State :=
  withdraw s c (u.getD { kind := 0, module := s.fabric, die := 0, index := 0 })

theorem steady_withdrawn (s : State) (x : Option UnitId) (c : MapChange) :
    steady (withdrawn s x c) = { steady s with ports := portsAfter s c } := steady_withdraw s c _

theorem stays_publishChange (s : State) (cause : Nat) (x : Option UnitId) (c : MapChange) :
    Stays (mapRecorded (withdrawn s x c) cause (unitOfChange s c x) (changeMap s c)) (publishChange s cause x c) := by
  have e := steady_withdrawn s x c
  have hm : changeMap (withdrawn s x c) c = changeMap s c := changeMap_congr (congrArg Steady.rmap e) (congrArg Steady.quiet e) c
  rw [← hm]
  exact stays_follow (stays_publish ..) c

end

/-- The bits that a change leaves in a mask of the map. -/
theorem changeMap_core (s : State) {g : Nat} (b : Bool) (h : g < 384) (j : Nat) :
    (changeMap s (.core g b)).cores.getLsbD j = if j = g then b else s.rmap.cores.getLsbD j := getLsbD_putBit _ b h j

theorem setSlice_l2 (m : RMap) (d n : Nat) (b : Bool) : (setSlice m d n b).l2 = putBit m.l2 (48 * d + n) b := by
  cases b <;> rfl

theorem changeMap_l2 (s : State) {d n : Nat} (b : Bool) (h : 48 * d + n < 96) (j : Nat) :
    (changeMap s (.l2 d n b)).l2.getLsbD j = if j = 48 * d + n then b else s.rmap.l2.getLsbD j := by
  rw [changeMap, setSlice_l2]; exact getLsbD_putBit _ b h j

theorem changeMap_aclk (s : State) (c : MapChange) :
    (changeMap s c).aclk = match c with | .clock f => f | _ => s.rmap.aclk := by
  cases c with
  | l2 d n b => cases b <;> rfl
  | clusters d b => cases b <;> rfl
  | _ => rfl

theorem changeMap_gone (s : State) (f : Nat) (j : Bool) (m : Nat) :
    m ∈ (changeMap s (.module f j)).gone ↔ (m ∈ s.rmap.gone ∧ m ≠ f) ∨ (j = false ∧ m = f) := by
  cases j
  · simp only [changeMap, Bool.false_eq_true, if_false, List.mem_cons, List.mem_filter, bne_iff_ne, ne_eq, true_and]; exact or_comm
  · simp [changeMap]

theorem changeMap_cores_of {c : MapChange} (h1 : ∀ g b, c ≠ .core g b) (h2 : ∀ d b, c ≠ .clusters d b) (s : State) :
    (changeMap s c).cores = s.rmap.cores := by
  unfold changeMap setSlice
  cases c with
  | core g b => exact absurd rfl (h1 g b)
  | clusters d b => exact absurd rfl (h2 d b)
  | l2 d n b => dsimp only; split <;> rfl
  | _ => rfl

theorem changeMap_l2_of {c : MapChange} (h : ∀ d n b, c ≠ .l2 d n b) (s : State) :
    (changeMap s c).l2 = s.rmap.l2 ∧ (changeMap s c).homes = s.rmap.homes := by
  unfold changeMap
  cases c with
  | l2 d n b => exact absurd rfl (h d n b)
  | clusters d b => dsimp only; split <;> exact ⟨rfl, rfl⟩
  | _ => exact ⟨rfl, rfl⟩

/-- A partition that has a window to be opened stands in the published state with it. -/
theorem windowOpened_of_stays {s t u : State} {cause : Nat} {unit : Option UnitId} {m : RMap} (h : Stays (mapRecorded t cause unit m) u)
    (hm : t.rmap = s.rmap) (hp : (steady t).parts = (steady s).parts) {p : Partition} (hps : p ∈ s.parts)
    (ha : p.acked ≤ s.rmap.version) (hw : p.window = none) :
    ∃ q ∈ u.parts, q.cfg = p.cfg ∧ q.window = some (1000 * Config.ackWindow) := by
  have k1 : (p.cfg, p.acked, p.window) ∈ (steady t).parts := hp ▸ List.mem_map_of_mem hps
  obtain ⟨p1, hp1, e1⟩ := List.mem_map.1 k1
  simp only [Prod.mk.injEq] at e1
  obtain ⟨ec, ea, ew⟩ := e1
  have e : windowOpened (t.rmap.version + 1) p1 = { p1 with window := some (1000 * Config.ackWindow) } := by
    unfold windowOpened; rw [if_pos]; rw [ea, ew, hm]; exact ⟨by omega, hw⟩
  have k2 : windowOpened (t.rmap.version + 1) p1 ∈ (mapRecorded t cause unit m).parts := List.mem_map_of_mem hp1
  have k3 : (p1.cfg, p1.acked, some (1000 * Config.ackWindow)) ∈ (steady u).parts := by
    rw [h.1]; exact List.mem_map.2 ⟨_, k2, by rw [e]⟩
  obtain ⟨q, hq, eq⟩ := List.mem_map.1 k3
  simp only [Prod.mk.injEq] at eq
  exact ⟨q, hq, eq.1.trans ec, eq.2.2⟩

/-- A change made and published is what the record shows: VERSION, TIME, CAUSE and UNIT, the changed bit, and every window opened. -/
theorem published_of_stays {s t u : State} {cause : Nat} {unit : Option UnitId} {c : MapChange}
    (h : Stays (mapRecorded t cause unit (changeMap s c)) u) (hm : t.rmap = s.rmap) (ht : t.time = s.time)
    (hp : (steady t).parts = (steady s).parts) (hc : unitsFit c = true) : Claims.Published s u cause unit c := by
  have hr : u.rmap = { changeMap s c with version := s.rmap.version + 1, time := s.time, cause := cause, unit := unit } := by
    rw [← hm, ← ht]; exact congrArg Steady.rmap h.1
  unfold Claims.Published
  rw [hr]
  refine ⟨rfl, rfl, rfl, rfl, ?_, ?_, ?_, ?_, ?_, ?_, changeMap_aclk s c, ?_, fun h1 h2 => changeMap_cores_of h1 h2 s,
    fun h1 => changeMap_l2_of h1 s, fun p hps ha hw => windowOpened_of_stays h hm hp hps ha hw⟩
  · rintro g b rfl; exact changeMap_core s b (of_decide_eq_true hc)
  · rintro d n b rfl; exact changeMap_l2 s b (of_decide_eq_true hc)
  · rintro d n b rfl; exact getLsbD_putBit _ b (of_decide_eq_true hc)
  · rintro d n b rfl; exact getLsbD_putBit _ b (of_decide_eq_true hc)
  · rintro n b rfl; exact getLsbD_putBit _ b (of_decide_eq_true hc)
  · rintro d b rfl; exact getLsbD_putBit _ b (of_decide_eq_true hc)
  · rintro f j rfl; exact changeMap_gone s f j

/-- What a published change comes to. -/
theorem published_publishChange (s : State) (cause : Nat) (x : Option UnitId) {c : MapChange} (hc : unitsFit c = true) :
    Claims.Published s (publishChange s cause x c) cause (unitOfChange s c x) c := by
  have e := steady_withdrawn s x c
  have hm : (withdrawn s x c).rmap = s.rmap := congrArg Steady.rmap e
  have ht : (withdrawn s x c).time = s.time := congrArg Steady.time e
  have hp : (steady (withdrawn s x c)).parts = (steady s).parts := (congrArg Steady.parts e :)
  exact published_of_stays (stays_publishChange s cause x c) hm ht hp hc

end Sys2Proof.Machine
end

section
namespace Sys2Proof.Machine

/-! Forced stops that reach every running core, and what a published change leaves of the state beside the record. -/

/-! Forced stops asked for. -/

theorem mem_insertStop {x c : SaveCause} {l : List SaveCause} : x ∈ insertStop c l ↔ x = c ∨ x ∈ l := by
  induction l with
  | nil => simp [insertStop]
  | cons d rest ih =>
    unfold insertStop
    split
    · rename_i e; subst e; simp
    · split
      · simp
      · simp only [List.mem_cons, ih]; exact or_left_comm

theorem focus_me (s : State) (g : Nat) : (focus g s).me = coreOf s g := by
  have h := coreOf_me (focus g s)
  rw [focus_me_id, coreOf_focus] at h
  exact h.symm

/-- A core of whose task a stop is asked for. -/
def Core.asked (c : Core) (cause : SaveCause) : Core :=
  if c.run = .idle ∨ c.run = .exiting then c else { c with stops := insertStop cause c.stops }

theorem asked_id (c : Core) (cause : SaveCause) : (c.asked cause).id = c.id := by unfold Core.asked; split <;> rfl

theorem coreOf_with_me (t : State) {c : Core} (h : c.id = t.me.id) (k : Nat) :
    coreOf { t with me := c } k = if k = t.me.id then c else coreOf t k := by
  unfold coreOf
  simp only [h, eq_comm (a := k)]
  split <;> rfl

theorem askStop_eq (s : State) (g : Nat) (cause : SaveCause) :
    askStop s g cause = focus s.me.id { focus g s with me := (focus g s).me.asked cause } := by
  unfold askStop onCore Core.asked
  generalize focus g s = t
  dsimp only
  split <;> rfl

theorem coreOf_askStop (s : State) (g : Nat) (cause : SaveCause) (k : Nat) :
    coreOf (askStop s g cause) k = if k = g then (coreOf s g).asked cause else coreOf s k := by
  rw [askStop_eq, coreOf_focus, coreOf_with_me _ (asked_id ..), focus_me_id, focus_me, coreOf_focus]

/-- A state with other cores. -/
def SameButCores (s u : State) : Prop := ∃ c l, u = { s with me := c, others := l }

theorem SameButCores.refl (s : State) : SameButCores s s := ⟨s.me, s.others, rfl⟩

theorem SameButCores.trans {a b c : State} (h : SameButCores a b) (k : SameButCores b c) : SameButCores a c := by
  obtain ⟨m, l, rfl⟩ := h
  obtain ⟨m2, l2, rfl⟩ := k
  exact ⟨m2, l2, rfl⟩

theorem sameButCores_focus (s : State) (g : Nat) : SameButCores s (focus g s) := by
  unfold focus; split
  · exact .refl s
  · exact ⟨_, _, rfl⟩

theorem sameButCores_askStop (s : State) (g : Nat) (cause : SaveCause) : SameButCores s (askStop s g cause) := by
  rw [askStop_eq]
  exact ((sameButCores_focus s g).trans ⟨_, _, rfl⟩).trans (sameButCores_focus _ _)

theorem sameButCores_askStops (cause : SaveCause) (l : List Nat) (s : State) :
    SameButCores s (l.foldl (fun t g => askStop t g cause) s) := by
  induction l generalizing s with
  | nil => exact .refl s
  | cons g rest ih => exact (sameButCores_askStop s g cause).trans (ih _)

theorem run_askStop (s : State) (g : Nat) (cause : SaveCause) (k : Nat) : (coreOf (askStop s g cause) k).run = (coreOf s k).run := by
  rw [coreOf_askStop]
  split
  · rename_i e; subst e; unfold Core.asked; split <;> rfl
  · rfl

theorem stops_askStop {x : SaveCause} {s : State} {k : Nat} (g : Nat) (cause : SaveCause) (h : x ∈ (coreOf s k).stops) :
    x ∈ (coreOf (askStop s g cause) k).stops := by
  rw [coreOf_askStop]
  split
  · rename_i e; subst e; unfold Core.asked; split
    · exact h
    · exact mem_insertStop.2 (.inr h)
  · exact h

theorem stops_askStops {x : SaveCause} (cause : SaveCause) (l : List Nat) {s : State} {k : Nat} (h : x ∈ (coreOf s k).stops) :
    x ∈ (coreOf (l.foldl (fun t g => askStop t g cause) s) k).stops := by
  induction l generalizing s with
  | nil => exact h
  | cons g rest ih => exact ih (stops_askStop g cause h)

/-- Every running core of a list has the stop among those asked for. -/
theorem asked_of_mem (cause : SaveCause) {l : List Nat} {s : State} {k : Nat} (hk : k ∈ l) (hr : (coreOf s k).run = .running) :
    cause ∈ (coreOf (l.foldl (fun t g => askStop t g cause) s) k).stops := by
  induction l generalizing s with
  | nil => cases hk
  | cons g rest ih =>
    by_cases e : k = g
    · subst e
      refine stops_askStops cause rest ?_
      rw [coreOf_askStop, if_pos rfl]
      simp [Core.asked, hr, mem_insertStop]
    · exact ih ((List.mem_cons.1 hk).resolve_left e) ((run_askStop ..).trans hr)

/-! What a published change leaves of the state. -/

theorem rmap_publishChange (s : State) (cause : Nat) (x : Option UnitId) (c : MapChange) : (publishChange s cause x c).rmap =
    { changeMap s c with version := s.rmap.version + 1, time := s.time, cause := cause, unit := unitOfChange s c x } := by
  have e := steady_withdrawn s x c
  have hm : (withdrawn s x c).rmap = s.rmap := congrArg Steady.rmap e
  have ht : (withdrawn s x c).time = s.time := congrArg Steady.time e
  rw [← hm, ← ht]
  exact congrArg Steady.rmap (stays_publishChange s cause x c).1

theorem ports_publishChange (s : State) (cause : Nat) (x : Option UnitId) (c : MapChange) :
    (publishChange s cause x c).ports = portsAfter s c :=
  (congrArg Steady.ports (stays_publishChange s cause x c).1).trans (congrArg Steady.ports (steady_withdrawn s x c))

theorem quiet_publishChange (s : State) (cause : Nat) (x : Option UnitId) (c : MapChange) :
    (publishChange s cause x c).quiet = s.quiet :=
  (congrArg Steady.quiet (stays_publishChange s cause x c).1).trans (congrArg Steady.quiet (steady_withdrawn s x c))

theorem retrain_publishChange (s : State) (cause : Nat) (x : Option UnitId) (c : MapChange) :
    (publishChange s cause x c).retrain = s.retrain :=
  (congrArg Steady.retrain (stays_publishChange s cause x c).1).trans (congrArg Steady.retrain (steady_withdrawn s x c))

theorem power_publishChange (s : State) (cause : Nat) (x : Option UnitId) (c : MapChange) :
    (publishChange s cause x c).power = s.power :=
  (congrArg Steady.power (stays_publishChange s cause x c).1).trans (congrArg Steady.power (steady_withdrawn s x c))

/-- A core that leaves the map has no task. -/
theorem idle_publishChange (s : State) (cause : Nat) (x : UnitId) (g : Nat) :
    (coreOf (publishChange s cause (some x) (.core g false)) g).run = .idle := by
  have k : (coreOf (withdrawn s (some x) (.core g false)) g).run = .idle := coreOf_failCore s g x
  obtain ⟨-, -, -, hi⟩ := stays_publishChange s cause (some x) (.core g false)
  exact hi g k

theorem follow_module (s : State) (f : Nat) : follow s (.module f false) = moduleLost s f := rfl

/-- A module that leaves the map holds no fill. -/
theorem noFillOn_publishChange (s : State) (cause : Nat) (x : Option UnitId) (f : Nat) :
    NoFillOn f (publishChange s cause x (.module f false)) := by
  rw [publishChange, follow_module]
  exact noFillOn_moduleLost _ f

theorem assoc_unassoc {β : Type} (l : List (Nat × β)) (k : Nat) : assoc (unassoc l k) k = none := by
  unfold assoc unassoc
  rw [List.find?_filter]
  simp

theorem published_returned {s u : State} {cause : Nat} {x : Option UnitId} {c : MapChange} (h : Claims.Published s u cause x c)
    (d : MapChange) : Claims.Published s (returned u d) cause x c := by
  unfold returned; split <;> exact h

end Sys2Proof.Machine
end

section
namespace Sys2Proof.Machine
open Sys2Proof.Claims

/-! Failures, publications, and the retraining of channels and ports (20 R379, R381-R383). -/
section
variable {s : State}

/-! A unit fails, a version is published. -/

/-- A failed unit of a shared structure is counted at host level (17 R337). -/
def sharedCounted (s : State) (x : UnitId) : State :=
  if sharedKind x.kind then hostBump s (if x.kind = 6 then 4 else 2) else s

theorem published_sharedCounted {u : State} {cause : Nat} {unit : Option UnitId} {c : MapChange} (x : UnitId)
    (h : Published (sharedCounted s x) u cause unit c) : Published s u cause unit c := by
  unfold sharedCounted at h; split at h <;> exact h

theorem fabric_sharedCounted (s : State) (x : UnitId) : (sharedCounted s x).fabric = s.fabric := by
  unfold sharedCounted; split <;> rfl

theorem unitOfChange_congr {s t : State} (h : t.fabric = s.fabric) (c : MapChange) (x : Option UnitId) :
    unitOfChange t c x = unitOfChange s c x := by unfold unitOfChange; rw [h]

theorem unitFailure_leaves (hr : s.stage = .ready) {x : UnitId} (hx : x.module = s.fabric) (he : unitExists x = true)
    (hm : moves s (changeOf x false) = true ∨ x.kind = 0x0A ∨ x.kind = 0x0B)
    (hp : x.kind = 5 → holdsPage s (96 * x.die + x.index) = false) : ∃ u : State, exec (.unitFailure x) s = .next u
      ∧ Published s u 1 (unitOfChange s (changeOf x false) (some x)) (changeOf x false)
      ∧ (x.kind = 1 → (coreOf u (x.index / 4)).run = .idle) := by
  have hc : unitsFit (changeOf x false) = true := by
    obtain h | h | h := hm
    · exact unitsFit_of_moves h
    · simp [changeOf, h, unitsFit]
    · simp [changeOf, h, unitsFit]
  have hn : ¬ (x.kind = 5 ∧ holdsPage s (96 * x.die + x.index) = true) := fun h => by simp [hp h.1] at h
  refine ⟨publishChange (sharedCounted s x) 1 (some x) (changeOf x false), ?_, ?_, fun hk => ?_⟩
  · change execUnitFailure x s = _
    unfold execUnitFailure
    rw [if_pos ⟨hr, hx, he, hm⟩, if_neg hn]
    rfl
  · rw [← unitOfChange_congr (fabric_sharedCounted s x)]
    exact published_sharedCounted x (published_publishChange _ 1 (some x) hc)
  · have e : changeOf x false = .core (x.index / 4) false := by simp [changeOf, hk]
    rw [e]; exact idle_publishChange _ 1 x _

theorem unitFailure_waits (hr : s.stage = .ready) {x : UnitId} (hx : x.module = s.fabric) (he : unitExists x = true)
    (hm : moves s (changeOf x false) = true ∨ x.kind = 0x0A ∨ x.kind = 0x0B)
    (hk : x.kind = 5) (hp : holdsPage s (96 * x.die + x.index) = true) : ∃ u : State, exec (.unitFailure x) s = .next u
      ∧ u.rmap = s.rmap ∧ u.me = s.me ∧ u.mem = s.mem ∧ u.parts = s.parts
      ∧ ∀ j, u.failing.getLsbD j = (s.failing.getLsbD j || decide (j = 96 * x.die + x.index)) := by
  have hb : 96 * x.die + x.index < 192 := by
    simp only [unitExists, hk, Bool.and_eq_true, decide_eq_true_eq] at he; omega
  refine ⟨{ s with failing := putBit s.failing (96 * x.die + x.index) true }, ?_, rfl, rfl, rfl, rfl, fun j => ?_⟩
  · change execUnitFailure x s = _
    unfold execUnitFailure
    rw [if_pos ⟨hr, hx, he, hm⟩, if_pos ⟨hk, hp⟩]
    rfl
  · rw [getLsbD_putBit _ _ hb]
    by_cases e : j = 96 * x.die + x.index <;> simp [e]

theorem unitFailure_unknown {x : UnitId} (he : unitExists x = false) : exec (.unitFailure x) s = .next s := by
  change execUnitFailure x s = _
  unfold execUnitFailure
  rw [if_neg (by simp [he])]; rfl

theorem mapPublish_publishes (hr : s.stage = .ready) {cause : Nat} {x : Option UnitId} {c : MapChange}
    (h : causeOk s cause x c = true) :
    ∃ u : State, exec (.mapPublish cause x c) s = .next u ∧ Published s u cause (unitOfChange s c x) c := by
  have hm : moves s c = true := by simp only [causeOk, Bool.and_eq_true] at h; exact h.1.1
  refine ⟨returned (publishChange s cause x c) c, ?_, published_returned (published_publishChange s cause x (unitsFit_of_moves hm)) c⟩
  change execMapPublish cause x c s = _
  unfold execMapPublish
  rw [if_pos ⟨hr, h⟩]; rfl

theorem mapPublish_refused {cause : Nat} {x : Option UnitId} {c : MapChange} (h : causeOk s cause x c = false) :
    exec (.mapPublish cause x c) s = .next s := by
  change execMapPublish cause x c s = _
  unfold execMapPublish
  rw [if_neg (by simp [h])]; rfl

/-! A channel and a port are trained again. -/

/-- The unit ID of a GDDR-7 channel of this module. -/
def channelUnit (s : State) (die ch : Nat) : UnitId := { kind := 5, module := s.fabric, die := die, index := ch }

/-- A channel once the pages asked for have moved. -/
def channelLeaves (s : State) (die ch : Nat) (r : State × Bool) : State :=
  match r with
  | (t, true) =>
    if holdsPage t (96 * die + ch) then t
    else if t.failing.getLsbD (96 * die + ch) then publishChange t 1 (some (channelUnit s die ch)) (.channel die ch false)
    else publishChange { t with retrain := some (96 * die + ch) } 2 (some (channelUnit s die ch)) (.channel die ch false)
  | (t, false) => t

theorem channelRetraining_leave (hr : s.stage = .ready) {die ch : Nat} (ms : List PageMove)
    (hm : moves s (.channel die ch false) = true) (hf : s.failing.getLsbD (96 * die + ch) = true ∨ s.retrain = none) :
    exec (.gddr7ChannelRetraining die ch .leave ms) s = .next (channelLeaves s die ch (movePages s ms)) := by
  change execGddr7ChannelRetraining die ch .leave ms s = _
  unfold execGddr7ChannelRetraining
  dsimp only
  rw [if_neg (by simp [hr]), if_pos ⟨hm, by simpa using hf⟩]
  rfl

theorem channelRetraining_taken {die ch : Nat} (ms : List PageMove) (hf : s.failing.getLsbD (96 * die + ch) = false)
    (hn : s.retrain ≠ none) : exec (.gddr7ChannelRetraining die ch .leave ms) s = .next s := by
  change execGddr7ChannelRetraining die ch .leave ms s = _
  unfold execGddr7ChannelRetraining
  dsimp only
  rw [if_neg (c := _ ∧ _) (by simp [hf, hn])]
  split <;> rfl

theorem channelLeaves_published {die ch : Nat} (hm : moves s (.channel die ch false) = true) {t : State}
    (hh : holdsPage t (96 * die + ch) = false) :
    Published t (channelLeaves s die ch (t, true)) (if t.failing.getLsbD (96 * die + ch) then 1 else 2) (some (channelUnit s die ch))
      (.channel die ch false)
    ∧ (t.failing.getLsbD (96 * die + ch) = false → (channelLeaves s die ch (t, true)).retrain = some (96 * die + ch)) := by
  have k := fun t cause => published_publishChange t cause (some (channelUnit s die ch)) (unitsFit_of_moves hm)
  unfold channelLeaves
  dsimp only
  rw [if_neg (by simp [hh])]
  by_cases hf : t.failing.getLsbD (96 * die + ch) = true
  · rw [if_pos hf, if_pos hf]; exact ⟨k t 1, fun h => by simp [h] at hf⟩
  · rw [if_neg hf, if_neg hf]; exact ⟨k { t with retrain := some (96 * die + ch) } 2, fun _ => retrain_publishChange ..⟩

theorem channelRetraining_back (hr : s.stage = .ready) {die ch : Nat} (ms : List PageMove)
    (hm : moves s (.channel die ch true) = true) : ∃ u : State, exec (.gddr7ChannelRetraining die ch .back ms) s = .next u
      ∧ Published s u 3 (some (channelUnit s die ch)) (.channel die ch true) ∧ u.retrain ≠ some (96 * die + ch) := by
  let t : State := { s with retrain := s.retrain.filter fun r => r != 96 * die + ch }
  refine ⟨publishChange t 3 (some (channelUnit s die ch)) (.channel die ch true), ?_,
    published_publishChange t 3 (some (channelUnit s die ch)) (unitsFit_of_moves hm), ?_⟩
  · change execGddr7ChannelRetraining die ch .back ms s = _
    unfold execGddr7ChannelRetraining
    dsimp only
    rw [if_neg (by simp [hr]), if_pos hm]
    rfl
  · rw [retrain_publishChange]
    simp [t, Option.filter_eq_some_iff]

/-- The unit ID of a Rurel port of this module. -/
def portUnit (s : State) (n : Nat) : UnitId := { kind := 6, module := s.fabric, die := n / 12, index := 4 * n }

theorem unitExists_portUnit {n : Nat} (h : n < 24) (s : State) : unitExists (portUnit s n) = true := by
  have hd : n / 12 < 2 := by omega
  have hi : 4 * n / 4 < 24 := by omega
  exact Bool.and_eq_true_iff.2 ⟨decide_eq_true hd, decide_eq_true hi⟩

theorem changeOf_portUnit (s : State) (n : Nat) (b : Bool) : changeOf (portUnit s n) b = .port n b := by
  simp [changeOf, portUnit]

theorem portRetraining_leave (hr : s.stage = .ready) {n : Nat} (hm : moves s (.port n false) = true)
    (hu : inUse s (.port n false) = false) : ∃ u : State, exec (.rurelPortRetraining n .leave) s = .next u
      ∧ Published s u 2 (some (portUnit s n)) (.port n false) ∧ assoc u.ports n = none := by
  have hc := unitsFit_of_moves hm
  have ok : causeOk s 2 (some (portUnit s n)) (.port n false) = true := by
    simp [causeOk, hm, hu, changeOf_portUnit, unitExists_portUnit (of_decide_eq_true hc)]
  refine ⟨publishChange s 2 (some (portUnit s n)) (.port n false), ?_, published_publishChange s 2 (some (portUnit s n)) hc, ?_⟩
  · change execRurelPortRetraining n .leave s = _
    unfold execRurelPortRetraining
    dsimp only
    rw [if_neg (by simp [hr]), ← portUnit, if_pos ok]
    rfl
  · rw [ports_publishChange]; exact assoc_unassoc ..

theorem portRetraining_back (hr : s.stage = .ready) {n : Nat} (hm : moves s (.port n true) = true) :
    ∃ u : State, exec (.rurelPortRetraining n .back) s = .next u
      ∧ Published s u 3 (some (portUnit s n)) (.port n true) ∧ (assoc u.ports n).map Port.grant = some 512 := by
  have hc := unitsFit_of_moves hm
  have ok : causeOk s 3 (some (portUnit s n)) (.port n true) = true := by
    simp [causeOk, hm, changeOf_portUnit, unitExists_portUnit (of_decide_eq_true hc)]
  refine ⟨returned (publishChange s 3 (some (portUnit s n)) (.port n true)) (.port n true), ?_,
    published_returned (published_publishChange s 3 (some (portUnit s n)) hc) _, ?_⟩
  · change execRurelPortRetraining n .back s = _
    unfold execRurelPortRetraining
    dsimp only
    rw [if_neg (by simp [hr]), ← portUnit, if_pos ok]
    rfl
  · simp [returned, assoc, reassoc, trained]

/-! A module is replaced. -/

theorem moduleReplacement_eq (hr : s.stage = .ready) {f : Nat} (p : ServicePhase) {j : Bool}
    (hj : j = match p with | .leave => false | .back => true) (hm : moves s (.module f j) = true) :
    exec (.moduleReplacement f p) s = .next (publishChange s 6 none (.module f j)) := by
  subst hj
  change execModuleReplacement f p s = _
  unfold execModuleReplacement
  dsimp only
  rw [if_pos ⟨hr, hm⟩]
  rfl

end
end Sys2Proof.Machine
end

section
namespace Sys2Proof.Machine
open Sys2Proof.Claims

/-! A die's firmware replaced, and all the changes of the map together. -/
section
variable {s : State}

/-! A die's firmware is replaced. -/

theorem getLsbD_dieMask (die g : Nat) : (dieMask die).getLsbD g = decide (g < 384 ∧ g / 192 = die) := by
  unfold dieMask
  rw [BitVec.getLsbD_ofNat, Nat.testBit_mul_two_pow, Nat.testBit_two_pow_sub_one]
  rw [Bool.eq_iff_iff]
  simp only [Bool.and_eq_true, decide_eq_true_eq]
  omega

theorem mem_liveOn {die g : Nat} : g ∈ liveOn s die ↔ g / 192 = die ∧ coreLive s g = true := by
  unfold liveOn
  simp only [List.mem_filter, List.mem_map, List.mem_range]
  constructor
  · rintro ⟨⟨i, hi, rfl⟩, hl⟩; exact ⟨by omega, hl⟩
  · rintro ⟨rfl, hl⟩; exact ⟨⟨g % 192, by omega, by omega⟩, hl⟩

theorem firmwareUpdate_busy {die : Nat} (i : FwImage) (h : ∃ q ∈ s.quiet, q.1 ≠ die ∨ q.2 ≠ 0) :
    exec (.dieFirmwareUpdate die .leave i) s = .next s := by
  have ha : (s.quiet.any fun q => q.1 != die || q.2 != 0) = true := by simpa using h
  change execDieFirmwareUpdate die .leave i s = _
  unfold execDieFirmwareUpdate
  dsimp only
  rw [if_pos ha]
  split <;> rfl

theorem firmwareUpdate_invalid {die : Nat} {i : FwImage} (h : imageOk s i = false) :
    exec (.dieFirmwareUpdate die .back i) s = .next s := by
  change execDieFirmwareUpdate die .back i s = _
  unfold execDieFirmwareUpdate
  dsimp only
  rw [if_neg (c := _ ∧ _) (by simp [h])]
  split <;> rfl

/-- The state as a die takes no new work, with the cores `gone` that left with it. -/
def quieted (s : State) (die : Nat) (gone : BitVec 384) : State :=
  { s with quiet := (die, gone) :: s.quiet.filter fun q => q.1 != die }

/-- Whether a live core of a die still has a task. -/
def dieInUse (s : State) (die : Nat) : Bool := (liveOn s die).any fun g => inUse s (.core g false)

theorem firmwareUpdate_leave (hr : s.stage = .ready) {die : Nat} (hd : die < 2) (i : FwImage)
    (h : ∀ q ∈ s.quiet, q.1 = die ∧ q.2 = 0) : exec (.dieFirmwareUpdate die .leave i) s = .next (
      if dieInUse s die then (liveOn s die).foldl (fun u g => askStop u g .class0) (quieted s die 0)
      else publishChange (quieted s die (s.rmap.cores &&& dieMask die)) 2 none (.clusters die false)) := by
  have ha : ¬ (s.quiet.any fun q => q.1 != die || q.2 != 0) = true := by simpa [Classical.or_iff_not_imp_left] using h
  change execDieFirmwareUpdate die .leave i s = _
  unfold execDieFirmwareUpdate
  dsimp only
  rw [if_neg (by simp [hr, hd]), if_neg ha]
  rfl

theorem firmwareUpdate_stops {die : Nat} : ∃ u : State,
    u = (liveOn s die).foldl (fun u g => askStop u g .class0) (quieted s die 0)
      ∧ (∃ q ∈ u.quiet, q.1 = die) ∧ u.rmap = s.rmap ∧ u.mem = s.mem
      ∧ ∀ g ∈ liveOn s die, (coreOf s g).run = .running → SaveCause.class0 ∈ (coreOf u g).stops := by
  obtain ⟨c, l, e⟩ := sameButCores_askStops .class0 (liveOn s die) (quieted s die 0)
  refine ⟨_, rfl, ?_, ?_, ?_, fun g hg hrun => asked_of_mem .class0 hg hrun⟩
  · rw [e]; exact ⟨(die, 0), List.mem_cons_self, rfl⟩
  · rw [e]; rfl
  · rw [e]; rfl

theorem published_clusters (s : State) (die : Nat) : ∃ u : State,
    u = publishChange (quieted s die (s.rmap.cores &&& dieMask die)) 2 none (.clusters die false)
      ∧ (∃ q ∈ u.quiet, q.1 = die)
      ∧ Published s u 2 (some { kind := 0, module := s.fabric, die := die, index := 0 }) (.clusters die false)
      ∧ ∀ g, g < 384 → u.rmap.cores.getLsbD g = (decide (g / 192 ≠ die) && s.rmap.cores.getLsbD g) := by
  refine ⟨_, rfl, ?_, published_publishChange (quieted s die _) 2 none rfl, fun g hg => ?_⟩
  · rw [quiet_publishChange]; exact ⟨_, List.mem_cons_self, rfl⟩
  · have e : (changeMap (quieted s die (s.rmap.cores &&& dieMask die)) (.clusters die false)).cores = s.rmap.cores &&& ~~~dieMask die := rfl
    rw [rmap_publishChange]
    dsimp only
    rw [e, BitVec.getLsbD_and, BitVec.getLsbD_not, getLsbD_dieMask, Bool.and_comm]
    simp [hg]

theorem firmwareUpdate_leaves (hr : s.stage = .ready) {die : Nat} (i : FwImage) (hd : die < 2)
    (h : ∀ q ∈ s.quiet, q.1 = die ∧ q.2 = 0) : ∃ u : State, exec (.dieFirmwareUpdate die .leave i) s = .next u
      ∧ (∃ q ∈ u.quiet, q.1 = die)
      ∧ ((∃ g ∈ liveOn s die, inUse s (.core g false) = true) → u.rmap = s.rmap ∧ u.mem = s.mem ∧
          ∀ g ∈ liveOn s die, (coreOf s g).run = .running → SaveCause.class0 ∈ (coreOf u g).stops)
      ∧ ((∀ g, g < 384 → g / 192 = die → coreLive s g = true → inUse s (.core g false) = false) →
          Published s u 2 (some { kind := 0, module := s.fabric, die := die, index := 0 }) (.clusters die false)
          ∧ ∀ g, g < 384 → u.rmap.cores.getLsbD g = (decide (g / 192 ≠ die) && s.rmap.cores.getLsbD g)) := by
  rw [firmwareUpdate_leave hr hd i h]
  by_cases hu : dieInUse s die = true
  · obtain ⟨u, e, hq, hm, hmem, hs⟩ := firmwareUpdate_stops (s := s) (die := die)
    rw [if_pos hu]
    refine ⟨u, by rw [e], hq, fun _ => ⟨hm, hmem, hs⟩, fun hn => ?_⟩
    obtain ⟨g, hg, hi⟩ := List.any_eq_true.1 hu
    obtain ⟨hgd, hl⟩ := mem_liveOn.1 hg
    rw [hn g (by omega) hgd hl] at hi; cases hi
  · obtain ⟨u, e, hq, hp, hc⟩ := published_clusters s die
    rw [if_neg hu]
    exact ⟨u, by rw [e], hq, fun hx => absurd (List.any_eq_true.2 hx) hu, fun _ => ⟨hp, hc⟩⟩

theorem firmwareUpdate_back (hr : s.stage = .ready) {die : Nat} {i : FwImage} {q : Nat × BitVec 384} (hd : die < 2) (hq : s.quiet = [q])
    (h1 : q.1 = die) (h2 : q.2 ≠ 0) (hi : imageOk s i = true) :
    ∃ u : State, exec (.dieFirmwareUpdate die .back i) s = .next u ∧ u.quiet = [] ∧ u.dieFw = i.digest ∧ u.flash.die = i
      ∧ Published s u 3 (some { kind := 0, module := s.fabric, die := die, index := 0 }) (.clusters die true)
      ∧ u.rmap.cores = s.rmap.cores ||| q.2 := by
  have ha : (s.quiet.any fun q => q.1 == die && q.2 != 0) = true := by simpa [hq, h1] using h2
  let t := publishChange s 3 none (.clusters die true)
  have hp : Published s t 3 (some { kind := 0, module := s.fabric, die := die, index := 0 }) (.clusters die true) :=
    published_publishChange s 3 none rfl
  have hc : t.rmap.cores = s.rmap.cores ||| q.2 := by
    have e : (changeMap s (.clusters die true)).cores = s.rmap.cores ||| q.2 := by simp [changeMap, hq, h1]
    rw [rmap_publishChange]; exact e
  refine ⟨{ t with quiet := t.quiet.filter fun q => q.1 != die, dieFw := i.digest, flash := { t.flash with die := i } },
    ?_, ?_, rfl, rfl, hp, hc⟩
  · change execDieFirmwareUpdate die .back i s = _
    unfold execDieFirmwareUpdate
    dsimp only
    rw [if_neg (by simp [hr, hd]), if_pos ⟨ha, hi⟩]
    rfl
  · have e : t.quiet = [q] := (quiet_publishChange ..).trans hq
    simp [e, h1]

end

/-- Failures, retraining and replacement (01 R23, 20 R379-R383). -/
theorem mapChanges : MapChanges := by
  intro s hr
  refine ⟨fun x hx he hm => ⟨unitFailure_leaves hr hx he hm, unitFailure_waits hr hx he hm⟩, fun x => unitFailure_unknown,
    fun cause x c => mapPublish_publishes hr, fun cause x c => mapPublish_refused, fun die ch ms => ⟨fun _ => channelRetraining_taken ms,
      fun hm hf t => ⟨fun ht hh => ?_, fun ht hh => ?_, fun ht => ?_⟩, channelRetraining_back hr ms⟩,
    fun n => ⟨portRetraining_leave hr, portRetraining_back hr⟩, fun f => ⟨fun hm => ?_, fun hm => ?_⟩,
    fun die i => firmwareUpdate_busy i, fun die i => firmwareUpdate_leaves hr i, fun die i q => firmwareUpdate_back hr,
    fun die i => firmwareUpdate_invalid⟩
  · rw [channelRetraining_leave hr ms hm hf, ht]
    exact ⟨_, rfl, channelLeaves_published hm hh⟩
  · rw [channelRetraining_leave hr ms hm hf, ht]; simp [channelLeaves, hh]
  · rw [channelRetraining_leave hr ms hm hf, ht]; rfl
  · exact ⟨_, moduleReplacement_eq hr .leave rfl hm, published_publishChange s 6 none rfl, noFillOn_publishChange s 6 none f⟩
  · exact ⟨_, moduleReplacement_eq hr .back rfl hm, published_publishChange s 6 none rfl⟩

end Sys2Proof.Machine
end

section
namespace Sys2Proof.Machine
open Sys2Proof.Claims

/-! The acknowledgement window of a context (20 R380). -/
section
variable {s : State}

/-! The window of a context. -/

theorem partOf_updPart {n : Nat} {p : Partition} (h : partOf s n = some p) {f : Partition → Partition} (hf : ∀ q, (f q).cfg = q.cfg) :
    partOf (updPart s n f) n = some (f p) := by
  have e : ∀ q : Partition, (if q.cfg.part = n then f q else q).cfg.part = q.cfg.part := fun q => by split <;> simp [hf]
  have hn : p.cfg.part = n := by simpa using List.find?_some h
  have k : (s.parts.map fun q => if q.cfg.part = n then f q else q).find? (fun q => q.cfg.part == n)
      = (partOf s n).map fun q => if q.cfg.part = n then f q else q := by
    rw [List.find?_map]; simp only [Function.comp_def, e]; rfl
  rw [h] at k
  exact k.trans (congrArg some (if_pos hn))

/-- A running core is among those that hold something. -/
theorem mem_allCores {g : Nat} (h : (coreOf s g).run ≠ .idle) : coreOf s g ∈ allCores s ∧ (coreOf s g).id = g := by
  unfold coreOf at h ⊢
  unfold allCores
  by_cases e : s.me.id = g
  · rw [if_pos e]; exact ⟨List.mem_cons_self, e⟩
  · rw [if_neg e] at h ⊢
    have hid := findCore_id s.others g
    refine ⟨List.mem_cons_of_mem _ (List.mem_filter.2 ⟨?_, by simpa [hid] using Ne.symm e⟩), hid⟩
    unfold findCore at h ⊢
    cases k : s.others.find? fun c => c.id == g with
    | none => rw [k] at h; exact absurd rfl h
    | some c => exact List.mem_of_find?_eq_some k

/-- The running tasks of a partition: the cores on which they stand. -/
def coresOn (s : State) (part : Nat) : List Nat := ((allCores s).filter fun c => c.run != .idle && c.task.part == part).map Core.id

theorem stopAll_eq (s : State) (part : Nat) (cause : SaveCause) : stopAll s part cause =
    let t := (coresOn s part).foldl (fun t g => askStop t g cause) s
    { t with saved := t.saved.map fun v => if v.core.task.part = part then { v with onCore := none } else v } := by
  have e : (allCores s).foldl (fun t c => if c.run != .idle && c.task.part == part then askStop t c.id cause else t) s
      = (coresOn s part).foldl (fun t g => askStop t g cause) s := by
    rw [coresOn, List.foldl_map, List.foldl_filter]
  unfold stopAll
  rw [e]

theorem stopAll_spec (s : State) (part : Nat) (cause : SaveCause) : ∃ u : State, stopAll s part cause = u
    ∧ u.mem = s.mem ∧ u.parts = s.parts ∧ u.events = s.events ∧ u.time = s.time
    ∧ (∀ g, (coreOf s g).run = .running → (coreOf s g).task.part = part → cause ∈ (coreOf u g).stops)
    ∧ ∀ v ∈ u.saved, v.core.task.part = part → v.onCore = none := by
  obtain ⟨c, l, e⟩ := sameButCores_askStops cause (coresOn s part) s
  refine ⟨_, stopAll_eq s part cause, ?_, ?_, ?_, ?_, fun g hr hp => ?_, fun v hv hp => ?_⟩
  · rw [e]
  · rw [e]
  · rw [e]
  · rw [e]
  · have hi : (coreOf s g).run ≠ .idle := by simp [hr]
    obtain ⟨hm, hid⟩ := mem_allCores hi
    exact asked_of_mem cause (List.mem_map.2 ⟨_, List.mem_filter.2 ⟨hm, by simp [hi, hp]⟩, hid⟩) hr
  · obtain ⟨w, -, rfl⟩ := List.mem_map.1 hv
    split at hp
    · rename_i k; rw [if_pos k]
    · rename_i k; exact absurd hp k

/-- A context's window closed. -/
def windowClosed (s : State) (part : Nat) : State := updPart s part fun q => { q with window := none }

/-- A context whose window has run out without its acknowledgement. -/
def windowExpired (s : State) (part : Nat) : State := updPart (windowClosed s part) part fun q => { q with suspended := true }

theorem ackWindowExpiry_runs {part : Nat} {p : Partition} (hp : partOf s part = some p) (hw : p.window = some 0) :
    exec (.ackWindowExpiry part) s = .next (if s.rmap.version ≤ p.acked then windowClosed s part
      else postEvent (stopAll (windowExpired s part) part .suspended) 0x0702 part (2 ^ 128) 0 0) := by
  change execAckWindowExpiry part s = _
  unfold execAckWindowExpiry expireWindow
  simp only [hp, hw, ne_eq, not_true_eq_false, if_false]
  rfl

theorem ackWindowExpiry_idle {part : Nat} {p : Partition} (hp : partOf s part = some p) (hw : p.window ≠ some 0) :
    exec (.ackWindowExpiry part) s = .next s := by
  change execAckWindowExpiry part s = _
  unfold execAckWindowExpiry expireWindow
  simp only [hp, hw, ne_eq, not_false_eq_true, if_true]
  rfl

theorem events_postEvent (s : State) (c p l f n : Nat) :
    ∃ e : EventMsg, (postEvent s c p l f n).events = s.events ++ [e] ∧ e.code = c ∧ e.part = p := ⟨_, rfl, rfl, rfl⟩

theorem ackWindowExpiry_closes {part : Nat} {p : Partition} (hp : partOf s part = some p) (hw : p.window = some 0) :
    ∃ (u : State) (q : Partition), exec (.ackWindowExpiry part) s = .next u ∧ partOf u part = some q
      ∧ q.window = none ∧ u.mem = s.mem
      ∧ (s.rmap.version ≤ p.acked → q.suspended = p.suspended ∧ u.events = s.events)
      ∧ (p.acked < s.rmap.version → q.suspended = true
        ∧ (∃ e : EventMsg, u.events = s.events ++ [e] ∧ e.code = 0x0702 ∧ e.part = part)
        ∧ (∀ g, (coreOf s g).run = .running → (coreOf s g).task.part = part → SaveCause.suspended ∈ (coreOf u g).stops)
        ∧ ∀ v ∈ u.saved, v.core.task.part = part → v.onCore = none) := by
  have hc : partOf (windowClosed s part) part = some { p with window := none } := partOf_updPart hp fun _ => rfl
  rw [ackWindowExpiry_runs hp hw]
  by_cases hv : s.rmap.version ≤ p.acked
  · rw [if_pos hv]
    exact ⟨_, _, rfl, hc, rfl, rfl, fun _ => ⟨rfl, rfl⟩, fun h => absurd hv (by omega)⟩
  · have hs : partOf (windowExpired s part) part = some { p with window := none, suspended := true } := partOf_updPart hc fun _ => rfl
    obtain ⟨u, e, hmem, hparts, hev, -, hstops, hsaved⟩ := stopAll_spec (windowExpired s part) part .suspended
    rw [if_neg hv, e]
    obtain ⟨m, hm, hcode, hpart⟩ := events_postEvent u 0x0702 part (2 ^ 128) 0 0
    rw [hev] at hm
    refine ⟨_, { p with window := none, suspended := true }, rfl, ?_, rfl, hmem, fun h => absurd h hv, fun _ =>
      ⟨rfl, ⟨m, hm, hcode, hpart⟩, hstops, hsaved⟩⟩
    rw [← hs]; exact congrArg (List.find? _) hparts

/-! The host's acknowledgement. -/

theorem hostMapAck_other {part v : Nat} {p : Partition} (hp : partOf s part = some p) (h : p.suspended = false ∨ v ≠ s.rmap.version) :
    exec (.hostMapAck part v) s = .next s := by
  change execHostMapAck part v s = _
  unfold execHostMapAck hostAck
  simp only [hp, if_pos h]
  rfl

/-- A suspended context as the host acknowledges the current version for it. -/
def hostAcked (s : State) (part : Nat) : State :=
  updPart (ackMap s part s.rmap.version) part fun q => { q with suspended := false, window := none }

theorem hostMapAck_resumes {part : Nat} {p : Partition} (hp : partOf s part = some p) (h : p.suspended = true) :
    exec (.hostMapAck part s.rmap.version) s = .next (releaseCause (hostAcked s part) part .suspended) := by
  change execHostMapAck part s.rmap.version s = _
  unfold execHostMapAck hostAck
  simp only [hp]
  rw [if_neg (by simp [h])]
  rfl

theorem partOf_hostAcked {part : Nat} {p : Partition} (hp : partOf s part = some p) : ∃ q, partOf (hostAcked s part) part = some q
    ∧ q.suspended = false ∧ q.window = none ∧ q.acked = max p.acked s.rmap.version := by
  have ha : partOf (ackMap s part s.rmap.version) part = some (if s.rmap.version ≤ p.acked then p else
      { p with acked := s.rmap.version, window := if s.rmap.version ≤ s.rmap.version then none else p.window }) :=
    partOf_updPart hp fun _ => by split <;> rfl
  refine ⟨_, partOf_updPart ha fun _ => rfl, rfl, rfl, ?_⟩
  dsimp only
  split
  · rename_i hv; exact (Nat.max_eq_left hv).symm
  · rename_i hv; exact (Nat.max_eq_right (Nat.le_of_not_le hv)).symm

/-- A core of a partition without the stops of a cause that has ended. -/
def dropStops (part : Nat) (cause : SaveCause) (c : Core) : Core :=
  if c.task.part = part ∧ c.run ≠ .idle then { c with stops := c.stops.filter fun x => x != cause } else c

theorem releaseCause_eq (s : State) (part : Nat) (cause : SaveCause) : releaseCause s part cause =
    { s with me := dropStops part cause s.me, others := s.others.map (dropStops part cause),
             saved := s.saved.map fun v =>
               if v.core.task.part = part then
                 { v with core := dropStops part cause v.core, release := v.release || v.cause == cause } else v } := rfl

theorem dropStops_id (part : Nat) (cause : SaveCause) (c : Core) : (dropStops part cause c).id = c.id := by
  unfold dropStops; split <;> rfl

theorem dropStops_task (part : Nat) (cause : SaveCause) (c : Core) : (dropStops part cause c).task = c.task := by
  unfold dropStops; split <;> rfl

theorem stops_dropStops {part : Nat} {cause : SaveCause} {c : Core} (hp : (dropStops part cause c).task.part = part)
    (hr : (dropStops part cause c).run ≠ .idle) : cause ∉ (dropStops part cause c).stops := by
  unfold dropStops at hr ⊢
  rw [dropStops_task] at hp
  split
  · simp
  · rename_i k; rw [if_neg k] at hr; exact absurd ⟨hp, hr⟩ k

theorem coreOf_releaseCause (s : State) (part : Nat) (cause : SaveCause) (g : Nat) :
    coreOf (releaseCause s part cause) g = dropStops part cause (coreOf s g) := by
  have hf : findCore (s.others.map (dropStops part cause)) g = dropStops part cause (findCore s.others g) := by
    unfold findCore
    rw [List.find?_map]
    simp only [Function.comp_def, dropStops_id]
    cases s.others.find? fun c => c.id == g with
    | none => simp [dropStops, Core.idle]
    | some c => rfl
  rw [releaseCause_eq]
  unfold coreOf
  simp only [dropStops_id, hf]
  split <;> rfl

theorem saved_releaseCause {part : Nat} {cause : SaveCause} {v : Saved} (hv : v ∈ s.saved) (hp : v.core.task.part = part)
    (hc : v.cause = cause) : ∃ w ∈ (releaseCause s part cause).saved, w.core.task = v.core.task ∧ w.release = true := by
  refine ⟨_, List.mem_map_of_mem hv, ?_⟩
  simp only [if_pos hp]
  exact ⟨dropStops_task .., by simp [hc]⟩

theorem hostMapAck_ends {part : Nat} {p : Partition} (hp : partOf s part = some p) (h : p.suspended = true) :
    ∃ (u : State) (q : Partition), exec (.hostMapAck part s.rmap.version) s = .next u
      ∧ partOf u part = some q ∧ q.suspended = false ∧ q.window = none ∧ q.acked = max p.acked s.rmap.version ∧ u.mem = s.mem
      ∧ (∀ g, (coreOf u g).task.part = part → (coreOf u g).run ≠ .idle → SaveCause.suspended ∉ (coreOf u g).stops)
      ∧ ∀ v ∈ s.saved, v.core.task.part = part → v.cause = .suspended → ∃ w ∈ u.saved, w.core.task = v.core.task ∧ w.release = true := by
  obtain ⟨q, hq, hs, hw, ha⟩ := partOf_hostAcked hp
  refine ⟨_, q, hostMapAck_resumes hp h, hq, hs, hw, ha, rfl, fun g hg hr => ?_,
    fun v hv hvp hc => saved_releaseCause (s := hostAcked s part) hv hvp hc⟩
  rw [coreOf_releaseCause] at hg hr ⊢
  exact stops_dropStops hg hr

end

/-- A context's window, and the host's acknowledgement (20 R380). -/
theorem mapWindows : MapWindows := fun _ _ _ hp =>
  ⟨ackWindowExpiry_closes hp, ackWindowExpiry_idle hp, fun _ => hostMapAck_other hp, hostMapAck_ends hp⟩

/-- Settles O46: every change is `publishChange`, whose record `published_publishChange` reads off; what the machinery does around it keeps
`Stays`. The windows follow from what `stopAll` and `releaseCause` do to each core. -/
theorem mapEvents : Obligations.MapEvents := ⟨mapChanges, mapWindows⟩

end Sys2Proof.Machine
end

section
namespace Sys2Proof.Machine
open Sys2Proof.Claims
section
variable {s : State}

/-! Clocks, heat and supply. -/

theorem clockDown_steps (hv : 1 ≤ s.rmap.version) (hc : 1250 ≤ s.rmap.aclk) :
    clockDown s = publishChange s 4 none (.clock (s.rmap.aclk - 250)) := if_pos ⟨by omega, hc⟩

theorem clockDown_rests (h : ¬ (1 ≤ s.rmap.version ∧ 1250 ≤ s.rmap.aclk)) : clockDown s = s := if_neg (by omega)

theorem thermalClockStep_eq : exec .thermalClockStep s = .next (clockDown s) := rfl

/-- A clock step tells the host nothing less than it has been told. -/
theorem hostOut_publishClock (s : State) (cause f : Nat) : s.hostOut <+: (publishChange s cause none (.clock f)).hostOut :=
  (stays_publishChange s cause none (.clock f)).2.1

theorem aclk_publishClock (s : State) (cause f : Nat) : (publishChange s cause none (.clock f)).rmap.aclk = f := by
  rw [rmap_publishChange]; rfl

theorem aclk_clockDown (s : State) :
    (clockDown s).rmap.aclk = if 1 ≤ s.rmap.version ∧ 1250 ≤ s.rmap.aclk then s.rmap.aclk - 250 else s.rmap.aclk := by
  split
  · rename_i h; rw [clockDown_steps h.1 h.2, aclk_publishClock]
  · rename_i h; rw [clockDown_rests h]

theorem power_clockDown (s : State) : (clockDown s).power = s.power := by
  unfold clockDown; split
  · exact power_publishChange ..
  · rfl

theorem hostOut_clockDown (s : State) : s.hostOut <+: (clockDown s).hostOut := by
  unfold clockDown; split
  · exact hostOut_publishClock ..
  · exact ⟨[], List.append_nil _⟩

theorem beginUnder_eq (s : State) : beginUnder s = { s with
    power := { s.power with under := some (s.power.under.getD s.rmap.aclk), noticed := true },
    hostOut := if s.power.noticed then s.hostOut else s.hostOut ++ [.boardNotice 1] } := by
  unfold beginUnder notify; dsimp only; split <;> rfl

theorem undervoltClockStep_begins {v : Nat} (h1 : 42000 ≤ v) (h2 : v < 44000) : ∃ u : State, exec (.undervoltClockStep v) s = .next u
      ∧ u.power.noticed = true
      ∧ u.power.under = some (s.power.under.getD s.rmap.aclk)
      ∧ (s.power.noticed = false → HostReply.boardNotice 1 ∈ u.hostOut)
      ∧ u.rmap.aclk = (if 1 ≤ s.rmap.version ∧ 1250 ≤ s.rmap.aclk then s.rmap.aclk - 250 else s.rmap.aclk) := by
  refine ⟨clockDown (beginUnder s), ?_, ?_, ?_, fun hn => (hostOut_clockDown _).subset ?_, ?_⟩
  · change execUndervoltClockStep v s = _
    unfold execUndervoltClockStep
    rw [if_pos ⟨h1, h2⟩]; rfl
  · rw [power_clockDown, beginUnder_eq]
  · rw [power_clockDown, beginUnder_eq]
  · rw [beginUnder_eq]; simp [hn]
  · rw [aclk_clockDown, beginUnder_eq]

theorem undervoltClockStep_none {v : Nat} (h : v < 42000 ∨ 44000 ≤ v) : exec (.undervoltClockStep v) s = .next s := by
  change execUndervoltClockStep v s = _
  unfold execUndervoltClockStep
  rw [if_neg (by omega)]; rfl

theorem undervoltRecoveryStep_steps {f : Nat} (hf : s.power.under = some f) (hv : 1 ≤ s.rmap.version) (hc : s.rmap.aclk + 250 ≤ f) :
    ∃ u : State, exec .undervoltRecoveryStep s = .next u ∧ Published s u 4 none (.clock (s.rmap.aclk + 250))
      ∧ (f < s.rmap.aclk + 500 → u.power.under = none ∧ u.power.noticed = false) := by
  have hp : Published s (publishChange s 4 none (.clock (s.rmap.aclk + 250))) 4 none (.clock (s.rmap.aclk + 250)) :=
    published_publishChange s 4 none rfl
  have e : exec .undervoltRecoveryStep s = .next (if f < s.rmap.aclk + 500
      then endUnder (publishChange s 4 none (.clock (s.rmap.aclk + 250))) else publishChange s 4 none (.clock (s.rmap.aclk + 250))) := by
    change execUndervoltRecoveryStep s = _
    unfold execUndervoltRecoveryStep
    simp only [hf]
    rw [if_pos ⟨by omega, hc⟩]; rfl
  by_cases h : f < s.rmap.aclk + 500
  · rw [if_pos h] at e; exact ⟨_, e, hp, fun _ => ⟨rfl, rfl⟩⟩
  · rw [if_neg h] at e; exact ⟨_, e, hp, fun k => absurd k h⟩

theorem undervoltRecoveryStep_ends {f : Nat} (hf : s.power.under = some f) (hc : f < s.rmap.aclk + 250) :
    exec .undervoltRecoveryStep s = .next { s with power := { s.power with under := none, noticed := false } } := by
  change execUndervoltRecoveryStep s = _
  unfold execUndervoltRecoveryStep
  simp only [hf]
  rw [if_neg (by omega)]; rfl

theorem voltageDip_counted {n : Nat} (h : n < 100) : ∃ u : State, exec (.voltageDip n) s = .next u ∧ u.me = s.me ∧ u.mem = s.mem
      ∧ u.power.noticed = true ∧ assoc u.hostCnt 1 = some ((assoc s.hostCnt 1).getD 0 + 1) := by
  have e : exec (.voltageDip n) s = .next (hostBump (beginUnder s) 1) := by
    change execVoltageDip n s = _
    unfold execVoltageDip
    rw [if_pos h]; rfl
  rw [beginUnder_eq] at e
  exact ⟨_, e, rfl, rfl, rfl, rfl⟩

/-- A dip too long to be ridden through, and a power failure (01 R19, R20). -/
theorem power_fails {i : Instr} (h : (∃ n, 100 ≤ n ∧ i = .voltageDip n) ∨ (i = .powerFailure ∧ s.power.on = true)) :
    exec i s = .next (failPower s) := by
  obtain ⟨n, hn, rfl⟩ | ⟨rfl, ho⟩ := h
  · change execVoltageDip n s = _
    unfold execVoltageDip
    rw [if_neg (by omega)]; rfl
  · change execPowerFailure s = _
    unfold execPowerFailure
    rw [if_pos ho]; rfl

theorem overvoltageNotify_notes {v : Nat} (h1 : 54000 < v) (h2 : v ≤ 56000) : ∃ u : State, exec (.overvoltageNotify v) s = .next u
      ∧ u.power.overNote = true
      ∧ u.hostOut = s.hostOut ++ (if s.power.overNote then [] else [.boardNotice 2]) ∧ u.me = s.me ∧ u.mem = s.mem := by
  change ∃ u : State, execOvervoltageNotify v s = .next u ∧ _
  unfold execOvervoltageNotify
  rw [if_pos ⟨h1, h2⟩]
  dsimp only
  split
  · exact ⟨_, rfl, rfl, (List.append_nil _).symm, rfl, rfl⟩
  · exact ⟨_, rfl, rfl, rfl, rfl, rfl⟩

theorem overvoltageNotify_ends {v : Nat} (h : v ≤ 54000) :
    exec (.overvoltageNotify v) s = .next { s with power := { s.power with overNote := false } } := by
  change execOvervoltageNotify v s = _
  unfold execOvervoltageNotify
  rw [if_neg (by omega), if_pos h]; rfl

end

/-- Clocks, heat and supply (01 R16-R22). -/
theorem powerEvents : PowerEvents := by
  intro s
  refine ⟨fun hv hc => ⟨_, rfl, ?_⟩, fun hc => ?_, ⟨_, rfl, rfl, rfl, rfl, rfl, rfl⟩, fun v => undervoltClockStep_begins,
    fun v => undervoltClockStep_none, fun f => undervoltRecoveryStep_steps, fun f => undervoltRecoveryStep_ends, fun n => voltageDip_counted,
    fun i hi => ⟨_, power_fails hi, rfl, rfl, rfl, rfl, rfl, rfl, rfl, rfl⟩, fun v => overvoltageNotify_notes,
    fun v => overvoltageNotify_ends, ⟨_, rfl, rfl, rfl, rfl, rfl⟩⟩
  · rw [clockDown_steps hv hc]; exact published_publishChange s 4 none rfl
  · rw [thermalClockStep_eq, clockDown_rests (by omega)]

end Sys2Proof.Machine
end

section
namespace Sys2Proof.Machine
open Sys2Proof.Claims
section
variable {s : State}

/-! The module comes up (22 R403). -/

theorem modResetRelease_ignored (bootsel : Bool) (tests : List SelfTest) (lat : List Byte) (rom : BitVec 8) (ho : s.power.on = true)
    (h : s.stage ≠ .reset ∨ s.power.stopped = true) : exec (.modResetRelease bootsel tests lat rom) s = .next s := by
  change execModResetRelease bootsel tests lat rom s = _
  unfold execModResetRelease
  rw [if_pos ⟨ho, h⟩]; rfl

theorem modResetRelease_starts (bootsel : Bool) (tests : List SelfTest) (lat : List Byte) (rom : BitVec 8)
    (h : s.power.on = true → s.stage = .reset ∧ s.power.stopped = false) : exec (.modResetRelease bootsel tests lat rom) s = .next
      { (if s.power.on then s else lostState s) with
        stage := .boot, bring := some { bootsel := bootsel, tests := tests, lat := lat, romOk := rom, map := none } } := by
  have hn : ¬ (s.power.on = true ∧ (s.stage ≠ .reset ∨ s.power.stopped = true)) := fun ⟨ho, hx⟩ => by simp [h ho] at hx
  change execModResetRelease bootsel tests lat rom s = _
  unfold execModResetRelease
  rw [if_neg hn]; rfl

theorem stepFrom_bring {p : Power} {b : BringUp} (ho : p.on = true) (hf : p.failed = false) (hs : s.sched = []) (hi : s.inbox = [])
    (hb : s.bring = some b) : stepFrom p s = .next (bringStep s b) := by
  simp only [stepFrom, hs, ho, hf, ownStep, hi, dueModule, hb]
  rfl

/-! The boot ROM. -/

/-- Whether no slot holds a valid image. -/
def noImage (s : State) : Prop := ∀ i, (s.flash.slotA = some i ∨ s.flash.slotB = some i) → imageOk s i = false

theorem filter_imageOk {o : Option FwImage} (h : ∀ i, o = some i → imageOk s i = false) : o.filter (imageOk s) = none := by
  cases o with
  | none => rfl
  | some i => simp [h i rfl]

theorem bootSlot_none {b : Bool} (h : b = true ∨ noImage s) : bootSlot s b = none := by
  unfold bootSlot
  obtain rfl | h := h
  · rfl
  · rw [filter_imageOk fun i e => h i (.inl e), filter_imageOk fun i e => h i (.inr e)]
    split <;> rfl

/-- The image of a slot. -/
def slotImage (s : State) (n : Bool) : Option FwImage := if n then s.flash.slotB else s.flash.slotA

/-- The better of two valid images boots, or the one that there is (22 R404). -/
theorem bootSlot_some (h : ¬ noImage s) : ∃ n i, bootSlot s false = some n ∧ slotImage s n = some i ∧ imageOk s i = true
    ∧ ∀ j, (s.flash.slotA = some j ∨ s.flash.slotB = some j) → imageOk s j = true → j.secver.toNat ≤ i.secver.toNat := by
  have good : ∀ {o : Option FwImage} {i}, o.filter (imageOk s) = some i → o = some i ∧ imageOk s i = true :=
    fun e => Option.filter_eq_some_iff.1 e
  have kept : ∀ {o : Option FwImage} {j}, o = some j → imageOk s j = true → o.filter (imageOk s) = some j :=
    fun e k => Option.filter_eq_some_iff.2 ⟨e, k⟩
  unfold bootSlot slotImage
  rw [if_neg (by simp)]
  cases ha : s.flash.slotA.filter (imageOk s) with
  | some a =>
    obtain ⟨ea, oa⟩ := good ha
    cases hb : s.flash.slotB.filter (imageOk s) with
    | some b =>
      obtain ⟨eb, ob⟩ := good hb
      by_cases lt : a.secver.toNat < b.secver.toNat
      · refine ⟨true, b, by simp [lt], eb, ob, fun j hj oj => ?_⟩
        obtain e | e := hj
        · cases ea.symm.trans e; omega
        · cases eb.symm.trans e; omega
      · refine ⟨false, a, by simp [lt], ea, oa, fun j hj oj => ?_⟩
        obtain e | e := hj
        · cases ea.symm.trans e; omega
        · cases eb.symm.trans e; omega
    | none =>
      refine ⟨false, a, rfl, ea, oa, fun j hj oj => ?_⟩
      obtain e | e := hj
      · cases ea.symm.trans e; omega
      · cases hb.symm.trans (kept e oj)
  | none =>
    cases hb : s.flash.slotB.filter (imageOk s) with
    | some b =>
      obtain ⟨eb, ob⟩ := good hb
      refine ⟨true, b, rfl, eb, ob, fun j hj oj => ?_⟩
      obtain e | e := hj
      · cases ha.symm.trans (kept e oj)
      · cases eb.symm.trans e; omega
    | none =>
      refine absurd (fun i hi => ?_) h
      obtain e | e := hi
      · exact Bool.eq_false_iff.2 fun k => by cases ha.symm.trans (kept e k)
      · exact Bool.eq_false_iff.2 fun k => by cases hb.symm.trans (kept e k)

/-- A mask of one bit at most. -/
theorem getLsbD_oneBit_inj {w : Nat} {e : Option Nat} {i j : Nat} (hi : (BitVec.ofNat w (e.elim 0 (2 ^ ·))).getLsbD i = true)
    (hj : (BitVec.ofNat w (e.elim 0 (2 ^ ·))).getLsbD j = true) : i = j := by
  cases e with
  | none => simp at hi
  | some k =>
    simp only [Option.elim, BitVec.getLsbD_ofNat, Bool.and_eq_true, Nat.testBit_two_pow, decide_eq_true_eq] at hi hj
    exact hi.2.symm.trans hj.2

theorem bringStep_boot {b : BringUp} (h : s.stage = .boot) : bringStep s b = romStep s b := by
  unfold bringStep; rw [h]

theorem romStep_fails {b : BringUp} (h : b.romOk = 0) : romStep s b = stayOut s := if_pos h

theorem romStep_recovers {b : BringUp} (h : b.romOk ≠ 0) (hn : bootSlot s b.bootsel = none) : romStep s b = recoveryUp s b := by
  unfold romStep; rw [if_neg h, hn]

theorem romStep_boots {b : BringUp} {n : Bool} (h : b.romOk ≠ 0) (hn : bootSlot s b.bootsel = some n) :
    romStep s b = { s with stage := .selftest, flash := { s.flash with booted := some n } } := by
  unfold romStep; rw [if_neg h, hn]

theorem recoveryUp_spec (s : State) (b : BringUp) :
    let u := recoveryUp s b
    u.stage = .recovery ∧ u.bring = none ∧ u.flash.booted = none ∧ u.rmap.version = 0
      ∧ u.rmap.cores = 0 ∧ (∀ i j, u.rmap.mgmt.getLsbD i = true → u.rmap.mgmt.getLsbD j = true → i = j)
      ∧ (∀ i j, u.rmap.ports.getLsbD i = true → u.rmap.ports.getLsbD j = true → i = j) ∧ u.report = foundHere s b.tests :=
  ⟨rfl, rfl, rfl, rfl, rfl, fun _ _ => getLsbD_oneBit_inj, fun _ _ => getLsbD_oneBit_inj, rfl⟩

/-! Self-test. -/

theorem foldl_hostBump {α : Type} (l : List α) (s : State) : ∃ c, l.foldl (fun u _ => hostBump u 2) s = { s with hostCnt := c }
    ∧ (assoc c 2).getD 0 = (assoc s.hostCnt 2).getD 0 + l.length := by
  induction l generalizing s with
  | nil => exact ⟨s.hostCnt, rfl, rfl⟩
  | cons a rest ih =>
    obtain ⟨c, e, hc⟩ := ih (hostBump s 2)
    refine ⟨c, e, hc.trans ?_⟩
    simp only [hostBump, assoc, reassoc, List.find?_cons, beq_self_eq_true, Option.map_some, Option.getD_some, List.length_cons]
    omega

/-- A unit that fails takes its own bit of CORES alone, where it is a core. -/
theorem cores_changeOf (s : State) {x : UnitId} (he : unitExists x = true) (g : Nat) :
    (changeMap s (changeOf x false)).cores.getLsbD g = (s.rmap.cores.getLsbD g && !(x.kind == 1 && x.index / 4 == g)) := by
  by_cases hk : x.kind = 1
  · have hb : x.index / 4 < 384 := by
      simp only [unitExists, hk, Bool.and_eq_true, decide_eq_true_eq] at he; omega
    have e : changeOf x false = .core (x.index / 4) false := by simp [changeOf, hk]
    rw [e, changeMap_core s false hb]
    by_cases hg : g = x.index / 4
    · simp [hk, hg]
    · simp [hk, hg, Ne.symm hg]
  · have h1 : ∀ g b, changeOf x false ≠ .core g b := fun g b => by unfold changeOf; split <;> simp_all
    have h2 : ∀ d b, changeOf x false ≠ .clusters d b := fun d b => by unfold changeOf; split <;> simp
    rw [changeMap_cores_of h1 h2]
    simp [hk]

theorem cores_foldl_changeOf (s : State) (l : List SelfTest) (hl : ∀ t ∈ l, unitExists t.unit = true) (m : RMap) (g : Nat) :
    (l.foldl (fun m t => changeMap { s with rmap := m } (changeOf t.unit false)) m).cores.getLsbD g
      = (m.cores.getLsbD g && l.all fun t => !(t.unit.kind == 1 && t.unit.index / 4 == g)) := by
  induction l generalizing m with
  | nil => simp
  | cons t rest ih =>
    rw [List.foldl_cons, ih (fun t ht => hl t (List.mem_cons_of_mem _ ht)), cores_changeOf _ (hl t List.mem_cons_self), List.all_cons,
      Bool.and_assoc]

/-- The cores that self-test leaves: those that no finding names. -/
theorem cores_testedMap (s : State) (tests : List SelfTest) {g : Nat} (hg : g < 384) :
    (testedMap s tests).cores.getLsbD g = (foundHere s tests).all fun t => !(t.unit.kind == 1 && t.unit.index / 4 == g) := by
  have hl : ∀ t ∈ foundHere s tests, unitExists t.unit = true := fun t ht => by
    simpa using (Bool.and_eq_true_iff.1 (List.mem_filter.1 ht).2).2
  have hf : (fullMap s).cores.getLsbD g = true := BitVec.getLsbD_allOnes.trans (decide_eq_true hg)
  unfold testedMap
  rw [cores_foldl_changeOf s _ hl, hf, Bool.true_and]

/-- The cores of a die stay where one of its management cores passes (22 R406). -/
theorem cores_managed (m : RMap) (mg : BitVec 8) {g : Nat} (hg : g < 384) :
    (managed m mg).cores.getLsbD g = (m.cores.getLsbD g && decide (mg.toNat / 16 ^ (g / 192) % 16 ≠ 0)) := by
  have k : ∀ d, (if mg.toNat / 16 ^ d % 16 = 0 then 0 else dieMask d : BitVec 384).getLsbD g
      = decide (g / 192 = d ∧ mg.toNat / 16 ^ d % 16 ≠ 0) := fun d => by
    split
    · rename_i h; simp [h]
    · rename_i h; rw [getLsbD_dieMask]; simp [h, hg]
  have e : (managed m mg).cores = m.cores &&& ((if mg.toNat / 16 ^ 0 % 16 = 0 then 0 else dieMask 0)
      ||| (if mg.toNat / 16 ^ 1 % 16 = 0 then 0 else dieMask 1)) := rfl
  rw [e, BitVec.getLsbD_and, BitVec.getLsbD_or, k, k]
  have h2 : g / 192 = 0 ∨ g / 192 = 1 := by omega
  obtain h | h := h2 <;> simp [h]

theorem bringStep_selftest {b : BringUp} (h : s.stage = .selftest) (hm : b.map = none) : bringStep s b = testStep s b := by
  unfold bringStep; rw [h, hm]

/-- The state once self-test has reported what it found. -/
theorem testStep_eq (s : State) (b : BringUp) : ∃ c, (assoc c 2).getD 0 = (assoc s.hostCnt 2).getD 0 + (foundHere s b.tests).length
    ∧ testStep s b = if (testedMap s b.tests).mgmt &&& b.romOk = 0
      then stayOut { s with report := foundHere s b.tests, hostCnt := c }
      else { s with report := foundHere s b.tests, hostCnt := c,
                    bring := some { b with map := some (managed (testedMap s b.tests) ((testedMap s b.tests).mgmt &&& b.romOk)) } } := by
  obtain ⟨c, e, hc⟩ := foldl_hostBump (foundHere s b.tests) { s with report := foundHere s b.tests }
  refine ⟨c, hc, ?_⟩
  unfold testStep
  rw [e]

theorem selftest_spec {b : BringUp} (hs : s.stage = .selftest) (hb : b.map = none) :
    let u := bringStep s b
    let mg := (testedMap s b.tests).mgmt &&& b.romOk
    u.report = foundHere s b.tests
    ∧ (assoc u.hostCnt 2).getD 0 = (assoc s.hostCnt 2).getD 0 + (foundHere s b.tests).length
    ∧ (mg = 0 → u.stage = .failed ∧ u.bring = none)
    ∧ (mg ≠ 0 → ∃ m : RMap, u.bring = some { b with map := some m } ∧ u.stage = .selftest ∧ m.mgmt = mg
      ∧ (∀ t ∈ foundHere s b.tests, t.unit.kind = 1 → m.cores.getLsbD (t.unit.index / 4) = false)
      ∧ (∀ g, g < 384 → (∀ t ∈ foundHere s b.tests, t.unit.kind = 1 → t.unit.index / 4 ≠ g) → mg.toNat / 16 ^ (g / 192) % 16 ≠ 0 →
          m.cores.getLsbD g = true)
      ∧ (∀ g, g < 384 → mg.toNat / 16 ^ (g / 192) % 16 = 0 → m.cores.getLsbD g = false)) := by
  obtain ⟨c, hc, e⟩ := testStep_eq s b
  rw [bringStep_selftest hs hb]
  intro u mg
  by_cases h : mg = 0
  · have eu : u = stayOut { s with report := foundHere s b.tests, hostCnt := c } := e.trans (if_pos h)
    rw [eu]
    exact ⟨rfl, hc, fun _ => ⟨rfl, rfl⟩, fun k => absurd h k⟩
  · have eu : u = { s with report := foundHere s b.tests, hostCnt := c, bring := some { b with map := some (managed (testedMap s b.tests) mg) } } :=
      e.trans (if_neg h)
    rw [eu]
    refine ⟨rfl, hc, fun k => absurd k h, fun _ => ⟨managed (testedMap s b.tests) mg, rfl, hs, rfl, fun t ht hk => ?_,
      fun g hg hn hm => ?_, fun g hg hm => ?_⟩⟩
    · by_cases hg : t.unit.index / 4 < 384
      · rw [cores_managed _ _ hg, cores_testedMap s b.tests hg, Bool.and_eq_false_iff]
        exact .inl (List.all_eq_false.2 ⟨t, ht, by simp [hk]⟩)
      · exact BitVec.getLsbD_of_ge _ _ (Nat.le_of_not_lt hg)
    · rw [cores_managed _ _ hg, cores_testedMap s b.tests hg, Bool.and_eq_true]
      exact ⟨List.all_eq_true.2 fun t ht => by simpa [Decidable.imp_iff_not_or] using hn t ht, by simpa using hm⟩
    · rw [cores_managed _ _ hg]; simp [hm]

end
end Sys2Proof.Machine
end

section
namespace Sys2Proof.Machine
open Sys2Proof.Claims
section
variable {s : State}

/-! Version 1 of the map, READY, and the firmware slots (22 R403-R406). -/

theorem bringStep_first {b : BringUp} {m : RMap} (h : s.stage = .selftest) (hm : b.map = some m) (hv : s.rmap.version = 0) :
    bringStep s b = publishFirst s b m := by
  unfold bringStep; rw [h, hm]; exact if_pos hv

theorem bringStep_ready {b : BringUp} {m : RMap} (h : s.stage = .selftest) (hm : b.map = some m) (hv : s.rmap.version ≠ 0) :
    bringStep s b = readyStep s := by
  unfold bringStep; rw [h, hm]; exact if_neg hv

theorem mem_firstLat {lat : List Byte} {x : Byte} (h : x ∈ firstLat lat) : 1 ≤ x.toNat ∧ x.toNat ≤ 254 := by
  obtain ⟨b, -, rfl⟩ := List.mem_map.1 h
  rw [BitVec.toNat_ofNat]; omega

/-- The part of HOMES that belongs to a die. -/
def dieHomes (l2 : BitVec 96) (d : Nat) : List Byte :=
  (List.range 4096).map fun i => BitVec.ofNat 8 ((liveSlices l2 d).getD (i % max 1 (liveSlices l2 d).length) 0)

theorem firstHomes_eq (l2 : BitVec 96) : firstHomes l2 = dieHomes l2 0 ++ dieHomes l2 1 := by
  have e : List.range 2 = [0, 1] := rfl
  unfold firstHomes
  rw [e]
  simp only [List.flatMap_cons, List.flatMap_nil, List.append_nil]
  rfl

theorem length_dieHomes (l2 : BitVec 96) (d : Nat) : (dieHomes l2 d).length = 4096 := by
  rw [dieHomes, List.length_map, List.length_range]

theorem getD_of_lt {α : Type} {l : List α} {i : Nat} {a : α} (h : i < l.length) : l.getD i a = l[i] := by
  rw [List.getD_eq_getElem?_getD, List.getElem?_eq_getElem h, Option.getD_some]

theorem getD_append_blocks {f : Nat → List Byte} {n d i : Nat} (h0 : (f 0).length = n) (hd : d < 2) (hi : i < n) :
    (f 0 ++ f 1).getD (n * d + i) 0 = (f d).getD i 0 := by
  obtain rfl | rfl : d = 0 ∨ d = 1 := by omega
  · rw [Nat.mul_zero, Nat.zero_add, List.getD_eq_getElem?_getD, List.getElem?_append_left (h0 ▸ hi), ← List.getD_eq_getElem?_getD]
  · rw [Nat.mul_one, List.getD_eq_getElem?_getD, List.getElem?_append_right (h0 ▸ Nat.le_add_right n i), h0, Nat.add_sub_cancel_left,
      ← List.getD_eq_getElem?_getD]

theorem getD_firstHomes (l2 : BitVec 96) {d i : Nat} (hd : d < 2) (hi : i < 4096) :
    (firstHomes l2).getD (4096 * d + i) 0 = (dieHomes l2 d).getD i 0 := by
  rw [firstHomes_eq]; exact getD_append_blocks (length_dieHomes l2 0) hd hi

/-- Every entry of HOMES of a die with a live slice names one (20 R375). -/
theorem getD_dieHomes (l2 : BitVec 96) {d i : Nat} (hi : i < 4096) (hl : liveSlices l2 d ≠ []) :
    ∃ j, l2.getLsbD (48 * d + j) = true ∧ (dieHomes l2 d).getD i 0 = BitVec.ofNat 8 j := by
  have hp := List.length_pos_iff.2 hl
  have hk : i % max 1 (liveSlices l2 d).length < (liveSlices l2 d).length := by
    rw [Nat.max_eq_right hp]; exact Nat.mod_lt _ hp
  refine ⟨(liveSlices l2 d)[i % max 1 (liveSlices l2 d).length], (List.mem_filter.1 (List.getElem_mem hk)).2, ?_⟩
  have hn : i < (dieHomes l2 d).length := by rw [length_dieHomes]; exact hi
  rw [getD_of_lt hn]
  simp only [dieHomes, List.getElem_map, List.getElem_range]
  rw [getD_of_lt hk]

/-- A live port comes fresh from training. -/
theorem assoc_trainPorts {m : RMap} {n : Nat} (hn : n < 24) (h : m.ports.getLsbD n = true) : assoc (trainPorts m) n = some trained := by
  have hm : (n, trained) ∈ trainPorts m := List.mem_map.2 ⟨n, List.mem_filter.2 ⟨List.mem_range.2 hn, h⟩, rfl⟩
  unfold assoc
  cases k : (trainPorts m).find? fun p => p.1 == n with
  | none => exact absurd (List.find?_eq_none.1 k _ hm) (by simp)
  | some p =>
    obtain ⟨c, -, rfl⟩ := List.mem_map.1 (List.mem_of_find?_eq_some k)
    rfl

theorem publishFirst_invalid {b : BringUp} {m : RMap} (h : imageOk s s.flash.die = false) : publishFirst s b m = stayOut s := if_pos h

theorem publishFirst_publishes {b : BringUp} {m : RMap} (h : imageOk s s.flash.die = true) :
    let m1 : RMap := { m with version := 1, time := s.time, cause := 7, unit := none, homes := firstHomes m.l2, lat := firstLat b.lat }
    publishFirst s b m = { s with rmap := m1, ports := trainPorts m1, dieFw := s.flash.die.digest } := if_neg (by simp [h])

theorem first_spec {b : BringUp} {m : RMap} (hs : s.stage = .selftest) (hb : b.map = some m) (hv : s.rmap.version = 0) :
    let u := bringStep s b
    (imageOk s s.flash.die = false → u.stage = .failed ∧ u.bring = none)
    ∧ (imageOk s s.flash.die = true → u.stage = .selftest ∧ u.bring = s.bring ∧ u.rmap.version = 1 ∧ u.rmap.cause = 7
      ∧ u.rmap.unit = none ∧ u.rmap.time = s.time ∧ u.rmap.cores = m.cores ∧ u.rmap.l2 = m.l2 ∧ u.dieFw = s.flash.die.digest
      ∧ (∀ x ∈ u.rmap.lat, 1 ≤ x.toNat ∧ x.toNat ≤ 254)
      ∧ (∀ d i, d < 2 → i < 4096 → liveSlices m.l2 d ≠ [] →
          ∃ j, m.l2.getLsbD (48 * d + j) = true ∧ u.rmap.homes.getD (4096 * d + i) 0 = BitVec.ofNat 8 j)
      ∧ (∀ n, n < 24 → m.ports.getLsbD n = true → assoc u.ports n = some trained)) := by
  rw [bringStep_first hs hb hv]
  refine ⟨fun h => ?_, fun h => ?_⟩
  · rw [publishFirst_invalid h]; exact ⟨rfl, rfl⟩
  · rw [publishFirst_publishes h]
    refine ⟨hs, rfl, rfl, rfl, rfl, rfl, rfl, rfl, rfl, fun x => mem_firstLat, fun d i hd hi hl => ?_, fun n => assoc_trainPorts⟩
    obtain ⟨j, hj, e⟩ := getD_dieHomes m.l2 hi hl
    refine ⟨j, hj, ?_⟩
    dsimp only
    rw [getD_firstHomes m.l2 hd hi, e]

/-- The SECVER that has booted is counted (22 R405). -/
theorem secver_readyStep {i : FwImage}
    (h : s.flash.booted = some true ∧ s.flash.slotB = some i ∨ s.flash.booted = some false ∧ s.flash.slotA = some i) :
    (readyStep s).flash.secver = i.secver.toNat := by
  unfold readyStep
  obtain ⟨h1, h2⟩ | ⟨h1, h2⟩ := h <;> simp [h1, h2]

theorem firmwareSlotWrite_eq (i : FwImage) (h : s.stage = .ready ∨ s.stage = .recovery) :
    exec (.firmwareSlotWrite i) s = .next (writeSlot s i) := by
  have ha : answers s = true := by unfold answers; obtain h | h := h <;> rw [h] <;> rfl
  change execFirmwareSlotWrite i s = _
  unfold execFirmwareSlotWrite
  rw [if_pos ha]; rfl

theorem writeSlot_spec (s : State) (i : FwImage) : (writeSlot s i).me = s.me ∧ (writeSlot s i).mem = s.mem
    ∧ (writeSlot s i).flash.booted = s.flash.booted
    ∧ (s.flash.booted = some false → (writeSlot s i).flash.slotB = some i ∧ (writeSlot s i).flash.slotA = s.flash.slotA)
    ∧ (s.flash.booted = some true → (writeSlot s i).flash.slotA = some i ∧ (writeSlot s i).flash.slotB = s.flash.slotB) := by
  refine ⟨rfl, rfl, ?_, fun h => ?_, fun h => ?_⟩
  · unfold writeSlot; dsimp only; split <;> split <;> rfl
  · simp [writeSlot, h]
  · simp [writeSlot, h]

end

/-- The module comes up step by step (22 R403-R406). -/
theorem bringUp : Claims.BringUp := by
  refine ⟨fun s bootsel tests lat rom => ⟨fun ho hs hp => ?_, modResetRelease_ignored bootsel tests lat rom, fun ho => ?_⟩,
    fun s p b => stepFrom_bring, fun s b hs => ?_, fun s b => selftest_spec, fun s b m => first_spec, fun s b m hs hb hv => ?_,
    fun s i hs => ⟨_, firmwareSlotWrite_eq i hs, writeSlot_spec s i⟩⟩
  · rw [modResetRelease_starts bootsel tests lat rom fun _ => ⟨hs, hp⟩, if_pos ho]
  · rw [modResetRelease_starts bootsel tests lat rom fun h => by simp [ho] at h, if_neg (by simp [ho])]
    exact ⟨_, rfl, rfl, rfl, rfl, rfl, rfl, rfl⟩
  · rw [bringStep_boot hs]
    refine ⟨fun h => ?_, fun h hn => ?_, fun h hb hn => ?_⟩
    · rw [romStep_fails h]; exact ⟨rfl, rfl⟩
    · rw [romStep_recovers h (bootSlot_none hn)]; exact recoveryUp_spec s b
    · obtain ⟨n, i, e, hi⟩ := bootSlot_some hn
      rw [romStep_boots h (by rw [hb]; exact e)]
      exact ⟨rfl, rfl, n, i, rfl, hi⟩
  · rw [bringStep_ready hs hb hv]
    exact ⟨rfl, rfl, rfl, rfl, fun i => secver_readyStep⟩

/-- Settles O47, step by step: each clock, heat and supply instruction by the equation of its branch (a clock step is `publishChange`), and
each stage of the bring-up by the equation of `bringStep` at that stage. -/
theorem powerAndBringUp : Obligations.PowerAndBringUp := ⟨powerEvents, bringUp⟩

end Sys2Proof.Machine
end

section
namespace Sys2Proof.Machine

/-! Register files (03 R46, R47, R49): what x, p and v read, unwritten and after a write. A file is a vector of values with a bit vector
that says which of them are valid; its one rule is `readFile_write`. -/

theorem getD_setIfInBounds {α : Type} {w : Nat} (x : Vector α w) {n : Nat} (hn : n < w) (m : Nat) (v d : α) :
    (x.setIfInBounds n v).getD m d = if m = n then v else x.getD m d := by
  unfold Vector.getD
  rw [Vector.toArray_setIfInBounds, Array.getD_eq_getD_getElem?, Array.getElem?_setIfInBounds, Array.getD_eq_getD_getElem?]
  by_cases h : m = n
  · simp [h, hn]
  · rw [if_neg (Ne.symm h), if_neg h]

theorem getLsbD_or_bit {w : Nat} (b : BitVec w) {n : Nat} (hn : n < w) (m : Nat) :
    (b ||| 1#w <<< n).getLsbD m = (b.getLsbD m || decide (m = n)) := by
  rw [BitVec.getLsbD_or, ← BitVec.twoPow_eq, BitVec.getLsbD_twoPow]
  simp [hn, eq_comm]

/-- A write makes its own register valid with the value written, and the others read as before. -/
theorem readFile_write {α : Type} {w : Nat} (x : Vector α w) (b : BitVec w) {n : Nat} (hn : n < w) (m : Nat) (v d : α) :
    (if (b ||| 1#w <<< n).getLsbD m then (x.setIfInBounds n v).getD m d else d)
      = if m = n then v else if b.getLsbD m then x.getD m d else d := by
  rw [getLsbD_or_bit b hn, getD_setIfInBounds x hn]
  by_cases h : m = n <;> simp [h]

section
variable (r : Regs)

/-! x: x0 is zero (03 R47). -/

@[simp] theorem readX_zero : readX r 0 = 0 := rfl

@[simp] theorem writeX_zero (v : Word) : writeX r 0 v = r := rfl

theorem readX_invalid {d : BitVec 6} (h : r.xv.getLsbD d.toNat = false) : readX r d = 0 := by simp [readX, h]

theorem readX_writeX {d : BitVec 6} (hd : d ≠ 0) (e : BitVec 6) (v : Word) :
    readX (writeX r d v) e = if e = d then v else readX r e := by
  by_cases he : e = 0
  · rw [he, readX_zero, readX_zero, if_neg (Ne.symm hd)]
  · simpa only [readX, writeX, if_neg hd, if_neg he, BitVec.toNat_inj] using readFile_write r.x r.xv d.isLt e.toNat v 0

theorem writeX_frame (d : BitVec 6) (v : Word) : writeX r d v = { r with x := (writeX r d v).x, xv := (writeX r d v).xv } := by
  unfold writeX; split <;> rfl

/-! p: p0 has all lanes set (03 R47). -/

@[simp] theorem readP_zero : readP r 0 = BitVec.allOnes 128 := rfl

@[simp] theorem writeP_zero (p : PredWord) : writeP r 0 p = r := rfl

theorem readP_invalid {n : Nat} (hn : n ≠ 0) (h : r.pv.getLsbD n = false) : readP r n = 0 := by simp [readP, hn, h]

theorem readP_writeP {n : Nat} (h0 : 0 < n) (hn : n < 24) (m : Nat) (p : PredWord) :
    readP (writeP r n p) m = if m = n then p else readP r m := by
  by_cases hm : m = 0
  · rw [hm, readP_zero, readP_zero, if_neg (Nat.ne_of_lt h0)]
  · simpa only [readP, writeP, if_neg (Nat.ne_of_gt h0), if_neg hm] using readFile_write r.p r.pv hn m p 0

theorem writeP_frame (n : Nat) (p : PredWord) : writeP r n p = { r with p := (writeP r n p).p, pv := (writeP r n p).pv } := by
  unfold writeP; split <;> rfl

/-! v. -/

theorem readV_invalid {n : Nat} (h : r.vv.getLsbD n = false) : readV r n = 0 := by simp [readV, h]

theorem readV_writeV {n : Nat} (hn : n < 64) (m : Nat) (v : VecWord) :
    readV (writeV r n v) m = if m = n then v else readV r m := readFile_write r.v r.vv hn m v 0

theorem writeV_frame (n : Nat) (v : VecWord) : writeV r n v = { r with v := (writeV r n v).v, vv := (writeV r n v).vv } := rfl

end

/-- Settles O59: the rule of a register file (`readFile_write`) at each of x, p and v, with x0 and p0 apart. -/
theorem registerRules : Obligations.RegisterRules :=
  ⟨fun r v => ⟨writeX_zero r v, readX_zero r⟩, fun r p => ⟨writeP_zero r p, readP_zero r⟩, fun r _ => readX_invalid r,
    fun r _ => readP_invalid r, fun r _ => readV_invalid r, fun r _ e v hd => readX_writeX r hd e v,
    fun r _ m p h0 hn => readP_writeP r h0 hn m p, fun r _ m v hn => readV_writeV r hn m v, writeX_frame, writeP_frame, writeV_frame⟩

end Sys2Proof.Machine
end

section
namespace Sys2Proof.Machine
open Sys2Proof.Claims

/-! CSRs (03 R54-R56, 08 R144, R145): what a read gives, what each write answers, and what the mode queues of the slices take. -/
section
variable {s t : State}

/-- Admission takes a semaphore's count at most (05 R94). -/
theorem admitSlice_form {i : Instr} (h : admitSlice i s = some t) : t.me.form = s.me.form := by
  simp only [admitSlice, Option.ite_none_left_eq_some] at h
  obtain ⟨-, -, -, -, h⟩ := h
  split at h
  · obtain ⟨-, h⟩ := Option.ite_none_left_eq_some.1 h
    rw [← Option.some.inj h, mapRegs_me_form]
  · rw [← Option.some.inj h]

/-- The operands of a word are read in the form it stands in. -/
theorem issuedIn_form {i : Instr} (h : issuedIn i s = some t) : t.me.form = s.me.form := by
  rw [← settleOwed_form i s]
  simp only [issuedIn, Option.ite_none_left_eq_some] at h
  obtain ⟨-, h⟩ := h
  split at h
  · rw [Option.some.inj h]
  · split at h
    · cases h
    next ha =>
      obtain ⟨-, h⟩ := Option.ite_none_left_eq_some.1 h
      rw [← Option.some.inj h, admitSlice_form ha]

/-! Reads. -/

/-- A read gives the CSR's value; ERRINJ and a number that is not listed have none. -/
theorem csrRead_eq (t : State) (n : Nat) :
    csrRead t n = match csrValue t n with | some v => .ok v | none => .error (if n = 0x020 then 0x0202 else 0x0102) := by
  unfold csrRead
  split <;> simp_all [csrValue, corePos]

theorem csrReads : CsrReads := by
  intro d n s t h
  have hn : n = 0x020 ↔ n.toNat = 0x020 := BitVec.toNat_eq
  have hr := csrRead_eq t n.toNat
  change execCsrrd d n s = _
  unfold execCsrrd
  cases hv : csrValue t n.toNat with
  | some v =>
    rw [hv] at hr
    exact issue_done h (by rw [hr])
  | none =>
    rw [hv] at hr
    simp only [hn]
    exact issue_raise h (by rw [hr]; rfl)

/-! Writes: the answer of CSRWR is what `csrWrite` answers in the state its operands are read in. -/
section
variable {a : BitVec 6} {n : BitVec 12}

theorem exec_csrwr (a : BitVec 6) (n : BitVec 12) (s : State) :
    exec (.csrwr a n) s = issue (.csrwr a n) (fun u => csrWrite u n.toNat (xOf u a)) s := rfl

theorem csrwr_done {u : State} (h : issuedIn (.csrwr a n) s = some t) (hw : csrWrite t n.toNat (xOf t a) = .done u) :
    exec (.csrwr a n) s = .next (completed (.csrwr a n) s u .fall) := by
  rw [exec_csrwr]; exact issue_done h hw

theorem csrwr_raises {c : Nat} (h : issuedIn (.csrwr a n) s = some t) (hw : csrWrite t n.toNat (xOf t a) = .fail t c) :
    exec (.csrwr a n) s = .next (raised (.csrwr a n) s t c none) := by
  rw [exec_csrwr]; exact issue_raise h hw

theorem csrwr_waits (h : issuedIn (.csrwr a n) s = some t) (hw : csrWrite t n.toNat (xOf t a) = .wait t .queue) :
    exec (.csrwr a n) s = .next (waiting (.csrwr a n) s t .queue) := by
  rw [exec_csrwr]; exact issue_wait h hw

end

section
variable {v : Word}

theorem csrWrite_rmode_refused (h : 16 ≤ v.toNat) : csrWrite t 0x012 v = .fail t 0x0102 := if_pos h

theorem csrWrite_rmode_full (h : v.toNat < 16) (hr : modeRoom t true = false) : csrWrite t 0x012 v = .wait t .queue := by
  simp [csrWrite, Nat.not_lt.2 (Nat.le_of_lt_succ h), hr]

theorem csrWrite_rmode (h : v.toNat < 16) (hr : modeRoom t true = true) :
    csrWrite t 0x012 v = .done (pushModes (setCsr t fun c => { c with rmode := BitVec.ofNat 4 v.toNat }) true v.toNat) := by
  simp [csrWrite, Nat.not_lt.2 (Nat.le_of_lt_succ h), hr]

theorem csrWrite_vl_refused (h : 512 < v.toNat) : csrWrite t 0x013 v = .fail t 0x0102 := if_pos h

theorem csrWrite_vl_full (h : v.toNat ≤ 512) (hr : modeRoom t false = false) : csrWrite t 0x013 v = .wait t .queue := by
  simp [csrWrite, Nat.not_lt.2 h, hr]

theorem csrWrite_vl (h : v.toNat ≤ 512) (hr : modeRoom t false = true) :
    csrWrite t 0x013 v = .done (pushModes (setCsr t fun c => { c with vl := BitVec.ofNat 10 v.toNat }) false v.toNat) := by
  simp [csrWrite, Nat.not_lt.2 h, hr]

theorem csrWrite_trapvec : csrWrite t 0x016 v =
    if v.toNat % 4 = 0 then .done (setCsr t fun c => { c with trapvec := v }) else .fail t 0x0203 := ite_not ..

theorem csrWrite_emuvec : csrWrite t 0x017 v =
    if v.toNat % 4 = 0 then .done (setCsr t fun c => { c with emuvec := v }) else .fail t 0x0203 := ite_not ..

theorem csrWrite_faultrec : csrWrite t 0x019 v =
    if v.toNat % 128 = 0 then .done (setCsr t fun c => { c with faultrec := v }) else .fail t 0x0203 := ite_not ..

/-- Every other number is refused: a CSR that is only read, ERRINJ, and a number that is not listed. -/
theorem csrWrite_other {n : Nat} (h : n ∉ [0x012, 0x013, 0x016, 0x017, 0x019]) :
    csrWrite t n v = .fail t (if (csrValue t n).isSome ∨ n = 0x020 then 0x0202 else 0x0102) := by
  simp only [List.mem_cons, List.not_mem_nil, or_false, not_or] at h
  obtain ⟨h1, h2, h3, h4, h5⟩ := h
  unfold csrWrite
  split
  case h_6 =>
    rw [csrRead_eq]
    cases csrValue t n <;> simp
  all_goals contradiction

end

/-! Mode queues (14 R287, R293). In logical form there are none to feed. -/

theorem modeRoom_logical (h : t.me.form = .logical) (b : Bool) : modeRoom t b = true := by simp [modeRoom, h]

theorem pushModes_logical (h : t.me.form = .logical) (b : Bool) (v : Nat) : pushModes t b v = t := by simp [pushModes, h]

theorem modeRoom_slices (h : t.me.form = .slices) (b : Bool) :
    modeRoom t b = true ↔ t.me.str.modeS.length < 8 ∧ t.me.str.modeV.length < 8 ∧ (b = true → t.me.str.modeM.length < 8) := by
  cases b <;> simp [modeRoom, h, and_assoc]

theorem modeRoom_full (h : t.me.form = .slices) {b : Bool}
    (hq : 8 ≤ t.me.str.modeS.length ∨ 8 ≤ t.me.str.modeV.length ∨ b = true ∧ 8 ≤ t.me.str.modeM.length) : modeRoom t b = false := by
  refine Bool.eq_false_iff.2 fun hr => ?_
  obtain ⟨hS, hV, hM⟩ := (modeRoom_slices h b).1 hr
  obtain k | k | ⟨hb, k⟩ := hq
  · omega
  · omega
  · exact absurd (hM hb) (Nat.not_lt.2 k)

/-- A CSR written and carried (03 R56): the vector and stream slices take the value, the matrix slice RMODE alone; registers and memory
stay. -/
theorem carried_spec (h : t.me.form = .slices) (f : Csrs → Csrs) (b : Bool) (v : Nat) :
    let u := pushModes (setCsr t f) b v
    let carried (e : ModeEntry) : Prop := e = { tag := t.me.flow.lsn, rmode := b, val := v }
    u.me.csr = f t.me.csr
    ∧ (∀ e, e ∈ u.me.str.modeV ↔ e ∈ t.me.str.modeV ∨ carried e)
    ∧ (∀ e, e ∈ u.me.str.modeS ↔ e ∈ t.me.str.modeS ∨ carried e)
    ∧ (match b with
      | true => ∀ e, e ∈ u.me.str.modeM ↔ e ∈ t.me.str.modeM ∨ carried e
      | false => u.me.str.modeM = t.me.str.modeM)
    ∧ u.me.regs = t.me.regs ∧ u.mem = t.mem := by
  cases b <;> simp [pushModes, setCsr, h]

/-! Writes by number, and in slice form. -/

/-- In logical form RMODE and VL are written where they are in range, as nothing waits for room. -/
theorem csrWrite_rmode_logical {v : Word} (hf : t.me.form = .logical) : csrWrite t 0x012 v =
    if v.toNat < 16 then .done (setCsr t fun c => { c with rmode := BitVec.ofNat 4 v.toNat }) else .fail t 0x0102 := by
  split
  next h => rw [csrWrite_rmode h (modeRoom_logical hf true), pushModes_logical (t := setCsr t _) hf]
  next h => exact csrWrite_rmode_refused (Nat.not_lt.1 h)

theorem csrWrite_vl_logical {v : Word} (hf : t.me.form = .logical) : csrWrite t 0x013 v =
    if v.toNat ≤ 512 then .done (setCsr t fun c => { c with vl := BitVec.ofNat 10 v.toNat }) else .fail t 0x0102 := by
  split
  next h => rw [csrWrite_vl h (modeRoom_logical hf false), pushModes_logical (t := setCsr t _) hf]
  next h => exact csrWrite_vl_refused (Nat.not_le.1 h)

/-- The answer of a CSR that is written where a condition holds. -/
theorem csrwr_guarded {a : BitVec 6} {n : BitVec 12} {p : Prop} [Decidable p] {f : Csrs → Csrs} {c : Nat}
    (h : issuedIn (.csrwr a n) s = some t)
    (hw : csrWrite t n.toNat (xOf t a) = if p then .done (setCsr t f) else .fail t c) :
    exec (.csrwr a n) s = .next (
      if p then completed (.csrwr a n) s (setCsr t f) .fall else raised (.csrwr a n) s t c none) := by
  by_cases hp : p
  · rw [if_pos hp] at hw ⊢; exact csrwr_done h hw
  · rw [if_neg hp] at hw ⊢; exact csrwr_raises h hw

theorem csrWrites : CsrWrites := by
  intro a n s t h hf
  have hv : BitVec.ofNat 64 (xOf t a).toNat = xOf t a := by simp
  have logical {k : Nat} (hm : n.toNat = k) (hk : k = 0x012 ∨ k = 0x013) : t.me.form = .logical := by
    rw [issuedIn_form h]
    exact hf.resolve_right fun ⟨h1, h2⟩ =>
      hk.elim (fun e => h1 (BitVec.eq_of_toNat_eq (hm.trans e))) fun e => h2 (BitVec.eq_of_toNat_eq (hm.trans e))
  dsimp only
  rw [hv]
  split
  case h_1 hm => exact csrwr_guarded h (hm ▸ csrWrite_rmode_logical (logical hm (.inl rfl)))
  case h_2 hm => exact csrwr_guarded h (hm ▸ csrWrite_vl_logical (logical hm (.inr rfl)))
  case h_3 hm => exact csrwr_guarded h (hm ▸ csrWrite_trapvec)
  case h_4 hm => exact csrwr_guarded h (hm ▸ csrWrite_emuvec)
  case h_5 hm => exact csrwr_guarded h (hm ▸ csrWrite_faultrec)
  case h_6 hm => exact csrwr_raises h (by rw [hm, csrWrite_other (by decide)]; rfl)
  case h_7 h1 h2 h3 h4 h5 h6 =>
    have hw := csrWrite_other (t := t) (v := xOf t a) (n := n.toNat) (by simpa using ⟨h1, h2, h3, h4, h5⟩)
    cases hv : csrValue t n.toNat with
    | some v => exact csrwr_raises h (by rw [hw, hv]; rfl)
    | none => exact csrwr_raises h (by rw [hw, hv, if_neg (by simpa using h6)])

theorem csrWritesInSlices : CsrWritesInSlices := by
  intro a s t hf
  have ht {i : Instr} (h : issuedIn i s = some t) : t.me.form = .slices := (issuedIn_form h).trans hf
  refine ⟨fun h hx hS hV hM => ?_, fun h hx hS hV => ?_, fun h hx hfull => ?_, fun h hx hfull => ?_,
    fun h hx => csrwr_raises h (csrWrite_rmode_refused hx), fun h hx => csrwr_raises h (csrWrite_vl_refused hx)⟩
  · have room := (modeRoom_slices (ht h) true).2 ⟨hS, hV, fun _ => hM⟩
    exact ⟨_, csrwr_done h (csrWrite_rmode hx room), carried_spec (ht h) _ true _⟩
  · have room := (modeRoom_slices (ht h) false).2 ⟨hS, hV, nofun⟩
    exact ⟨_, csrwr_done h (csrWrite_vl hx room), carried_spec (ht h) _ false _⟩
  · exact csrwr_waits h (csrWrite_rmode_full hx (modeRoom_full (ht h) (by simpa using hfull)))
  · exact csrwr_waits h (csrWrite_vl_full hx (modeRoom_full (ht h) (by simpa using hfull)))

end

/-- Settles O5: reads by `csrRead_eq`; writes number by number through `csrWrite`'s equations, in logical form with no queue to feed, in slice
form by the room of the mode queues. -/
theorem csrWords : Obligations.CsrWords := ⟨csrReads, csrWrites, csrWritesInSlices⟩

end Sys2Proof.Machine
end

section
namespace Sys2Proof.Machine
open Sys2Proof.Claims

/-! Rows of one width joined into a list: accumulators are 64 rows of 64 elements, a stored row is 64 elements of as many bytes each. -/

theorem getElem?_flatMap_rows {α β : Type} {f : α → List β} {w : Nat} (hf : ∀ a, (f a).length = w) {j : Nat} (hj : j < w)
    (l : List α) (i : Nat) : (l.flatMap f)[w * i + j]? = l[i]?.bind fun a => (f a)[j]? := by
  induction l generalizing i with
  | nil => rfl
  | cons a rest ih =>
    rw [List.flatMap_cons]
    cases i with
    | zero => rw [Nat.mul_zero, Nat.zero_add, List.getElem?_append_left (by rw [hf]; exact hj)]; rfl
    | succ i =>
      have hi : w * (i + 1) + j = w + (w * i + j) := by rw [Nat.mul_succ]; omega
      rw [hi, List.getElem?_append_right (by rw [hf]; omega), hf, Nat.add_sub_cancel_left, ih]; rfl

theorem length_flatMap_rows {α β : Type} {f : α → List β} {w : Nat} (hf : ∀ a, (f a).length = w) (l : List α) :
    (l.flatMap f).length = w * l.length := by
  induction l with
  | nil => rfl
  | cons a rest ih => rw [List.flatMap_cons, List.length_append, hf, ih, List.length_cons, Nat.mul_succ, Nat.add_comm]

section
variable {α β : Type} (f : Nat → Nat → α)

/-- The 4,096 values of a function of row and column, row by row. -/
def grid : List α := (List.range 64).flatMap fun m => (List.range 64).map (f m)

@[simp] theorem grid_length : (grid f).length = 4096 := by
  simp [grid, length_flatMap_rows (w := 64)]

theorem grid_getElem? {m n : Nat} (hm : m < 64) (hn : n < 64) : (grid f)[64 * m + n]? = some (f m n) := by
  rw [grid, getElem?_flatMap_rows (by simp) hn]; simp [hm, hn]

theorem grid_getD {m n : Nat} (hm : m < 64) (hn : n < 64) (d : α) : (grid f).getD (64 * m + n) d = f m n := by
  rw [List.getD_eq_getElem?_getD, grid_getElem? f hm hn]; rfl

theorem map_grid (h : α → β) : (grid f).map h = grid fun m n => h (f m n) := by
  simp [grid, List.map_flatMap, Function.comp_def]

theorem any_grid (p : α → Bool) : (grid f).any p = true ↔ ∃ m n, m < 64 ∧ n < 64 ∧ p (f m n) = true := by
  simp [grid]

/-- A list of 4,096 values is the grid of what it holds. -/
theorem eq_grid {l : List α} {d : α} (hl : l.length = 4096) (h : ∀ m n, m < 64 → n < 64 → l.getD (64 * m + n) d = f m n) : l = grid f := by
  refine List.ext_getElem (by simp [hl]) fun i hi hg => ?_
  have e := (h (i / 64) (i % 64) (by omega) (by omega)).trans (grid_getD f (by omega) (by omega) d).symm
  rwa [Nat.div_add_mod, getD_of_lt hi, getD_of_lt hg] at e

end

/-! Operand values of a step (06 R120, R121; 10 R189, R193, R194). -/

/-- What the field checks of a matrix product give its step (10 R190, R193, R194; 05 R105). -/
structure StepFits (w : MWord) (g : MStep) : Prop where
  spm   : w.spm = 0 ∨ w.spm = 1 ∨ w.spm = 2
  even  : g.k % 2 = 0
  dense : w.spm ≠ 0 → g.kd = 2 * g.k
  pos   : 0 < g.kd
  block : g.kd % 32 = 0
  ka    : g.ka ≤ if w.spm = 1 then g.k else g.kd
  kb    : g.kb ≤ if w.spm = 2 then g.k else g.kd
  src   : w.asrc ≠ 0 → w.spm ≠ 1
  acc   : w.acc2 ≠ 3

theorem zip_map_self {α β : Type} (f : α → β) (l : List α) : (l.map f).zip l = l.map fun a => (f a, a) := by
  simpa using List.zip_map' (f := f) (g := id) (l := l)

theorem padNums_map {n k : Nat} (h : k ≤ n) (f : Nat → FNum) :
    padNums n ((List.range k).map f) = (List.range n).map fun j => if j < k then f j else .zero false := by
  refine List.ext_getElem (by simp [padNums, h]) fun i h1 h2 => ?_
  simp only [padNums, List.getElem_append, List.getElem_map, List.getElem_range, List.getElem_replicate, List.length_map, List.length_range]
  split <;> rfl

/-- The positions that a metadata entry keeps of a row or column (10 R194). -/
theorem metaPos_eq (entry : List Byte) {k : Nat} (hk : k % 2 = 0) (i : Nat) :
    metaPos entry k i = (List.range k).map (denseAt entry k i) := by
  rw [metaPos, metaGroups, zip_map_self]
  refine List.ext_getElem? fun c => ?_
  by_cases hc : c < k
  · rw [← Nat.div_add_mod c 2, getElem?_flatMap_rows (by simp) (by omega)]
    have h2 : c / 2 < k / 2 := by omega
    rw [List.getElem?_map, List.getElem?_range h2, List.getElem?_map, List.getElem?_range (by omega), Nat.div_add_mod]
    rcases Nat.mod_two_eq_zero_or_one c with h | h <;> simp [h, denseAt, metaGroup]
  · rw [List.getElem?_eq_none, List.getElem?_eq_none] <;> simp [length_flatMap_rows (w := 2)] <;> omega

theorem denseAt_lt (entry : List Byte) {k c : Nat} (hk : k % 2 = 0) (i : Nat) (hc : c < k) : denseAt entry k i c < 2 * k := by
  simp only [denseAt]; split <;> omega

section
variable {x : State} {w : MWord} {g : MStep}

theorem scratchElem_eq (x : State) (fmt off k : Nat) : scratchElem x fmt off k = scratchAt x fmt off k := rfl

/-- The stored values of a row of A. -/
theorem aRow_eq (hg : StepFits w g) (mode : Nat) (src : Acc) (r m : Nat) :
    aRow x w g mode src r m = (List.range (if w.spm = 1 then g.k else g.kd)).map (valueA x w g mode src r m) := by
  by_cases ha : w.asrc = 0
  · simp only [aRow, if_pos ha, padNums_map hg.ka]
    refine List.map_congr_left fun j _ => ?_
    simp only [valueA, if_pos ha, scratchElem_eq, aRegion, rowBytes]
    rw [Nat.add_right_comm]
  · simp only [aRow, if_neg ha, if_neg (hg.src ha)]
    refine List.map_congr_left fun j _ => ?_
    simp only [valueA, if_neg ha, downConvert]

/-- The stored values of a column of B. -/
theorem bCol_eq (hg : StepFits w g) (r n : Nat) :
    bCol x w g r n = (List.range (if w.spm = 2 then g.k else g.kd)).map (valueB x w g r n) := by
  by_cases hb : w.bt = 1
  · simp only [bCol, if_pos hb, padNums_map hg.kb]
    refine List.map_congr_left fun j _ => ?_
    simp only [valueB, if_pos hb, ← Nat.not_lt, ite_not, scratchElem_eq, bRegion, rowBytes]
    rw [Nat.add_right_comm]
  · simp only [bCol, if_neg hb, padNums_map hg.kb]
    refine List.map_congr_left fun j _ => ?_
    simp only [valueB, if_neg hb, ← Nat.not_lt, ite_not, scratchElem_eq, bRegion, Nat.mul_add, Nat.mul_assoc, Nat.add_assoc]

/-- The scale codes of a row or column, one per block. -/
theorem scalesOf_eq (off : BitVec 14) (r i : Nat) : scalesOf x off g r i = (List.range (g.kd / 32)).map (scaleCode x off g r i) := rfl

/-- Values whose dense positions are known take the scales of their blocks. -/
theorem scaled_eq (off : BitVec 14) (r i n : Nat) (d : Nat → Nat) (v : Nat → FNum) (hd : ∀ c, c < n → d c / 32 < g.kd / 32) :
    scaled (scalesOf x off g r i) ((List.range n).map d) ((List.range n).map v)
      = (List.range n).map fun c => withScale 1 (scaleCode x off g r i (d c / 32)) (v c) := by
  rw [scaled, List.zip_map', List.map_map]
  refine List.map_congr_left fun c hc => ?_
  simp [scalesOf_eq, withScale, mxValue, hd c (List.mem_range.mp hc)]

/-- The values of a side, with scales where the word has them (06 R120). -/
theorem sideVals_eq (off : BitVec 14) (r i n : Nat) (d : Nat → Nat) (v : Nat → FNum) (hd : ∀ c, c < n → d c / 32 < g.kd / 32) :
    (if w.mxe = 1 then scaled (if w.mxe = 1 then scalesOf x off g r i else []) ((List.range n).map d) ((List.range n).map v)
      else (List.range n).map v) = (List.range n).map fun c => withScale w.mxe (scaleCode x off g r i (d c / 32)) (v c) := by
  by_cases hm : w.mxe = 1
  · rw [if_pos hm, if_pos hm, hm, scaled_eq off r i n d v hd]
  · simp only [if_neg hm, withScale]

end

section
variable (x : State) (w : MWord) (g : MStep) (mode : Nat) (src : Acc) (entry : List Byte) (r m n : Nat)

/-- The factor from A at dense position `d`, stored at `c`. -/
def factorA (d c : Nat) : FNum := withScale w.mxe (scaleCode x w.sca g r m (d / 32)) (valueA x w g mode src r m c)

/-- The factor from B at dense position `d`, stored at `c`. -/
def factorB (d c : Nat) : FNum := withScale w.mxe (scaleCode x w.scb g r n (d / 32)) (valueB x w g r n c)

variable {x w g mode src entry r m n}

theorem dense_block (hg : StepFits w g) {d : Nat} (hd : d < g.kd) : d / 32 < g.kd / 32 := by
  have := hg.block; omega

theorem denseAt_lt_kd (hg : StepFits w g) (h : w.spm ≠ 0) (i : Nat) {c : Nat} (hc : c < g.k) : denseAt entry g.k i c < g.kd := by
  rw [hg.dense h]; exact denseAt_lt entry hg.even i hc

theorem sideA_kept (hg : StepFits w g) (h : w.spm = 1) : (sideA x w g mode src entry r m).vals
    = (List.range g.k).map fun c => factorA x w g mode src r m (denseAt entry g.k m c) c := by
  simp only [sideA, aRow_eq hg, if_pos h, metaPos_eq entry hg.even]
  exact sideVals_eq _ _ _ _ _ _ fun c hc => dense_block hg (denseAt_lt_kd hg (by simp [h]) m hc)

theorem sideA_dense (hg : StepFits w g) (h : w.spm ≠ 1) : (sideA x w g mode src entry r m).vals
    = (List.range g.kd).map fun d => factorA x w g mode src r m d d := by
  simp only [sideA, aRow_eq hg, if_neg h]
  simpa [factorA] using sideVals_eq w.sca r m g.kd id (valueA x w g mode src r m) fun _ => dense_block hg

theorem sideB_kept (hg : StepFits w g) (h : w.spm = 2) : (sideB x w g entry r n).vals
    = (List.range g.k).map fun c => factorB x w g r n (denseAt entry g.k n c) c := by
  simp only [sideB, bCol_eq hg, if_pos h, metaPos_eq entry hg.even]
  exact sideVals_eq _ _ _ _ _ _ fun c hc => dense_block hg (denseAt_lt_kd hg (by simp [h]) n hc)

theorem sideB_dense (hg : StepFits w g) (h : w.spm ≠ 2) : (sideB x w g entry r n).vals
    = (List.range g.kd).map fun d => factorB x w g r n d d := by
  simp only [sideB, bCol_eq hg, if_neg h]
  simpa [factorB] using sideVals_eq w.scb r n g.kd id (valueB x w g r n) fun _ => dense_block hg

/-- The values that the positions of a row or column select from the other operand. -/
theorem selected_eq (hg : StepFits w g) (h : w.spm ≠ 0) (i : Nat) (f : Nat → FNum) :
    (metaPos entry g.k i).map (fun d => ((List.range g.kd).map f).getD d .nan)
      = (List.range g.k).map fun c => f (denseAt entry g.k i c) := by
  rw [metaPos_eq entry hg.even, List.map_map]
  refine List.map_congr_left fun c hc => ?_
  simp [denseAt_lt_kd hg h i (List.mem_range.mp hc)]

/-- The products of a step in ascending k (07 R129). -/
theorem products_eq (hg : StepFits w g) :
    (stepPairs w.spm (if w.spm = 1 then (sideA x w g mode src entry r m).pos else (sideB x w g entry r n).pos)
      (sideA x w g mode src entry r m).vals (sideB x w g entry r n).vals).map (fun p => numMul p.1 p.2)
    = stepProducts x w g mode src entry r m n := by
  rcases hg.spm with h | h | h
  · have h1 : w.spm ≠ 1 := by simp [h]
    have h2 : w.spm ≠ 2 := by simp [h]
    rw [stepPairs, if_neg h1, if_neg h2, sideA_dense hg h1, sideB_dense hg h2, List.zip_map', List.map_map]
    simp [stepProducts, h, factorA, factorB, Function.comp_def]
  · have h0 : w.spm ≠ 0 := by simp [h]
    have h2 : w.spm ≠ 2 := by simp [h]
    have hp : (sideA x w g mode src entry r m).pos = metaPos entry g.k m := if_pos h
    rw [stepPairs, if_pos h, if_pos h, hp, sideA_kept hg h, sideB_dense hg h2, selected_eq hg h0, List.zip_map', List.map_map]
    simp [stepProducts, h, factorA, factorB, Function.comp_def]
  · have h0 : w.spm ≠ 0 := by simp [h]
    have h1 : w.spm ≠ 1 := by simp [h]
    have hp : (sideB x w g entry r n).pos = metaPos entry g.k n := if_pos h
    rw [stepPairs, if_neg h1, if_pos h, if_neg h1, hp, sideA_dense hg h1, sideB_kept hg h, selected_eq hg h0, List.zip_map',
      List.map_map]
    simp [stepProducts, h, factorA, factorB, Function.comp_def]

theorem sumPairs_eq (l : List (FNum × FNum)) : sumPairs l = stepSum (l.map fun p => numMul p.1 p.2) := by
  cases l with
  | nil => rfl
  | cons p rest => simp [sumPairs, stepSum, List.foldl_map]

/-! One element of a repetition (07 R129, R131). -/

/-- The element written by step 4 of 07 R129, into an accumulator that is valid or not (10 R192). -/
theorem accWrite_eq (hg : StepFits w g) (valid : Bool) (old : Nat) (sum : FNum) :
    (if valid then accWrite (if r = 0 then w.acc2.toNat else 1) old (roundF32 sum) w.fscale.toNat
      else accFirst (if r = 0 then w.acc2.toNat else 1) (roundF32 sum) w.fscale.toNat) = stepWrite w r valid old sum := by
  have hacc : w.acc2.toNat = 0 ∨ w.acc2.toNat = 1 ∨ w.acc2.toNat = 2 := by
    have h3 : w.acc2.toNat ≠ 3 := fun e => hg.acc (BitVec.eq_of_toNat_eq e)
    have := w.acc2.isLt; omega
  by_cases hr : r = 0
  · rcases hacc with h | h | h <;> cases valid <;> simp [stepWrite, accWrite, accFirst, hr, h]
    cases numMul (decodeFloat 0 w.fscale.toNat) (.zero false) <;> simp
  · cases valid <;> simp [stepWrite, accWrite, accFirst, hr]

/-- A step trips where the largest of its block scales leaves its sum above the bound (07 R131). -/
theorem trips_eq (hg : StepFits w g) (sum : FNum) :
    trips (boundOf w g (sideA x w g mode src entry r m).scales (sideB x w g entry r n).scales) sum = stepTrips x w g r m n sum := by
  obtain ⟨b, hb⟩ : ∃ b, g.kd / 32 = b + 1 := ⟨g.kd / 32 - 1, by have := hg.pos; have := hg.block; omega⟩
  cases sum with
  | nan => rfl
  | inf _ => rfl
  | fin neg mag e more =>
    by_cases hm : w.mxe = 1
    · simp [trips, stepTrips, boundOf, sideA, sideB, hm, scalesOf_eq, hb, List.zip_map', List.range_succ_eq_map, Function.comp_def]
    · simp only [trips, stepTrips, boundOf, sideA, sideB, if_neg hm, List.zip_nil_left, List.map_nil]

/-- One element of a repetition: what is written, and whether a check that is on trips. -/
theorem mmaElem_eq (hg : StepFits w g) (valid : Bool) (old : Nat) :
    mmaElem w g r valid old (sideA x w g mode src entry r m) (sideB x w g entry r n)
      = (stepWrite w r valid old (stepSum (stepProducts x w g mode src entry r m n)),
         w.chk != 0 && stepTrips x w g r m n (stepSum (stepProducts x w g mode src entry r m n))) := by
  simp only [mmaElem, sumPairs_eq, products_eq hg, accWrite_eq hg, trips_eq hg]

/-- The elements of a repetition. -/
theorem mmaTile_eq (hg : StepFits w g) : mmaTile x w g mode src entry r = grid fun m n =>
    (stepWrite w r (readA x.me.regs w.cidx.toNat).valid (accElem (readA x.me.regs w.cidx.toNat) m n)
        (stepSum (stepProducts x w g mode src entry r m n)),
     w.chk != 0 && stepTrips x w g r m n (stepSum (stepProducts x w g mode src entry r m n))) := by
  simp only [mmaTile, zip_map_self, List.map_map, Function.comp_def, mmaElem_eq hg, grid]

end

/-! One repetition (10 R192, R194, R203). -/

/-- Rows are read without a count where no error is correctable. -/
theorem noteRows_eq {x : State} (h : x.soft = []) (rs : List (Nat × Nat × Nat × Nat)) : noteRows x rs = x := by
  simp [noteRows, h]

theorem readAcc_clean {x : State} {n : Nat} (h : (readA x.me.regs n).err = .clean) : readAcc x n = .ok x := by
  simp [readAcc, h]

section
variable {x u : State} {w : MWord} {g : MStep} {mode : Nat} {src : Acc} {r : Nat}

theorem readAccs_sound (h : SoundReads x w r) : readAccs x w r = .ok x := by
  obtain ⟨-, ha, hc⟩ := h
  have h1 : (if w.asrc = 1 then readAcc x (w.aoff.toNat / 1024) else .ok x) = .ok x := by
    split
    · exact readAcc_clean (ha ‹_›)
    · rfl
  simp only [readAccs, h1]
  split
  · rfl
  · exact readAcc_clean (hc (Decidable.not_and_iff_or_not.1 ‹_›))

variable (x w g mode src r) in
/-- The accumulator that a repetition writes. -/
def repAcc : Acc :=
  { valid := true, suspect := (readA x.me.regs w.cidx.toNat).suspect || (mmaTile x w g mode src (stepEntry x w) r).any Prod.snd,
    err := .clean, elems := (mmaTile x w g mode src (stepEntry x w) r).map fun e => BitVec.ofNat 32 e.1 }

variable (x w) in
/-- C written, and the metadata of a sparse word popped. -/
def afterRep (a : Acc) : State :=
  let y := mapRegs x fun q => writeA q w.cidx.toNat a
  if w.spm = 0 then y else mqPop y w.mqs.toNat

theorem tile_trips (hg : StepFits w g) : (mmaTile x w g mode src (stepEntry x w) r).any Prod.snd = true ↔ repTrips x w g mode src r := by
  rw [mmaTile_eq hg, any_grid, repTrips]
  simp only [Bool.and_eq_true, bne_iff_ne]
  exact ⟨fun ⟨m, n, hm, hn, hc, ht⟩ => ⟨hc, m, n, hm, hn, ht⟩, fun ⟨hc, m, n, hm, hn, ht⟩ => ⟨m, n, hm, hn, hc, ht⟩⟩

/-- A repetition that writes `repAcc` is done as 07 R129 says. -/
theorem repDone_repAcc (hg : StepFits w g) : RepDone x w g mode src r (afterRep x w (repAcc x w g mode src r)) := by
  refine ⟨repAcc x w g mode src r, rfl, rfl, ?_, ?_, fun m n hm hn => ?_, rfl⟩
  · simp [repAcc, mmaTile_eq hg]
  · rw [← tile_trips hg]; simp [repAcc]
  · simp only [repAcc, mmaTile_eq hg, map_grid, grid_getD _ hm hn]

/-- What a repetition leaves is determined. -/
theorem afterRep_of_repDone (hg : StepFits w g) (h : RepDone x w g mode src r u) : u = afterRep x w (repAcc x w g mode src r) := by
  obtain ⟨a, hv, he, hl, hs, hm, rfl⟩ := h
  suffices a = repAcc x w g mode src r by rw [this]; rfl
  have hs' : a.suspect = (repAcc x w g mode src r).suspect := by
    rw [Bool.eq_iff_iff, hs, ← tile_trips hg]; simp [repAcc]
  have hm' : a.elems = (repAcc x w g mode src r).elems := by
    rw [eq_grid _ hl hm, repAcc, mmaTile_eq hg, map_grid]
  cases a
  exact Acc.mk.injEq .. ▸ ⟨hv, hs', he, hm'⟩

theorem stepEntry_eq (x : State) (w : MWord) :
    ((if w.spm != 0 then (mqOf x w.mqs.toNat).fifo.head? else none).map MqEntry.data).getD [] = stepEntry x w := by
  by_cases hs : w.spm = 0
  · rw [stepEntry, if_pos hs, if_neg (by simp [hs])]; rfl
  · rw [stepEntry, if_neg hs, if_pos (bne_iff_ne.2 hs)]

/-- Metadata that was fetched well carries no code. -/
theorem head_sound (hf : w.spm ≠ 0 → ∀ e, (mqOf x w.mqs.toNat).fifo.head? = some e → e.failed = none) :
    (if w.spm != 0 then (mqOf x w.mqs.toNat).fifo.head? else none).bind MqEntry.failed = none := by
  split
  · exact Option.bind_eq_none_iff.2 (hf (bne_iff_ne.1 ‹_›))
  · rfl

/-- A bad group of metadata raises 0x0303 (10 R194). -/
theorem mmaRep_badGroup (hs : w.spm ≠ 0) (hf : w.spm ≠ 0 → ∀ e, (mqOf x w.mqs.toNat).fifo.head? = some e → e.failed = none)
    (hm : metaOk (stepEntry x w) g.k = false) : mmaRep w g mode src r x = .error (x, raiseOf x 0x0303 none) := by
  have hm' : (w.spm != 0 && !metaOk (stepEntry x w) g.k) = true := by rw [hm, bne_iff_ne.2 hs]; rfl
  simp only [mmaRep, head_sound hf, stepEntry_eq, hm', if_true]

/-- A repetition whose metadata, scratch and accumulators are good: it is done unless a trap trips. -/
theorem mmaRep_sound (hf : w.spm ≠ 0 → ∀ e, (mqOf x w.mqs.toNat).fifo.head? = some e → e.failed = none)
    (hm : w.spm ≠ 0 → metaOk (stepEntry x w) g.k = true) (hb : badRows x (repRegions w g r) = none) (hr : SoundReads x w r) :
    mmaRep w g mode src r x = if (mmaTile x w g mode src (stepEntry x w) r).any Prod.snd && w.chk == 2 then .error (x, raiseOf x 0x0606 none)
      else .ok (afterRep x w (repAcc x w g mode src r)) := by
  have hm' : (w.spm != 0 && !metaOk (stepEntry x w) g.k) = false := by
    by_cases hs : w.spm = 0
    · rw [hs]; rfl
    · rw [hm hs, Bool.not_true, Bool.and_false]
  have pop (y : State) : (if w.spm != 0 then mqPop y w.mqs.toNat else y) = if w.spm = 0 then y else mqPop y w.mqs.toNat := by
    by_cases hs : w.spm = 0 <;> simp [hs]
  simp only [mmaRep, head_sound hf, stepEntry_eq, hm', hb, noteRows_eq hr.1, readAccs_sound hr, pop, Bool.false_eq_true, if_false]
  rfl

theorem mmaRep_trap (hg : StepFits w g) (hf : w.spm ≠ 0 → ∀ e, (mqOf x w.mqs.toNat).fifo.head? = some e → e.failed = none)
    (hm : w.spm ≠ 0 → metaOk (stepEntry x w) g.k = true) (hb : badRows x (repRegions w g r) = none) (hr : SoundReads x w r)
    (hc : w.chk = 2) (ht : repTrips x w g mode src r) : mmaRep w g mode src r x = .error (x, raiseOf x 0x0606 none) := by
  rw [mmaRep_sound hf hm hb hr, if_pos (by simp [(tile_trips hg).2 ht, hc])]

theorem mmaRep_fine (hg : StepFits w g) (h : RepFine x w g mode src r) :
    mmaRep w g mode src r x = .ok (afterRep x w (repAcc x w g mode src r)) := by
  obtain ⟨hm, hb, hr, ht⟩ := h
  rw [mmaRep_sound (fun hs => (hm hs).1) (fun hs => (hm hs).2) hb hr, if_neg]
  rw [Bool.and_eq_true, tile_trips hg, beq_iff_eq]
  exact fun h => ht h.symm

/-- Repetitions one after the other. -/
theorem mmaReps_eq (hg : StepFits w g) (n : Nat) (h : RepsDone w g mode src n r x u) : mmaReps w g mode src n r x = .ok u := by
  induction n generalizing r x with
  | zero => exact congrArg Except.ok h
  | succ n ih =>
    obtain ⟨hfine, y, hdone, hrest⟩ := h
    rw [mmaReps, mmaRep_fine hg hfine, ← afterRep_of_repDone hg hdone]
    exact ih hrest

end
end Sys2Proof.Machine
end

section
namespace Sys2Proof.Machine
open Sys2Proof.Claims

/-! MMA, MMAS and MMA16 (10 R188, R191, R194, R201). -/
section
variable {s t : State} {w : MWord} {mk : MWord → Instr} {half : Bool}

/-- A word that issues has fields that its text accepts (05 R102). -/
theorem wfIn_of_issuedIn {i : Instr} (h : issuedIn i s = some t) : i.wfIn (s.me.form == .slices) = true := by
  rw [issuedIn, Option.ite_none_left_eq_some] at h
  simpa using (not_or.1 h.1).2

/-- The fields of a matrix product that its step rests on. -/
theorem mmaOk_fields {sl sparse : Bool} (h : mmaOk sl sparse w = true) :
    (w.spm = 0 ∨ sparse = true ∧ (w.spm = 1 ∨ w.spm = 2)) ∧ w.acc2 ≠ 3 ∧ (w.asrc ≠ 0 → w.spm ≠ 1) := by
  simp only [mmaOk, Bool.and_eq_true, bne_iff_ne] at h
  obtain ⟨⟨⟨⟨⟨⟨⟨⟨⟨-, hsrc⟩, -⟩, hacc⟩, -⟩, -⟩, -⟩, hspm⟩, -⟩, -⟩ := h
  refine ⟨?_, hacc, fun ha => ?_⟩
  · cases sparse with
    | false => simp at hspm; exact .inl hspm.1
    | true => simp at hspm; exact .inr ⟨rfl, hspm⟩
  · rw [if_neg (by simpa using ha)] at hsrc
    simp only [Bool.and_eq_true, bne_iff_ne] at hsrc
    obtain ⟨⟨-, hne⟩, -⟩ := hsrc
    exact hne

theorem stepK_cases (f : Nat) : stepK f = 32 ∨ stepK f = 64 ∨ stepK f = 128 := by
  unfold stepK; split
  · simp
  · split <;> simp

theorem stepFits_mmaStep {sl sparse : Bool} (h : mmaOk sl sparse w = true) (hh : half = true → sparse = false ∧ w.afmt = 2) :
    StepFits w (mmaStep w half) := by
  obtain ⟨hspm, hacc, hsrc⟩ := mmaOk_fields h
  have hk := stepK_cases w.afmt.toNat
  cases half with
  | false =>
    have hkk : (mmaStep w false).k = stepK w.afmt.toNat := rfl
    have hkd : (mmaStep w false).kd = if w.spm = 0 then stepK w.afmt.toNat else 2 * stepK w.afmt.toNat := rfl
    exact {
      spm := hspm.imp_right And.right, acc := hacc, src := hsrc, dense := fun h0 => if_neg h0, ka := Nat.le_refl _, kb := Nat.le_refl _
      even := by omega
      pos := by rw [hkd]; split <;> omega
      block := by rw [hkd]; split <;> omega }
  | true =>
    obtain ⟨rfl, ha⟩ := hh rfl
    have h0 : w.spm = 0 := by simpa using hspm
    have hg : mmaStep w true = { k := 32, kd := 32, ka := 16, kb := 16 } := by simp [mmaStep, h0, ha, stepK]
    rw [hg]
    exact ⟨.inl h0, by decide, fun h => absurd h0 h, by decide, by decide, by simp [h0], by simp [h0], hsrc, hacc⟩

/-- What an operand field of a product says of its step's sizes. -/
theorem fits_of_issuedIn (hk : (mk = .mma ∧ half = false) ∨ (mk = .mmas ∧ half = false) ∨ (mk = .mma16 ∧ half = true)) (h : issuedIn (mk w) s = some t) :
    StepFits w (mmaStep w half) := by
  have hw := wfIn_of_issuedIn h
  rcases hk with ⟨rfl, rfl⟩ | ⟨rfl, rfl⟩ | ⟨rfl, rfl⟩
  · exact stepFits_mmaStep (sparse := false) hw nofun
  · exact stepFits_mmaStep (sparse := true) hw nofun
  · change mma16Ok _ w = true at hw
    simp only [mma16Ok, Bool.and_eq_true, beq_iff_eq] at hw
    obtain ⟨⟨⟨⟨hok, ha⟩, _⟩, _⟩, _⟩ := hw
    exact stepFits_mmaStep hok fun _ => ⟨rfl, ha⟩

theorem exec_product (hk : (mk = .mma ∧ half = false) ∨ (mk = .mmas ∧ half = false) ∨ (mk = .mma16 ∧ half = true)) (s : State) :
    exec (mk w) s = issue (mk w) (mmaBody w half) s := by
  rcases hk with ⟨rfl, rfl⟩ | ⟨rfl, rfl⟩ | ⟨rfl, rfl⟩ <;> rfl

/-! The effect of a product: its checks, then the repetitions. -/

theorem mmaBody_noMode (ha : w.asrc = 1) (hm : roundMode (settleStages t) w.arnd.toNat = none) :
    mmaBody w half t = .fail (settleStages t) 0x0102 := by
  simp only [mmaBody, if_pos ha, hm]

section
variable {mode : Nat} (hm : (if w.asrc = 1 then roundMode (settleStages t) w.arnd.toNat else some 0) = some mode)
include hm

theorem mmaBody_past {o : Nat} (ho : regionCheck w (mmaStep w half) = some o) :
    mmaBody w half t = .failAt (settleStages t) 0x0204 (window 0 + o) := by
  simp only [mmaBody, hm, ho]

variable {y : State} (hr : regionCheck w (mmaStep w half) = none)
  (hf : (if w.spm = 0 then (settleStages t, none) else mqFetch (settleStages t) w.mqs.toNat 1) = (y, none))
include hr hf

theorem mmaBody_whole {u : State} (hn : w.asrc = 1 ∧ w.aoff.toNat / 1024 = w.cidx.toNat)
    (hu : mmaReps w (mmaStep w half) mode (readA y.me.regs (w.aoff.toNat / 1024)) (w.rep.toNat + 1) 0 y = .ok u) :
    mmaBody w half t = .done u := by
  simp only [mmaBody, hm, hr, hf, if_pos hn, hu]

variable (hn : ¬ (w.asrc = 1 ∧ w.aoff.toNat / 1024 = w.cidx.toNat))
include hn

theorem mmaBody_raises {e : State × Raise}
    (he : mmaRep w (mmaStep w half) mode (readA y.me.regs (w.aoff.toNat / 1024)) y.me.rho y = .error e) :
    mmaBody w half t = .raise e.1 e.2 := by
  simp only [mmaBody, hm, hr, hf, if_neg hn, he]

theorem mmaBody_repeats {u : State}
    (hu : mmaRep w (mmaStep w half) mode (readA y.me.regs (w.aoff.toNat / 1024)) y.me.rho y = .ok u) :
    mmaBody w half t = if w.rep.toNat ≤ y.me.rho then .done u
      else .wait { u with me := { u.me with rho := y.me.rho + 1 } } .none := by
  simp only [mmaBody, hm, hr, hf, if_neg hn, hu]

end

theorem matrixProducts : MatrixProducts := by
  intro mk half hk w s t h x g n
  have hg : StepFits w g := fits_of_issuedIn hk h
  rw [exec_product hk s]
  refine ⟨fun ⟨ha, hm⟩ => issue_raise h (mmaBody_noMode ha hm), fun mode hm => ⟨fun o ho => issue_raise h (mmaBody_past hm ho), ?_⟩⟩
  intro hr y hf src r
  refine ⟨fun hn u hu => issue_done h (mmaBody_whole hm hr hf hn (mmaReps_eq hg _ hu)), fun hn hhead => ⟨?_, ?_, ?_⟩⟩
  · exact fun ⟨hs, hbad⟩ => issue_raise h (mmaBody_raises hm hr hf hn (mmaRep_badGroup hs hhead hbad))
  · exact fun hmeta hb hsound hc ht => issue_raise h (mmaBody_raises hm hr hf hn (mmaRep_trap hg hhead hmeta hb hsound hc ht))
  · intro hfine
    refine ⟨_, repDone_repAcc hg, ?_⟩
    have hbody := mmaBody_repeats hm hr hf hn (mmaRep_fine hg hfine)
    by_cases hlast : w.rep.toNat ≤ r
    · rw [if_pos hlast] at hbody ⊢
      exact issue_done h hbody
    · rw [if_neg hlast] at hbody ⊢
      exact issue_wait h hbody

end
end Sys2Proof.Machine
end

section
namespace Sys2Proof.Machine
open Sys2Proof.Claims

/-! MZERO, MLOAD, MSCALE and MFLAG (10 R196-R199). -/
section
variable {s t : State} {w : MWord}

theorem exec_mzero (w : MWord) (s : State) :
    exec (.mzero w) s = issue (.mzero w) (fun u => .done (mapRegs u fun r => writeA r w.cidx.toNat .clear)) s := rfl

theorem exec_mload (w : MWord) (s : State) : exec (.mload w) s = issue (.mload w) (mloadBody w) s := rfl

theorem exec_mstore (w : MWord) (s : State) : exec (.mstore w) s = issue (.mstore w) (mstoreBody w) s := rfl

theorem exec_mscale (w : MWord) (s : State) : exec (.mscale w) s = issue (.mscale w) (mscaleBody w) s := rfl

/-- Rows that end inside scratch pass the range check. -/
theorem pastScratch_eq_none {base pitch len : Nat} (h : base + pitch * 63 + len ≤ 2 ^ 20) : pastScratch base pitch 64 len = none :=
  if_pos h

theorem accElem_clear (m n : Nat) : accElem .clear m n = 0 := rfl

/-- The formats that MLOAD and MSTORE move (10 R197). -/
theorem mmoveOk_afmt {sl store : Bool} (h : mmoveOk sl store w = true) : w.afmt = 0 ∨ w.afmt = 2 := by
  simp only [mmoveOk, Bool.and_eq_true, Bool.or_eq_true, beq_iff_eq] at h
  obtain ⟨⟨⟨-, hf⟩, -⟩, -⟩ := h
  exact hf

theorem scratchAt_bytes {fmt : Nat} (h : fmtWidth fmt ≠ 4) (x : State) (row k : Nat) :
    scratchAt x fmt row k = decodeFloat fmt (scratchNat x (row + k * (fmtWidth fmt / 8)) (fmtWidth fmt / 8)) := by
  rw [scratchAt, if_neg h]

/-- An accumulator whose elements are all written; its suspect flag stays. -/
def refilled (a : Acc) (f : Nat → Nat → BitVec 32) : Acc := { a with valid := true, err := .clean, elems := grid f }

theorem refilled_elems (a : Acc) (f : Nat → Nat → BitVec 32) {m n : Nat} (hm : m < 64) (hn : n < 64) :
    (refilled a f).elems.getD (64 * m + n) 0 = f m n := grid_getD f hm hn 0

theorem mloadBody_past {o : Nat}
    (hp : pastScratch (64 * w.aoff.toNat) (64 * w.apitch.toNat) 64 (64 * (fmtWidth w.afmt.toNat / 8)) = some o) :
    mloadBody w t = .failAt (settleStages t) 0x0204 (window 0 + o) := by
  simp only [mloadBody, hp]

/-- MLOAD widens each element of its rows. -/
theorem mloadBody_done (hp : pastScratch (64 * w.aoff.toNat) (64 * w.apitch.toNat) 64 (64 * (fmtWidth w.afmt.toNat / 8)) = none)
    (hb : badRows (settleStages t) [(64 * w.aoff.toNat, 64 * w.apitch.toNat, 64, 64 * (fmtWidth w.afmt.toNat / 8))] = none)
    (hs : (settleStages t).soft = []) (hf : fmtWidth w.afmt.toNat ≠ 4) :
    mloadBody w t = .done (mapRegs (settleStages t) fun q => writeA q w.cidx.toNat
      (refilled (readA (settleStages t).me.regs w.cidx.toNat) fun m n => BitVec.ofNat 32 (encodeFloat 0 0 0 false
        (scratchAt (settleStages t) w.afmt.toNat (64 * w.aoff.toNat + 64 * w.apitch.toNat * m) n)))) := by
  simp only [mloadBody, hp, hb, noteRows_eq hs, scratchAt_bytes hf, widen, refilled, grid, Nat.mul_comm (fmtWidth _ / 8)]

theorem mscaleBody_noMode (hm : roundMode t w.arnd.toNat = none) : mscaleBody w t = .fail t 0x0102 := by
  simp only [mscaleBody, hm]

/-- MSCALE rounds FSCALE times each element. -/
theorem mscaleBody_done {mode : Nat} (hm : roundMode t w.arnd.toNat = some mode) (hc : (readA t.me.regs w.cidx.toNat).err = .clean) :
    mscaleBody w t = .done (mapRegs t fun q => writeA q w.cidx.toNat
      (refilled (readA t.me.regs w.cidx.toNat) fun m n =>
        BitVec.ofNat 32 (encodeFloat 0 mode (drawBits (drawOf t) mode 0 (64 * m + n)) false
          (numMul (decodeFloat 0 w.fscale.toNat) (decodeFloat 0 (accElem (readA t.me.regs w.cidx.toNat) m n)))))) := by
  simp only [mscaleBody, hm, readAcc_clean hc, refilled, grid]

theorem chanRoom_one (c : Nat) : chanRoom t c 1 = true ↔ (t.me.str.ch.getD c []).length < 16 := decide_eq_true_iff

/-- MFLAG reads an accumulator's flags into x, in slice form into a channel with room (10 R199). -/
theorem exec_mflag (h : issuedIn (.mflag w) s = some t) : exec (.mflag w) s = .next (match t.me.form with
    | .logical => completed (.mflag w) s (setX t w.xd (flagsOf (readA t.me.regs w.cidx.toNat))) .fall
    | .slices => if (t.me.str.ch.getD (w.xd.toNat % 16) []).length < 16
        then completed (.mflag w) s (chanPush t (w.xd.toNat % 16) (.scalar (flagsOf (readA t.me.regs w.cidx.toNat)))) .fall
        else waiting (.mflag w) s t .queue) := by
  change issue _ (mflagBody w) s = _
  cases hf : t.me.form with
  | logical => exact issue_done h (by simp only [mflagBody, hf])
  | slices =>
    by_cases hc : (t.me.str.ch.getD (w.xd.toNat % 16) []).length < 16
    · simp only [if_pos hc]
      exact issue_done h (by simp only [mflagBody, hf, if_pos ((chanRoom_one _).2 hc)])
    · simp only [if_neg hc]
      exact issue_wait h (by simp only [mflagBody, hf, if_neg (mt (chanRoom_one _).1 hc)])

end

/-! MSTORE (10 R197): each row is written in whole sectors, the higher rows over the lower ones. -/
section
variable {s : State}

@[simp] theorem homeWrite_me (s : State) (p k : Nat) (bs : List Byte) : (homeWrite s p k bs).me = s.me := by
  unfold homeWrite; (repeat' split) <;> rfl

@[simp] theorem homeWrite_mem (s : State) (p k : Nat) (bs : List Byte) : (homeWrite s p k bs).mem = cellsSet s.mem k bs := by
  unfold homeWrite; (repeat' split) <;> rfl

theorem cellsSet_append (m : List Host.Cell) (a : Nat) (bs cs : List Byte) :
    cellsSet m a (bs ++ cs) = cellsSet (cellsSet m a bs) (a + bs.length) cs := by
  induction bs generalizing m a with
  | nil => rfl
  | cons b rest ih => simp only [List.cons_append, cellsSet, ih, List.length_cons, Nat.add_comm rest.length, Nat.add_assoc]

theorem scratchKey_add (g off n : Nat) : scratchKey g (off + n) = scratchKey g off + n := (Nat.add_assoc _ _ _).symm

@[simp] theorem writeSectors_me (n : Nat) (s : State) (off : Nat) (bs : List Byte) : (writeSectors n s off bs).me = s.me := by
  induction n generalizing s off bs with
  | zero => rfl
  | succ n ih => rw [writeSectors, ih, homeWrite_me]

/-- Whole sectors written are their bytes written. -/
theorem writeSectors_mem {n : Nat} {bs : List Byte} (h : bs.length = 64 * n) (s : State) (off : Nat) :
    (writeSectors n s off bs).mem = cellsSet s.mem (scratchKey s.me.id off) bs := by
  induction n generalizing s off bs with
  | zero => rw [List.eq_nil_of_length_eq_zero h]; rfl
  | succ n ih =>
    have ht : (bs.take 64).length = 64 := by simp; omega
    have hsplit := cellsSet_append s.mem (scratchKey s.me.id off) (bs.take 64) (bs.drop 64)
    rw [List.take_append_drop, ht] at hsplit
    rw [writeSectors, ih (by simp; omega), homeWrite_mem, homeWrite_me, scratchKey_add, hsplit]

/-- The first `k` rows written, in ascending order. -/
def storeRows (n : Nat) (off : Nat → Nat) (row : Nat → List Byte) (k : Nat) (s : State) : State :=
  (List.range k).foldl (fun u m => writeSectors n u (off m) (row m)) s

variable {n : Nat} {off : Nat → Nat} {row : Nat → List Byte}

theorem storeRows_succ (k : Nat) (s : State) :
    storeRows n off row (k + 1) s = writeSectors n (storeRows n off row k s) (off k) (row k) := by
  simp [storeRows, List.range_succ]

@[simp] theorem storeRows_me (k : Nat) (s : State) : (storeRows n off row k s).me = s.me := by
  induction k with
  | zero => rfl
  | succ k ih => rw [storeRows_succ, writeSectors_me, ih]

variable (hrow : ∀ m, (row m).length = 64 * n)
include hrow

theorem storeRows_mem_succ (k : Nat) (s : State) : (storeRows n off row (k + 1) s).mem
    = cellsSet (storeRows n off row k s).mem (scratchKey s.me.id (off k)) (row k) := by
  rw [storeRows_succ, writeSectors_mem (hrow k), storeRows_me]

theorem storeRows_kept (h : StateInv s) (k : Nat) : StateInv (storeRows n off row k s) := by
  induction k with
  | zero => exact h
  | succ k ih => unfold StateInv; rw [storeRows_mem_succ hrow]; exact cellsSet_wf ih

/-- A byte that no row covers is as before. -/
theorem storeRows_out (h : StateInv s) {a k : Nat}
    (ha : ∀ m, m < k → a < scratchKey s.me.id (off m) ∨ scratchKey s.me.id (off m) + 64 * n ≤ a) :
    cellGet (storeRows n off row k s).mem a = cellGet s.mem a := by
  induction k with
  | zero => rfl
  | succ k ih =>
    rw [storeRows_mem_succ hrow, cellGet_cellsSet_out (storeRows_kept hrow h k) (by rw [hrow]; exact ha k k.lt_succ_self)]
    exact ih fun m hm => ha m (by omega)

/-- A byte of a row is as that row wrote it where no higher row covers it. -/
theorem storeRows_in (h : StateInv s) {m i k : Nat} (hm : m < k) (hi : i < 64 * n)
    (hl : ∀ m', m < m' → m' < k → off m' + 64 * n ≤ off m + i ∨ off m + i < off m') :
    cellGet (storeRows n off row k s).mem (scratchKey s.me.id (off m + i)) = (row m).getD i 0 := by
  induction k with
  | zero => omega
  | succ k ih =>
    rw [storeRows_mem_succ hrow]
    rcases Nat.lt_or_eq_of_le (Nat.le_of_lt_succ hm) with hlt | rfl
    · have hk := hl k hlt k.lt_succ_self
      rw [cellGet_cellsSet_out (storeRows_kept hrow h k) (by rw [hrow]; simp only [scratchKey]; omega)]
      exact ih hlt fun m' h1 h2 => hl m' h1 (by omega)
    · have hi' : i < (row m).length := by rw [hrow]; exact hi
      rw [scratchKey_add, cellGet_cellsSet_in (storeRows_kept hrow h m) hi', getD_of_lt hi']

end

section
variable {s t : State} {w : MWord}

theorem bytesOf_getElem? (n v : Nat) {b : Nat} (hb : b < n) : (bytesOf n v)[b]? = some (BitVec.ofNat 8 (v / 256 ^ b)) := by
  induction n generalizing v b with
  | zero => omega
  | succ n ih =>
    cases b with
    | zero => simp [bytesOf]
    | succ b =>
      rw [bytesOf, List.getElem?_cons_succ, ih _ (by omega), Nat.div_div_eq_div_mul, Nat.pow_succ']

theorem bytesOf_length (n v : Nat) : (bytesOf n v).length = n := by
  induction n generalizing v with
  | zero => rfl
  | succ n ih => simp [bytesOf, ih]

/-- The bytes of row `m` as MSTORE writes it. -/
def storedRow (x : State) (w : MWord) (mode m : Nat) : List Byte :=
  (List.range 64).flatMap fun k => bytesOf (fmtWidth w.afmt.toNat / 8) (narrow w (drawOf x) mode (readA x.me.regs w.cidx.toNat) m k)

theorem storedRow_length (x : State) (w : MWord) (mode m : Nat) : (storedRow x w mode m).length = 64 * (fmtWidth w.afmt.toNat / 8) := by
  rw [storedRow, length_flatMap_rows (fun _ => bytesOf_length ..), List.length_range, Nat.mul_comm]

theorem storedRow_getD (x : State) (w : MWord) (mode m : Nat) {n b : Nat} (hn : n < 64) (hb : b < fmtWidth w.afmt.toNat / 8) :
    (storedRow x w mode m).getD (n * (fmtWidth w.afmt.toNat / 8) + b) 0
      = BitVec.ofNat 8 (narrow w (drawOf x) mode (readA x.me.regs w.cidx.toNat) m n / 256 ^ b) := by
  rw [storedRow, List.getD_eq_getElem?_getD, Nat.mul_comm, getElem?_flatMap_rows (fun _ => bytesOf_length ..) hb, List.getElem?_range hn,
    Option.bind_some, bytesOf_getElem? _ _ hb]
  rfl

theorem mstoreBody_noMode (hm : roundMode (settleStages t) w.arnd.toNat = none) : mstoreBody w t = .fail (settleStages t) 0x0102 := by
  simp only [mstoreBody, hm]

theorem mstoreBody_done {mode : Nat} (hm : roundMode (settleStages t) w.arnd.toNat = some mode)
    (hp : pastScratch (64 * w.aoff.toNat) (64 * w.apitch.toNat) 64 (64 * (fmtWidth w.afmt.toNat / 8)) = none)
    (hc : (readA (settleStages t).me.regs w.cidx.toNat).err = .clean) :
    mstoreBody w t = .done (storeRows (fmtWidth w.afmt.toNat / 8) (fun m => 64 * w.aoff.toNat + 64 * w.apitch.toNat * m)
      (storedRow (settleStages t) w mode) 64 (settleStages t)) := by
  simp only [mstoreBody, hm, hp, readAcc_clean hc]
  rfl

theorem accumulatorWords : AccumulatorWords := by
  intro w s t a bytes row x c
  have past (h : row 63 + 64 * bytes ≤ 2 ^ 20) : pastScratch (64 * w.aoff.toNat) (64 * w.apitch.toNat) 64 (64 * bytes) = none :=
    pastScratch_eq_none h
  rw [exec_mzero, exec_mload, exec_mstore, exec_mscale]
  refine ⟨fun h => ⟨.clear, issue_done h rfl, rfl, rfl, accElem_clear⟩, fun h => ⟨fun o ho => ?_, fun hp hb hs => ?_⟩,
    fun h hinv => ⟨fun hm => ?_, fun mode hm hp hc => ?_⟩, fun h hm => ?_, fun h mode hm hc => ?_, exec_mflag⟩
  · exact issue_raise h (mloadBody_past ho)
  · have hf : fmtWidth w.afmt.toNat ≠ 4 := by
      rcases mmoveOk_afmt (store := false) (wfIn_of_issuedIn h) with e | e <;> rw [e] <;> decide
    exact ⟨_, issue_done h (mloadBody_done (past hp) hb hs hf), rfl, rfl, fun m n hm hn => refilled_elems _ _ hm hn⟩
  · exact issue_raise h (mstoreBody_noMode hm)
  · have hrow := storedRow_length x w mode
    refine ⟨_, issue_done h (mstoreBody_done hm (past hp) hc), by rw [storeRows_me], fun m n b hm hn hb hl => ?_,
      fun k hk => storeRows_out hrow hinv hk⟩
    have hi : n * bytes + b < 64 * bytes := by
      have := Nat.mul_le_mul_right bytes (Nat.succ_le_of_lt hn)
      rw [Nat.succ_mul] at this; omega
    rw [Nat.add_assoc (row m)] at hl ⊢
    exact (storeRows_in hrow hinv hm hi hl).trans (storedRow_getD x w mode m hn hb)
  · exact issue_raise h (mscaleBody_noMode hm)
  · exact ⟨_, issue_done h (mscaleBody_done hm hc), rfl, rfl, fun m n hm hn => refilled_elems _ _ hm hn⟩

end

/-- Settles O41: a repetition's elements are the sums of `stepProducts` (`mmaTile_eq`), so that it leaves what 07 R129 says and nothing else;
the other words by their effects, MSTORE row over row. -/
theorem matrixWords : Obligations.MatrixWords := ⟨matrixProducts, accumulatorWords⟩

end Sys2Proof.Machine
end

section
namespace Sys2Proof.Machine
open Sys2Proof.Claims

/-! Elements of a vector (06 R106): what a read gives after one element, or a list of them, is written. -/

theorem toNat_lt_of_eq {n k : Nat} (h : k = n) (v : BitVec n) : v.toNat < 2 ^ k := h ▸ v.isLt

theorem toNat_ofNat_of_eq {n k x : Nat} (h : k = n) (hx : x < 2 ^ k) : (BitVec.ofNat n x).toNat = x := by
  subst h; rw [BitVec.toNat_ofNat]; exact Nat.mod_eq_of_lt hx

/-- A digit to base `W` above a low part below `B` replaced by `y`. -/
theorem replace_digit (n B W y : Nat) : n - n / B % W * B + y * B = n % B + B * (y + W * (n / B / W)) := by
  have hlow := Nat.mod_add_div n B
  have hdigit : B * (n / B) = n / B % W * B + B * (W * (n / B / W)) := by
    rw [Nat.mul_comm (n / B % W), ← Nat.mul_add, Nat.mod_add_div]
  rw [Nat.mul_add, Nat.mul_comm y B]; omega

theorem low_add_high_lt {a b B C : Nat} (ha : a < B) (hb : b < C) : a + B * b < B * C :=
  calc a + B * b < B + B * b := Nat.add_lt_add_right ha _
    _ = B * (b + 1) := by rw [Nat.mul_succ, Nat.add_comm]
    _ ≤ B * C := Nat.mul_le_mul_left B hb

section
variable {w j i : Nat}

/-- An element written at its place leaves what stands below and above it. -/
theorem setElem_toNat (hj : j < 4096 / w) (v : VecWord) (x : Nat) : (setElem v w j x).toNat
    = v.toNat % 2 ^ (w * j) + 2 ^ (w * j) * (x % 2 ^ w + 2 ^ w * (v.toNat / 2 ^ (w * j) / 2 ^ w)) := by
  have hfit : w * j + w ≤ 4096 := by
    rw [← Nat.mul_succ, Nat.mul_comm]; exact Nat.mul_le_of_le_div _ _ _ (Nat.succ_le_of_lt hj)
  have htop : w * j + (w + (4096 - (w * j + w))) = 4096 := by omega
  have hv := toNat_lt_of_eq htop v
  rw [setElem, getElem, replace_digit]
  refine toNat_ofNat_of_eq htop ?_
  rw [Nat.pow_add, Nat.pow_add] at hv ⊢
  exact low_add_high_lt (Nat.mod_lt _ (Nat.two_pow_pos _)) (low_add_high_lt (Nat.mod_lt _ (Nat.two_pow_pos w))
    (Nat.div_lt_of_lt_mul (Nat.div_lt_of_lt_mul hv)))

/-- The place of an element `k + 1` places on. -/
theorem place_add (w i k : Nat) : w * (i + k + 1) = w * i + (w + w * k) := by
  rw [Nat.mul_succ, Nat.mul_add]; omega

/-- An element is read from the bits below any later place. -/
theorem mod_elem (h : i < j) (n : Nat) : n % 2 ^ (w * j) / 2 ^ (w * i) % 2 ^ w = n / 2 ^ (w * i) % 2 ^ w := by
  obtain ⟨k, rfl⟩ := Nat.exists_eq_add_of_lt h
  rw [place_add, Nat.pow_add, Nat.pow_add, Nat.mod_mul_right_div_self, Nat.mod_mul_right_mod]

/-- An element above a place is read from the bits above that place's element. -/
theorem div_elem (h : j < i) (n : Nat) : n / 2 ^ (w * i) = n / 2 ^ (w * j) / 2 ^ w / 2 ^ (w * (i - j - 1)) := by
  obtain ⟨k, rfl⟩ := Nat.exists_eq_add_of_lt h
  have e : j + k + 1 - j - 1 = k := by omega
  rw [e, place_add, Nat.pow_add, Nat.pow_add, Nat.div_div_eq_div_mul, Nat.div_div_eq_div_mul]

theorem getElem_setElem (hj : j < 4096 / w) (v : VecWord) (x : Nat) :
    getElem (setElem v w j x) w i = if i = j then x % 2 ^ w else getElem v w i := by
  have hB : 0 < 2 ^ (w * j) := Nat.two_pow_pos _
  have hW : 0 < 2 ^ w := Nat.two_pow_pos w
  have hlow : v.toNat % 2 ^ (w * j) < 2 ^ (w * j) := Nat.mod_lt _ hB
  unfold getElem
  rw [setElem_toNat hj]
  rcases Nat.lt_trichotomy i j with h | rfl | h
  · rw [if_neg (Nat.ne_of_lt h), ← mod_elem h, Nat.add_mul_mod_self_left, Nat.mod_mod, mod_elem h]
  · rw [if_pos rfl, Nat.add_mul_div_left _ _ hB, Nat.div_eq_of_lt hlow, Nat.zero_add, Nat.add_mul_mod_self_left, Nat.mod_mod]
  · rw [if_neg (Nat.ne_of_gt h), div_elem h, div_elem h v.toNat, Nat.add_mul_div_left _ _ hB, Nat.div_eq_of_lt hlow, Nat.zero_add,
      Nat.add_mul_div_left _ _ hW, Nat.div_eq_of_lt (Nat.mod_lt x hW), Nat.zero_add]

theorem getElem_zero (w i : Nat) : getElem 0 w i = 0 := by
  rw [getElem, show (0 : VecWord).toNat = 0 from BitVec.toNat_zero, Nat.zero_div, Nat.zero_mod]

theorem setElems_append (v : VecWord) (w : Nat) (l m : List (Nat × Nat)) :
    setElems v w (l ++ m) = setElems (setElems v w l) w m := List.foldl_append

/-- Elements written for the indices below `n` that `keep` names: each holds its low bits, every other element its old value. -/
theorem getElem_setElems {n : Nat} (hn : n ≤ 4096 / w) (v : VecWord) (keep : Nat → Bool) (f : Nat → Nat) :
    getElem (setElems v w (((List.range n).filter keep).map fun j => (j, f j))) w i
      = if i < n ∧ keep i = true then f i % 2 ^ w else getElem v w i := by
  induction n with
  | zero => simp [setElems]
  | succ n ih =>
    have hn' : n < 4096 / w := hn
    rw [List.range_succ, List.filter_append, List.map_append, setElems_append]
    cases hk : keep n with
    | true =>
      have one : ∀ y : VecWord, setElems y w (([n].filter keep).map fun j => (j, f j)) = setElem y w n (f n) := by
        simp [hk, setElems]
      rw [one, getElem_setElem hn', ih (Nat.le_of_lt hn')]
      by_cases hi : i = n
      · simp [hi, hk]
      · have : i < n ↔ i < n + 1 := by omega
        simp only [if_neg hi, this]
    | false =>
      have none : ∀ y : VecWord, setElems y w (([n].filter keep).map fun j => (j, f j)) = y := by simp [hk, setElems]
      have : i < n ∧ keep i = true ↔ i < n + 1 ∧ keep i = true := by
        refine and_congr_left fun hi => ?_
        have : i ≠ n := by rintro rfl; simp [hk] at hi
        omega
      rw [none, ih (Nat.le_of_lt hn')]
      simp only [this]

end

/-! The three destinations of a vector result (09 R163). -/
section
variable {v : VWord} (s : State) (r w : Nat) (l : List (Nat × Nat))

theorem putElems_v (h : opFile v.dst = 0) : putElems s v r w l
    = mapRegs s fun g => writeV g (regAt v v.dst 3 r) (setElems (readV g (regAt v v.dst 3 r)) w l) := by simp [putElems, h]

theorem putElems_q (h : opFile v.dst = 1) : putElems s v r w l = qPush s (regAt v v.dst 3 r) (setElems 0 w l) := by simp [putElems, h]

theorem putElems_chan (h : opFile v.dst = 2) :
    putElems s v r w l = chanPush s (opIndex v.dst % 16) (.vector (setElems 0 w l)) := by simp [putElems, h]

end

/-- Settles O36: the list writes as `getElem_setElems` says, over what the v register held or, on a push, over zeros. -/
theorem vectorElements : Obligations.VectorElements := by
  intro s v r w n f keep hw hn i hi
  refine ⟨fun hd hr => ?_, fun hd => ⟨_, putElems_q s r w _ hd, ?_⟩, fun hd => ⟨_, putElems_chan s r w _ hd, ?_⟩⟩
  · have hn64 : regAt v v.dst 3 r < 64 := by omega
    rw [putElems_v s r w _ hd]
    refine ⟨?_, fun k hk => ?_, rfl⟩
    · rw [mapRegs_me_regs, readV_writeV _ hn64, if_pos rfl, getElem_setElems hn]
    · rw [mapRegs_me_regs, readV_writeV _ hn64, if_neg hk]
  · rw [getElem_setElems hn, getElem_zero]
  · rw [getElem_setElems hn, getElem_zero]

end Sys2Proof.Machine
end

section
namespace Sys2Proof.Machine
open Sys2Proof.Claims

/-! What a vector word answers (09 R164, R165, R167). -/

/-- What a vector word's effect answers where no entry that it pops raises: a failed check, VL = 0, a full destination, a fetch to wait for,
or its repetitions done. -/
structure VectorAnswers (body : State → Res) (v : VWord) (us : List SrcUse) (dst always : Bool)
    (put : State → Nat → List VecWord → State) (t : State) : Prop where
  refused : ∀ {c}, qChecks t v us dst (always || vlOf t != 0) = some c → body t = .fail t c
  skips : qChecks t v us dst (always || vlOf t != 0) = none → (always || vlOf t != 0) = false →
    body t = if skipReady v us t = true ∧ dstRoom t v dst = true then .done (skipWord v us dst t) else .wait t .queue
  full : qChecks t v us dst (always || vlOf t != 0) = none → ¬(always || vlOf t != 0) = false → dstRoom t v dst = false →
    body t = .wait t .queue
  fetches : ∀ {x y}, qChecks t v us dst (always || vlOf t != 0) = none → ¬(always || vlOf t != 0) = false → ¬dstRoom t v dst = false →
    qReadyAll (List.range 16) t v us = (x, some y) → body t = .wait x y
  done : ∀ {x u}, qChecks t v us dst (always || vlOf t != 0) = none → ¬(always || vlOf t != 0) = false → ¬dstRoom t v dst = false →
    qReadyAll (List.range 16) t v us = (x, none) → vecReps v us put (v.rep.toNat + 1) 0 x = .ok u → body t = .done u

section
variable {v : VWord} {us : List SrcUse} {dst always : Bool} {put : State → Nat → List VecWord → State} {s t : State}

theorem vecBody_answers : VectorAnswers (vecBody v us dst always put) v us dst always put t where
  refused hq := by simp only [vecBody, hq]
  skips hq hl := by simp only [vecBody, hq, if_pos hl, Bool.and_eq_true]
  full hq hl hr := by simp only [vecBody, hq, if_neg hl, if_pos hr]
  fetches hq hl hr hf := by simp only [vecBody, hq, if_neg hl, if_neg hr, hf]
  done hq hl hr hf hu := by simp only [vecBody, hq, if_neg hl, if_neg hr, hf, hu]

/-- A word whose effect answers so is a vector word. -/
theorem vectorWord_of_answers {i : Instr} {body : State → Res} (hx : exec i s = issue i body s) (h : issuedIn i s = some t)
    (ha : VectorAnswers body v us dst always put t) : VectorWord i v us dst always put s t := by
  unfold VectorWord
  rw [hx]
  split
  next c hq => exact issue_raise h (ha.refused hq)
  next hq =>
    split
    next hl =>
      have hs := ha.skips hq hl
      split
      next hr => exact issue_done h (hs.trans (if_pos hr))
      next hr => exact issue_wait h (hs.trans (if_neg hr))
    next hl =>
      split
      next hr => exact issue_wait h (ha.full hq hl hr)
      next hr => exact ⟨fun x y hf => issue_wait h (ha.fetches hq hl hr hf), fun x u hf hu => issue_done h (ha.done hq hl hr hf hu)⟩

theorem vectorWord_of_vecBody {i : Instr} {body : State → Res} (hx : exec i s = issue i body s) (h : issuedIn i s = some t)
    (hb : body t = vecBody v us dst always put t) : VectorWord i v us dst always put s t :=
  vectorWord_of_answers hx h
    ⟨(hb.trans <| vecBody_answers.refused ·), (hb.trans <| vecBody_answers.skips · ·), (hb.trans <| vecBody_answers.full · · ·),
      (hb.trans <| vecBody_answers.fetches · · · ·), (hb.trans <| vecBody_answers.done · · · · ·)⟩

/-- A word that rounds nothing, by its body. -/
theorem plainly_of_vecBody {i : Instr} {put : State → State → Nat → List VecWord → State}
    (hx : ∀ s, exec i s = issue i (fun t => vecBody v us dst always (put t) t) s) :
    Plainly i fun s t => VectorWord i v us dst always (put t) s t :=
  fun s _ h => vectorWord_of_vecBody (hx s) h rfl

/-- A word that rounds, by its body under the mode its RND4 gives (05 R84). -/
theorem inMode_of_vecBody {i : Instr} {put : Nat → State → State → Nat → List VecWord → State}
    (hx : ∀ s, exec i s = issue i (rounded v fun m t => vecBody v us dst always (put m t) t) s) :
    InMode i v fun m s t => VectorWord i v us dst always (put m t) s t := by
  intro s t h
  have hb : ∀ m, roundMode t v.rnd.toNat = m → rounded v (fun m t => vecBody v us dst always (put m t) t) t
      = match m with | none => .fail t 0x0102 | some m => vecBody v us dst always (put m t) t := by
    rintro m rfl; rfl
  split
  next hm => rw [hx]; exact issue_raise h (hb _ hm)
  next m hm => exact vectorWord_of_vecBody (hx s) h (hb _ hm)

end

/-! Floating words (09 R169): an operation on values, rounded once. -/

theorem floatWord_of_floatMap {mk : VWord → Instr} {us : VWord → List SrcUse} {op : Bool → FNum → FNum → FNum → FNum}
    (hx : ∀ v s, exec (mk v) s = issue (mk v) (rounded v (floatMap v (us v) op)) s) : FloatWord mk us op :=
  fun v => inMode_of_vecBody (hx v)

/-- The lesser of two values; a NaN gives NaN (07 R127). -/
theorem numMin_eq (a b : FNum) : numMin a b = if a = .nan ∨ b = .nan then .nan else if numLt true b a = true then b else a := by
  unfold numMin
  split
  next => rw [if_pos (.inl rfl)]
  next => rw [if_pos (.inr rfl)]
  next ha hb => exact (if_neg (not_or.2 ⟨ha, hb⟩)).symm

/-- The greater of two values; a NaN gives NaN (07 R127). -/
theorem numMax_eq (a b : FNum) : numMax a b = if a = .nan ∨ b = .nan then .nan else if numLt true a b = true then b else a := by
  unfold numMax
  split
  next => rw [if_pos (.inl rfl)]
  next => rw [if_pos (.inr rfl)]
  next ha hb => exact (if_neg (not_or.2 ⟨ha, hb⟩)).symm

/-- Settles O37: every floating word is one operation on values under `vecMap`; VMIN, VMAX by `numMin_eq` and `numMax_eq`. -/
theorem vectorFloats : Obligations.VectorFloats := by
  have hmin : FloatWord .vmin twoSrcs fun _ a b _ => numMin a b := floatWord_of_floatMap fun _ _ => rfl
  have hmax : FloatWord .vmax twoSrcs fun _ a b _ => numMax a b := floatWord_of_floatMap fun _ _ => rfl
  simp only [numMin_eq] at hmin
  simp only [numMax_eq] at hmax
  refine ⟨floatWord_of_floatMap fun _ _ => rfl, floatWord_of_floatMap fun _ _ => rfl, floatWord_of_floatMap fun _ _ => rfl,
    floatWord_of_floatMap fun _ _ => rfl, floatWord_of_floatMap fun _ _ => rfl, floatWord_of_floatMap fun _ _ => rfl, hmin, hmax,
    floatWord_of_floatMap fun _ _ => rfl, floatWord_of_floatMap fun _ _ => rfl, floatWord_of_floatMap fun _ _ => rfl,
    floatWord_of_floatMap fun _ _ => rfl, floatWord_of_floatMap fun _ _ => rfl, floatWord_of_floatMap fun _ _ => rfl,
    floatWord_of_floatMap fun _ _ => rfl, fun v => inMode_of_vecBody fun _ => rfl, fun v => plainly_of_vecBody fun _ => rfl⟩

end Sys2Proof.Machine
end

section
namespace Sys2Proof.Machine
open Sys2Proof.Claims

/-! Integer words (09 R172): an operation on integers under `intMap`, written as its low bits. -/

theorem intWord_of_intMap {mk : VWord → Instr} {us : VWord → List SrcUse} {op : Nat → (Nat → Int) → Nat → Nat → Nat → Int}
    (hx : ∀ v s, exec (mk v) s
      = issue (mk v) (intMap v (us v) (op (fmtWidth v.ty.toNat) (decodeInt v.ty.toNat))) s) : IntWord mk us op :=
  fun v => plainly_of_vecBody (hx v)

/-- The rounds of the hash, `h` mixed with `b` in each (09 R173). -/
theorem hash32_eq_foldl (b : Nat) (l : List Nat) (h : Nat) : hash32 h b l.length
    = l.foldl (fun h _ =>
        let g := (h ^^^ b) * 0x85EBCA6B % 2 ^ 32
        g ^^^ (g / 2 ^ 13)) h := by
  induction l generalizing h with
  | nil => rfl
  | cons _ _ ih => exact ih _

theorem hash32_eq (h b n : Nat) : hash32 h b n
    = (List.range n).foldl (fun h _ =>
        let g := (h ^^^ b) * 0x85EBCA6B % 2 ^ 32
        g ^^^ (g / 2 ^ 13)) h := by
  rw [← hash32_eq_foldl, List.length_range]

/-- Settles O38: each integer word by its operation, minima and maxima by the order of the integers; the hash round by round. -/
theorem vectorIntegers : Obligations.VectorIntegers := by
  have hmin : IntWord .vimin twoSrcs fun _ int a b _ => min (int a) (int b) := intWord_of_intMap fun _ _ => rfl
  have hmax : IntWord .vimax twoSrcs fun _ int a b _ => max (int a) (int b) := intWord_of_intMap fun _ _ => rfl
  simp only [Int.min_def] at hmin
  simp only [Int.max_def] at hmax
  refine ⟨intWord_of_intMap fun _ _ => rfl, intWord_of_intMap fun _ _ => rfl, intWord_of_intMap fun _ _ => rfl,
    intWord_of_intMap fun _ _ => rfl, intWord_of_intMap fun _ _ => rfl, intWord_of_intMap fun _ _ => rfl,
    intWord_of_intMap fun _ _ => rfl, intWord_of_intMap fun _ _ => rfl, intWord_of_intMap fun _ _ => rfl,
    intWord_of_intMap fun _ _ => rfl, hmin, hmax, fun v => ?_⟩
  have hhash : Plainly (.vhash v) fun s t => VectorWord (.vhash v) v [useA v 32, useB v 32] true false
      (eachActive v (Claims.spanOf v) fun _ _ l i =>
        hash32 (getElem (nthSrc l 0) 32 i) (getElem (nthSrc l 1) 32 i) (v.imm.toNat + 1)) s t :=
    plainly_of_vecBody fun _ => rfl
  simp only [hash32_eq] at hhash
  exact hhash

end Sys2Proof.Machine
end

section
namespace Sys2Proof.Machine
open Sys2Proof.Claims

/-! The lanes of a compare (09 R170): each is written on its own. -/

/-- Lane `l` of a predicate set to `b`. -/
def setLane (p : PredWord) (l : Nat) (b : Bool) : PredWord := (p &&& ~~~(1#128 <<< l)) ||| (if b then 1#128 <<< l else 0)

theorem getLsbD_setLane (p : PredWord) (l : Nat) (b : Bool) {j : Nat} (hj : j < 128) :
    (setLane p l b).getLsbD j = if j = l then b else p.getLsbD j := by
  have hbit : (1#128 <<< l).getLsbD j = decide (l = j) := by
    rw [← BitVec.twoPow_eq, BitVec.getLsbD_twoPow]; by_cases h : l = j <;> simp [h, hj]
  have hset : (if b then 1#128 <<< l else 0).getLsbD j = (b && decide (l = j)) := by
    cases b with
    | true => exact hbit
    | false => exact BitVec.getLsbD_zero
  rw [setLane, BitVec.getLsbD_or, BitVec.getLsbD_and, BitVec.getLsbD_not, hbit, hset]
  by_cases h : j = l
  · simp [h]
  · simp [h, Ne.symm h, hj]

/-- Lanes set one after another, where `g` holds. -/
theorem getLsbD_setLanes (g b : Nat → Bool) (p : PredWord) {j : Nat} (hj : j < 128) (n : Nat) :
    ((List.range n).foldl (fun p l => if g l = true then setLane p l (b l) else p) p).getLsbD j
      = if j < n ∧ g j = true then b j else p.getLsbD j := by
  induction n with
  | zero => simp
  | succ n ih =>
    rw [List.range_succ, List.foldl_append]
    by_cases hn : j = n
    · subst hn
      by_cases hg : g j = true
      · simp [hg, getLsbD_setLane _ _ _ hj]
      · simp [hg, ih]
    · have hlt : j < n ↔ j < n + 1 := by omega
      by_cases hg : g n = true
      · simp [hg, getLsbD_setLane _ _ _ hj, hn, ih, hlt]
      · simp [hg, ih, hlt]

section
variable {w m j : Nat}

/-- The elements of a lane are those that begin in it. -/
theorem mem_laneElems (hw : w ∈ [8, 16, 32]) {i : Nat} : i ∈ laneElems w m j ↔ i < m ∧ i * w / 32 = j := by
  simp only [List.mem_cons, List.not_mem_nil, or_false] at hw
  have hlane : i * w / 32 = j ↔ ∃ a < 32 / w, j * (32 / w) + a = i := by
    rcases hw with rfl | rfl | rfl
    · exact ⟨fun h => ⟨i - j * 4, by omega, by omega⟩, fun ⟨a, ha, h⟩ => by omega⟩
    · exact ⟨fun h => ⟨i - j * 2, by omega, by omega⟩, fun ⟨a, ha, h⟩ => by omega⟩
    · exact ⟨fun h => ⟨0, by omega, by omega⟩, fun ⟨a, ha, h⟩ => by omega⟩
  rw [laneElems, List.mem_filterMap, hlane]
  simp only [List.mem_range, Option.ite_none_right_eq_some, Option.some.injEq]
  constructor
  · rintro ⟨a, ha, hm, rfl⟩; exact ⟨hm, a, ha, rfl⟩
  · rintro ⟨hm, a, ha, rfl⟩; exact ⟨a, ha, hm, rfl⟩

/-- What a compare gives a lane: whether it has elements, and the relation holds for each. -/
theorem laneTest_iff (hw : w ∈ [8, 16, 32]) (rel : Nat → Bool) :
    (!(laneElems w m j).isEmpty && (laneElems w m j).all rel) = true
      ↔ (∃ i, i < m ∧ i * w / 32 = j) ∧ ∀ i, i < m → i * w / 32 = j → rel i = true := by
  have hne : (!(laneElems w m j).isEmpty) = true ↔ ∃ i, i < m ∧ i * w / 32 = j := by
    rw [Bool.not_eq_true', List.isEmpty_eq_false_iff_exists_mem]; exact exists_congr fun _ => mem_laneElems hw
  rw [Bool.and_eq_true, hne, List.all_eq_true]
  simp only [mem_laneElems hw, and_imp]

theorem getLsbD_compareLanes (x : State) (v : VWord) (hw : w ∈ [8, 16, 32]) (old : PredWord) (rel : Nat → Bool) (hj : j < 128) :
    if (readP x.me.regs v.pred.toNat).getLsbD j = (v.neg == 1) then
      (compareLanes x v w m old rel).getLsbD j = old.getLsbD j
    else ((compareLanes x v w m old rel).getLsbD j = true
      ↔ (∃ i, i < m ∧ i * w / 32 = j) ∧ ∀ i, i < m → i * w / 32 = j → rel i = true) := by
  have h := getLsbD_setLanes (fun l => (readP x.me.regs v.pred.toNat).getLsbD l != (v.neg == 1))
    (fun l => !(laneElems w m l).isEmpty && (laneElems w m l).all rel) old hj 128
  change (compareLanes x v w m old rel).getLsbD j = _ at h
  rw [h]
  split
  next hg => simp [hg]
  next hg => rw [if_pos ⟨hj, bne_iff_ne.2 hg⟩, laneTest_iff hw]

end

/-- The types of VCMP and VICMP have elements of 8, 16 or 32 bits (09 R166). -/
theorem fmtWidth_of_tyFloat {v : VWord} (h : tyFloat v = true) : fmtWidth v.ty.toNat ∈ [8, 16, 32] := by
  simp only [tyFloat, fmtFloat, Bool.and_eq_true, decide_eq_true_eq] at h
  obtain ⟨h, -⟩ := h
  have hty : v.ty.toNat = 0 ∨ v.ty.toNat = 1 ∨ v.ty.toNat = 2 := by omega
  rcases hty with e | e | e <;> rw [e] <;> decide

theorem fmtWidth_of_tyInt {v : VWord} (h : tyInt v = true) : fmtWidth v.ty.toNat ∈ [8, 16, 32] := by
  simp only [tyInt, fmtInt, fmtSigned, fmtUnsigned, Bool.and_eq_true, Bool.or_eq_true, decide_eq_true_eq] at h
  obtain ⟨h, -⟩ := h
  have hty : v.ty.toNat = 4 ∨ v.ty.toNat = 5 ∨ v.ty.toNat = 6 ∨ v.ty.toNat = 8 ∨ v.ty.toNat = 9 ∨ v.ty.toNat = 10 := by omega
  rcases hty with e | e | e | e | e | e <;> rw [e] <;> decide

/-- A word whose effect is `compareBody`, on elements that lie within lanes. -/
theorem laneWord_of_compareBody {mk : VWord → Instr} {rel : VWord → Nat → Nat → Bool}
    (hx : ∀ v s, exec (mk v) s = issue (mk v) (compareBody v (rel v)) s)
    (hw : ∀ v sl, (mk v).wfIn sl = true → fmtWidth v.ty.toNat ∈ [8, 16, 32]) : LaneWord mk rel := fun v _ _ h =>
  ⟨_, fun x _ _ => ⟨_, rfl, fun _ hj => getLsbD_compareLanes x v (hw v _ (wfIn_of_issuedIn h)) _ _ hj⟩,
    vectorWord_of_vecBody (hx v _) h rfl⟩

/-- A NaN is in no order with any value. -/
theorem unordered_of_nan {x y : FNum} (h : x = .nan ∨ y = .nan) :
    numLt false x y = false ∧ numLt false y x = false ∧ numEq x y = false := by
  rcases h with rfl | rfl
  · cases y <;> exact ⟨rfl, rfl, rfl⟩
  · cases x <;> exact ⟨rfl, rfl, rfl⟩

/-- The ordered relations: a NaN makes all but ne false (09 R170). -/
theorem vcmpOrd_eq (cc : Nat) (x y : FNum) : vcmpOrd cc x y = (if x = .nan ∨ y = .nan then cc == 1
    else match cc with
      | 0 => numEq x y | 1 => !numEq x y | 2 => numLt false x y | 3 => numLt false x y || numEq x y
      | 4 => numLt false y x | _ => numLt false y x || numEq x y) := by
  split
  next h =>
    obtain ⟨hl, hg, he⟩ := unordered_of_nan h
    unfold vcmpOrd
    split <;> simp_all
  next => rfl

/-- The unordered relations: a NaN makes all true (09 R170). -/
theorem vcmpUnord_eq (cc : Nat) (x y : FNum) : vcmpUnord cc x y = (if x = .nan ∨ y = .nan then true
    else match cc with
      | 0 => false | 1 => numEq x y | 2 => numLt false x y | 3 => numLt false x y || numEq x y
      | 4 => numLt false y x | _ => numLt false y x || numEq x y) := by
  have hn : eitherNaN x y = decide (x = .nan ∨ y = .nan) := by simp [eitherNaN, Bool.decide_or, Bool.beq_eq_decide_eq]
  by_cases h : x = .nan ∨ y = .nan
  · unfold vcmpUnord; rw [hn, if_pos h, decide_eq_true h, Bool.true_or]
  · unfold vcmpUnord; rw [hn, if_neg h, decide_eq_false h]; exact Bool.false_or _

/-- The guard chooses the source (09 R171). -/
theorem getElem_chosen (l : List VecWord) (b : Bool) (w i : Nat) : getElem (nthSrc l (if b = true then 0 else 1)) w i
    = if b = true then getElem (nthSrc l 0) w i else getElem (nthSrc l 1) w i := by cases b <;> rfl

theorem vectorCompares : VectorCompares := by
  have hord : LaneWord .vcmpOrdered fun v a b => vcmpOrd v.imm.toNat (decodeFloat v.ty.toNat a) (decodeFloat v.ty.toNat b) :=
    laneWord_of_compareBody (fun _ _ => rfl) fun _ _ h => fmtWidth_of_tyFloat (Bool.and_eq_true_iff.1 h).2
  have hunord : LaneWord .vcmpUnordered fun v a b => vcmpUnord v.imm.toNat (decodeFloat v.ty.toNat a) (decodeFloat v.ty.toNat b) :=
    laneWord_of_compareBody (fun _ _ => rfl) fun _ _ h => fmtWidth_of_tyFloat (Bool.and_eq_true_iff.1 h).2
  have hint : LaneWord .vicmp fun v a b => vicmpRel v.imm.toNat (fmtWidth v.ty.toNat) a b :=
    laneWord_of_compareBody (fun _ _ => rfl) fun _ _ h => fmtWidth_of_tyInt (Bool.and_eq_true_iff.1 h).2
  simp only [vcmpOrd_eq] at hord
  simp only [vcmpUnord_eq] at hunord
  refine ⟨hord, hunord, hint, fun v => ?_⟩
  have hsel : Plainly (.vsel v) fun s t => VectorWord (.vsel v) v (twoSrcs v) true false
      (fun x r l => putElems x v r (fmtWidth v.ty.toNat) ((List.range (Claims.spanOf v x)).map fun i =>
        (i, getElem (nthSrc l (if active x v (fmtWidth v.ty.toNat) i then 0 else 1)) (fmtWidth v.ty.toNat) i))) s t :=
    plainly_of_vecBody fun _ => rfl
  simp only [getElem_chosen] at hsel
  exact hsel

/-! Trees and conversions (09 R174-R176). -/

/-- Writes of values by index, those kept whose index is active: the active indices with their values. -/
theorem filter_active_map (x : State) (v : VWord) (w n : Nat) (f : Nat → Nat) :
    ((List.range n).map fun i => (i, f i)).filter (fun p => active x v w p.1)
      = ((List.range n).filter fun i => active x v w i).map fun i => (i, f i) := List.filter_map

theorem convertWord {mk : VWord → Instr} (hx : ∀ v s, exec (mk v) s = issue (mk v) (rounded v (cvtBody v)) s) (v : VWord) :
    InMode (mk v) v fun m s t => VectorWord (mk v) v [{ field := v.sa, pos := 2, width := fmtWidth v.sc.toNat }] true false
      (eachActive v (fun x => min (vlOf x) (4096 / max (fmtWidth v.sc.toNat) (fmtWidth v.ty.toNat))) fun _ r l i =>
        convert v.sc.toNat v.ty.toNat m (drawBits (drawOf t) m r i) v.imm[0] (getElem (nthSrc l 0) (fmtWidth v.sc.toNat) i)) s t := by
  have h := inMode_of_vecBody (hx v)
  simp only [putActive, filter_active_map] at h
  exact h

theorem treeNode_eq (t : State) (v : VWord) (m r : Nat) : treeNode t v m r = treeAt v t m r := rfl

theorem treeElems_eq (x : State) (v : VWord) (y : VecWord) : treeElems x v (fmtWidth v.ty.toNat) y = treeLeaves v x y := by
  simp only [treeElems, Bool.and_eq_true, decide_eq_true_eq]
  rfl

theorem vectorTreesAndConversions : VectorTreesAndConversions := by
  refine ⟨fun v => ?_, fun v => ?_, ?_, fun v => inMode_of_vecBody fun _ => rfl, fun v => ?_⟩
  · have h : InMode (.vred v) v _ := inMode_of_vecBody fun _ => rfl
    simp only [treeNode_eq, treeElems_eq] at h
    exact h
  · have h : InMode (.vscan v) v _ := inMode_of_vecBody fun _ => rfl
    simp only [treeNode_eq, treeElems_eq] at h
    exact h
  · rintro mk (rfl | rfl)
    · exact convertWord fun _ _ => rfl
    · exact convertWord fun _ _ => rfl
  · have h : InMode (.vunpk v) v _ := inMode_of_vecBody fun _ => rfl
    simp only [putActive, filter_active_map] at h
    exact h

/-- Settles O39: compares lane by lane through `getLsbD_compareLanes`, the trees as the model walks them, and conversions as writes of the
active indices (`filter_active_map`). -/
theorem comparesAndConversions : Obligations.ComparesAndConversions := ⟨vectorCompares, vectorTreesAndConversions⟩

end Sys2Proof.Machine
end

section
namespace Sys2Proof.Machine
open Sys2Proof.Claims

/-! RHO stands for the repetition a word goes on from (05 R104): no operation of the memory machine and none on q registers or channels
touches it. -/
section
variable (s : State)

theorem rho_of_outer {s t : State} (h : outer t = outer s) : t.me.rho = s.me.rho :=
  congrArg (fun u => u.me.rho) (show outer t = outer s from h)

theorem rho_ite {s a b : State} {p : Prop} [Decidable p] (ha : a.me.rho = s.me.rho) (hb : b.me.rho = s.me.rho) :
    (if p then a else b).me.rho = s.me.rho := by split <;> assumption

theorem foldl_me_rho {α : Type} {f : State → α → State} (hf : ∀ u a, (f u a).me.rho = u.me.rho) (l : List α) (s : State) :
    (l.foldl f s).me.rho = s.me.rho := by
  induction l generalizing s with
  | nil => rfl
  | cons a rest ih => rw [List.foldl_cons, ih, hf]

@[simp] theorem setQ_me_rho (n : Nat) (q : QReg) : (setQ s n q).me.rho = s.me.rho := rfl
@[simp] theorem setMq_me_rho (n : Nat) (m : MqReg) : (setMq s n m).me.rho = s.me.rho := rfl
@[simp] theorem qPop_me_rho (n : Nat) : (qPop s n).me.rho = s.me.rho := rfl
@[simp] theorem chanPop_me_rho (c : Nat) : (chanPop s c).me.rho = s.me.rho := rfl
@[simp] theorem chanPush_me_rho (c : Nat) (p : ChPayload) : (chanPush s c p).me.rho = s.me.rho := rfl
@[simp] theorem acquireS_me_rho (n : Nat) : (acquireS s n).me.rho = s.me.rho := rfl
@[simp] theorem knowState_me_rho (h v n : Nat) : (knowState s h v n).me.rho = s.me.rho := rfl
@[simp] theorem readOver_me_rho : (readOver s).me.rho = s.me.rho := rfl

/-! Reads of the S path, and entries under way (11 R212, R220). -/

@[simp] theorem drainSTo_me_rho (n : Nat) : (drainSTo s n).me.rho = s.me.rho := rho_of_outer (outer_departSN ..)
@[simp] theorem departBelow_me_rho (l : Nat) : (departBelow s l).me.rho = s.me.rho := drainSTo_me_rho ..

@[simp] theorem readNext_me_rho (older later : List SCmd) : (readNext s older later).me.rho = s.me.rho := by
  induction later generalizing older with
  | nil => rfl
  | cons c rest ih =>
    unfold readNext; split
    · exact ih _
    · exact rho_of_outer (outer_readSector ..)

@[simp] theorem readStep_me_rho : (readStep s).me.rho = s.me.rho := by
  have hd : (departS s).me.rho = s.me.rho := rho_of_outer (outer_departS s)
  unfold readStep; (repeat' split) <;> simp [hd]

theorem readStepN_me_rho (n : Nat) (s : State) : (readStepN n s).me.rho = s.me.rho := by
  induction n generalizing s with
  | zero => rfl
  | succ k ih => exact (ih _).trans (readStep_me_rho s)

@[simp] theorem readBelow_me_rho (l : Nat) : (readBelow s l).me.rho = s.me.rho := by
  unfold readBelow; dsimp only; split
  · rfl
  · exact readStepN_me_rho ..

@[simp] theorem partNext_me_rho (l : Nat) (ps : List SPiece) : (partNext s l ps).1.me.rho = s.me.rho := by
  unfold partNext; split
  · rfl
  · exact rho_of_outer (outer_touchRun ..)

theorem partAll_me_rho (n l : Nat) (ps : List SPiece) (s : State) : (partAll n s l ps).1.me.rho = s.me.rho := by
  induction n generalizing s ps with
  | zero => rfl
  | succ k ih => exact (ih _ _).trans (partNext_me_rho ..)

@[simp] theorem endQPart_me_rho (n : Nat) : (endQPart s n).me.rho = s.me.rho := partAll_me_rho ..
@[simp] theorem endMqPart_me_rho (n : Nat) : (endMqPart s n).me.rho = s.me.rho := partAll_me_rho ..

@[simp] theorem endParts_me_rho : (endParts s).me.rho = s.me.rho := by
  unfold endParts; split
  · rfl
  · exact (foldl_me_rho endMqPart_me_rho _ _).trans (foldl_me_rho endQPart_me_rho _ _)

theorem readyS_me_rho {s t : State} {l : Nat} {ps : List SPiece} (h : readyS s l ps = some t) : t.me.rho = s.me.rho := by
  simp only [readyS, Option.ite_none_left_eq_some] at h
  obtain ⟨-, h⟩ := h
  split at h
  · rw [← Option.some.inj h]; simp
  · obtain ⟨-, h⟩ := Option.ite_none_left_eq_some.1 h
    rw [← Option.some.inj h]; simp

/-! Reads through checked runs (12 R228, R230; 13 R268, R274). -/

@[simp] theorem unpark_me_rho : (unpark s).me.rho = s.me.rho := by
  have ha : ∀ (u : State) n, (acquire u n).me.rho = u.me.rho :=
    fun u n => rho_of_outer ((outer_invalidate ..).trans (outer_performAll u))
  unfold unpark; dsimp only; (repeat' split) <;> simp [ha]

@[simp] theorem learn_me_rho (l : List ((Nat × Nat × Acc1) × Reply)) : (learn s l).me.rho = s.me.rho := by
  have h : ∀ far : List ((Nat × Nat × Acc1) × Reply), (far.foldl (fun u p => match p.2 with
      | .refused 0x0401 => knowState u (p.1.2.2.remote.getD 0) (p.1.2.2.ver.getD 0) 2
      | _ => knowState u (p.1.2.2.remote.getD 0) (p.1.2.2.ver.getD 0) 1) s).me.rho = s.me.rho :=
    fun _ => foldl_me_rho (fun u p => by split <;> rfl) _ _
  unfold learn; dsimp only; split
  · exact h _
  · exact h _

@[simp] theorem fabricFetch_me_rho (i h v o n : Nat) (b : Bool) : (fabricFetch s i h v o n b).1.me.rho = s.me.rho := by
  unfold fabricFetch; dsimp only; split
  · rfl
  · split
    · rfl
    · exact rho_of_outer (t := sendPacket ..) ((outer_sendPacket ..).trans (outer_drawAsk s))

theorem fabricRuns_me_rho (rs : List (Nat × Nat × Acc1)) (i : Nat) (s : State) : (fabricRuns s i rs).1.me.rho = s.me.rho := by
  induction rs generalizing s i with
  | nil => rfl
  | cons r rest ih =>
    obtain ⟨a, n, acc⟩ := r
    unfold fabricRuns
    split
    · have k := ih i s
      split <;> rename_i e <;> rw [e] at k <;> exact k
    next home _ =>
      have f := fabricFetch_me_rho s i home (acc.ver.getD 0) acc.key n acc.fill
      split <;> rename_i e <;> rw [e] at f
      · exact f
      next u _ =>
        have k := ih (i + 1) u
        split <;> rename_i e <;> rw [e] at k <;> exact k.trans f

/-- The state in which the homes are asked: older reads have performed, and older writes to the runs' bytes have departed. -/
def askingState (l : Nat) (rs : List (Nat × Nat × Acc1)) : State :=
  if rs.any (awayBefore (readBelow s l) (cmdsBelow (readBelow s l) l)) then departBelow (readBelow s l) l else readBelow s l

theorem askHomes_eq (l : Nat) (rs : List (Nat × Nat × Acc1)) : askHomes s l rs =
    if rs.all fun r => r.2.2.remote.isNone then (s, .ok (rs.map fun _ => .bytes []))
    else if unreadS (cmdsBelow (askingState s l rs) l) ≠ 0
        ∨ rs.any (awayBefore (askingState s l rs) (cmdsBelow (askingState s l rs) l)) = true then
      (askingState s l rs, .error (againLater (askingState s l rs)))
    else match fabricRuns (askingState s l rs) 0 rs with
      | (w, none) => (w, .error w.me.wait)
      | (w, some bs) => (learn w (rs.zip bs), .ok bs) := rfl

@[simp] theorem askingState_me_rho (l : Nat) (rs : List (Nat × Nat × Acc1)) : (askingState s l rs).me.rho = s.me.rho := by
  unfold askingState; split <;> simp

@[simp] theorem askHomes_me_rho (l : Nat) (rs : List (Nat × Nat × Acc1)) : (askHomes s l rs).1.me.rho = s.me.rho := by
  have k := (fabricRuns_me_rho rs 0 (askingState s l rs)).trans (askingState_me_rho s l rs)
  rw [askHomes_eq]
  split
  · rfl
  · split
    · exact askingState_me_rho ..
    · split <;> rename_i e <;> rw [e] at k
      · exact k
      · exact (learn_me_rho ..).trans k

@[simp] theorem fetchRuns_me_rho (l : Nat) (hs : List Handle) (rs : List (Nat × Nat)) : (fetchRuns s l hs rs).1.me.rho = s.me.rho := by
  have k : (checkPrefix s hs rs false).1.me.rho = s.me.rho := rho_of_outer (outer_checkPrefix ..)
  unfold fetchRuns
  split
  next e => rw [e] at k; exact k
  next t ok stop _ e =>
    rw [e] at k
    have a := ((askHomes_me_rho (unpark t) l ok).trans (unpark_me_rho t)).trans k
    split <;> rename_i e <;> rw [e] at a
    · exact a
    · (repeat' split) <;> exact a

@[simp] theorem readOpen_me_rho (l : Nat) (hs : List Handle) (rs : List (Nat × Nat)) : (readOpen s l hs rs).1.me.rho = s.me.rho := by
  have k := fetchRuns_me_rho s l hs rs
  unfold readOpen
  split <;> rename_i e <;> rw [e] at k
  · exact k
  · split
    · exact k
    next hr => exact (readyS_me_rho hr).trans k

/-! Entries fetched and pushed (12 R233-R237). -/

@[simp] theorem qOpen_me_rho (n m : Nat) : (qOpen s n m).1.me.rho = s.me.rho := by
  have k := readOpen_me_rho s (takerLsn s .v) (qOf s n).hands (entryRuns (qOf s n) m)
  unfold qOpen; split
  · rfl
  · split <;> rename_i e <;> rw [e] at k <;> exact k

@[simp] theorem qClose_me_rho (n m : Nat) : (qClose s n m).me.rho = s.me.rho := by
  unfold qClose; dsimp only; split <;> simp

@[simp] theorem qFetch_me_rho (n cap : Nat) : (qFetch s n cap).1.me.rho = s.me.rho := by
  unfold qFetch; split
  · rfl
  next m _ =>
    have k := qOpen_me_rho s n m
    split
    next e => rw [e] at k; simpa using k
    · exact k

/-- A full FIFO with its oldest entry taken out for the word. -/
def roomForEntry (n : Nat) : State :=
  if qCap ≤ (qOf s n).fifo.length then
    setQ s n { qOf s n with held := (qOf s n).held ++ (qOf s n).fifo.take 1, fifo := (qOf s n).fifo.tail }
  else s

@[simp] theorem roomForEntry_me_rho (n : Nat) : (roomForEntry s n).me.rho = s.me.rho := by
  unfold roomForEntry; split <;> rfl

theorem qFetchTo_succ (f n k : Nat) : qFetchTo (f + 1) s n k =
    if k ≤ (qEntries (qOf s n)).length then (s, none)
    else match qFetch (roomForEntry s n) n qCap with | (t, none) => qFetchTo f t n k | r => r := rfl

theorem qFetchTo_me_rho (f n k : Nat) (s : State) : (qFetchTo f s n k).1.me.rho = s.me.rho := by
  induction f generalizing s with
  | zero => rfl
  | succ f ih =>
    have g := (qFetch_me_rho (roomForEntry s n) n qCap).trans (roomForEntry_me_rho s n)
    rw [qFetchTo_succ]
    split
    · rfl
    · split
      next e => rw [e] at g; exact (ih _).trans g
      · exact g

@[simp] theorem qReadyFrom_me_rho (v : VWord) (us : List SrcUse) (r n : Nat) : (qReadyFrom s v us r n).1.me.rho = s.me.rho := by
  unfold qReadyFrom; split
  · rfl
  · exact qFetchTo_me_rho ..

theorem qReadyAllFrom_me_rho (l : List Nat) (v : VWord) (us : List SrcUse) (r : Nat) (s : State) :
    (qReadyAllFrom l s v us r).1.me.rho = s.me.rho := by
  induction l generalizing s with
  | nil => rfl
  | cons n rest ih =>
    have k := qReadyFrom_me_rho s v us r n
    unfold qReadyAllFrom; split
    next e => rw [e] at k; exact (ih _).trans k
    · exact k

theorem pushWrites_me_rho (hs : List Handle) (rs : List (Nat × Nat)) (bs : List Byte) (s : State) :
    (pushWrites s hs rs bs).1.me.rho = s.me.rho := by
  induction rs generalizing s bs with
  | nil => rfl
  | cons r rest ih =>
    obtain ⟨a, n⟩ := r
    have k := (ih (bs.drop n) (checkVia s hs a true).1).trans (rho_of_outer (outer_checkVia s hs a true))
    unfold pushWrites; dsimp only
    split <;> exact k

@[simp] theorem qRoom_me_rho (n : Nat) : (qRoom s n).me.rho = s.me.rho := by
  unfold qRoom; split <;> simp

@[simp] theorem enqueueS_me_rho (c : SCmd) : (enqueueS s c).me.rho = s.me.rho := endParts_me_rho s

@[simp] theorem qPush_me_rho (n : Nat) (x : VecWord) : (qPush s n x).me.rho = s.me.rho := by
  simp [qPush, pushWrites_me_rho]

/-! A vector word's repetitions. -/

@[simp] theorem popAll_me_rho (v : VWord) (us : List SrcUse) (r : Nat) : (popAll s v us r).me.rho = s.me.rho := by
  have hq := foldl_me_rho (f := qPop) qPop_me_rho (qPops v us r) s
  unfold popAll; dsimp only; split
  · exact hq
  · exact (foldl_me_rho chanPop_me_rho _ _).trans hq

@[simp] theorem putElems_me_rho (v : VWord) (r w : Nat) (l : List (Nat × Nat)) : (putElems s v r w l).me.rho = s.me.rho := by
  unfold putElems; split <;> simp

theorem vecReps_me_rho {v : VWord} {us : List SrcUse} {put : State → Nat → List VecWord → State}
    (hp : ∀ x r l, (put x r l).me.rho = x.me.rho) {n r : Nat} {s u : State} (h : vecReps v us put n r s = .ok u) :
    u.me.rho = s.me.rho := by
  induction n generalizing r s with
  | zero => rw [← Except.ok.inj h]
  | succ k ih =>
    unfold vecReps at h
    split at h
    · cases h
    · rw [ih h, hp, popAll_me_rho]

end
end Sys2Proof.Machine
end

section
namespace Sys2Proof.Machine
open Sys2Proof.Claims

/-! Accumulator rows (09 R179, R180). -/

@[simp] theorem noteAcc_me (s : State) (a : Acc) : (noteAcc s a).me = s.me := by unfold noteAcc; split <;> rfl

/-- What a repetition of VACCRD writes, once an error of the accumulator is counted. -/
def accReadPut (v : VWord) (m : Nat) (t y : State) (k : Nat) (l : List VecWord) : State :=
  eachActive v (fun x => min (vlOf x) 128) (fun x r _ i =>
      let row := 2 * (v.imm.toNat + r) + i / 64
      encodeFloat v.ty.toNat m (drawBits (drawOf t) m r (64 * row + i % 64)) false
        (decodeFloat 0 (accElem (readA x.me.regs v.sa.toNat) row (i % 64))))
    (noteAcc y (readA y.me.regs v.sa.toNat)) k l

theorem accReadBody_eq (v : VWord) : accReadBody v = fun m t => vecBody v [] true false (accReadPut v m t) t := by
  funext m t
  refine congrArg (fun put => vecBody v [] true false put t) (funext fun y => funext fun k => funext fun l => ?_)
  simp only [accReadPut, eachActive, noteAcc_me, actives]

/-- Values set at places from `c` on: a place holds its value where its index is in the list, else what it held. -/
theorem getD_foldl_set {α : Type} (g : Nat → α) (c : Nat) (d : α) {j : Nat} (l : List Nat) {e : List α} (hj : j < e.length) :
    (l.foldl (fun e i => e.set (c + i) (g i)) e).getD j d = if c ≤ j ∧ j - c ∈ l then g (j - c) else e.getD j d := by
  induction l generalizing e with
  | nil => simp
  | cons i rest ih =>
    rw [List.foldl_cons, ih (by rwa [List.length_set])]
    by_cases hr : c ≤ j ∧ j - c ∈ rest
    · rw [if_pos hr, if_pos ⟨hr.1, List.mem_cons_of_mem _ hr.2⟩]
    · rw [if_neg hr]
      by_cases hi : c + i = j
      · have hji : j - c = i := by omega
        rw [if_pos ⟨by omega, hji ▸ List.mem_cons_self⟩, hji, hi, getD_of_lt (by rwa [List.length_set]), List.getElem_set_self]
      · have hn : ¬(c ≤ j ∧ j - c ∈ i :: rest) := fun ⟨hc, hm⟩ =>
          (List.mem_cons.1 hm).elim (fun h => hi (by omega)) fun h => hr ⟨hc, h⟩
        rw [if_neg hn, getD_of_lt (by rwa [List.length_set]), getD_of_lt hj, List.getElem_set_ne hi]

theorem accElems_length {a : Acc} (h : a.elems.length = 4096) : (accElems a).length = 4096 := by
  unfold accElems; split
  · exact h
  · exact List.length_replicate

/-- An accumulator that is not valid reads zeros (03 R50). -/
theorem accElems_getD {a : Acc} {j : Nat} (hj : j < 4096) :
    (accElems a).getD j 0 = if a.valid = true then a.elems.getD j 0 else 0 := by
  unfold accElems; split
  · rfl
  · rw [getD_of_lt (by rwa [List.length_replicate]), List.getElem_replicate]

/-! VDOT4 (05 R104, 09 R184). -/

theorem dot4_eq (a b : VecWord) (i : Nat) :
    let term := fun j => signedOf 8 (getElem a 8 (4 * i + j)) * signedOf 8 (getElem b 8 (4 * i + j))
    dot4 a b i = term 0 + term 1 + term 2 + term 3 := by
  simp [dot4, List.range_succ, Int.add_assoc]

theorem oldLane_eq (x : State) (v : VWord) (r i : Nat) : (oldLane x v r i : Int)
    = if opFile v.dst = 0 then (getElem (readV x.me.regs (regAt v v.dst 3 r)) 32 i : Int) else 0 := by
  unfold oldLane; split <;> rfl

/-- A repetition's lanes: the four signed byte products added to what the lane held. -/
theorem dotPut_eq {v : VWord} (hw : fmtWidth v.ty.toNat = 32) : dotPut v = eachActive v (fun x => min (vlOf x) 32) fun x r l i =>
    let byte := fun (k j : Nat) => signedOf 8 (getElem (nthSrc l k) 8 (4 * i + j))
    (((if opFile v.dst = 0 then (getElem (readV x.me.regs (regAt v v.dst 3 r)) 32 i : Int) else 0)
      + byte 0 0 * byte 1 0 + byte 0 1 * byte 1 1 + byte 0 2 * byte 1 2 + byte 0 3 * byte 1 3) % 2 ^ 32).toNat := by
  funext x r l
  have hlen : min (lenOf x 32) 32 = min (vlOf x) 32 := by simp only [lenOf]; omega
  simp only [dotPut, eachActive, hw, hlen, actives, lowBits, oldLane_eq, dot4_eq, Int.add_assoc]

section
variable {v : VWord} {us : List SrcUse}

section
variable {put : State → Nat → List VecWord → State} {k r : Nat} {x : State}

theorem vecReps_halts {e : Halt} (h : srcVals x v us r = .error e) : vecReps v us put (k + 1) r x = .error e := by
  simp only [vecReps, h]

theorem vecReps_succ {l : List VecWord} (h : srcVals x v us r = .ok l) :
    vecReps v us put (k + 1) r x = vecReps v us put k (r + 1) (put (popAll x v us r) r l) := by
  simp only [vecReps, h]

theorem dotReps_succ {l : List VecWord} (h : srcVals x v us r = .ok l) :
    dotReps v us (k + 1) r x = dotReps v us k (r + 1) (dotPut v (popAll x v us r) r l) := by
  simp only [dotReps, h]

end

theorem dotReps_of_vecReps {n r : Nat} {x u : State} (h : vecReps v us (dotPut v) n r x = .ok u) :
    dotReps v us n r x = (u, r + n, none) := by
  induction n generalizing r x with
  | zero => rw [← Except.ok.inj h]; rfl
  | succ k ih =>
    cases hl : srcVals x v us r with
    | error e => exact nomatch (vecReps_halts hl).symm.trans h
    | ok l =>
      rw [vecReps_succ hl] at h
      rw [dotReps_succ hl, ← Nat.add_assoc, Nat.add_right_comm]
      exact ih h

end

/-- A VDOT4 that is done goes on nowhere. -/
def dotDone (u : State) : State := { u with me := { u.me with rho := if u.me.flow.lsn ≤ frontier u.me then 0 else u.me.rho } }

theorem dotDone_of_rho {u : State} (h : u.me.rho = 0) : dotDone u = u := by
  have : (if u.me.flow.lsn ≤ frontier u.me then 0 else u.me.rho) = u.me.rho := by rw [h, ite_self]
  rw [dotDone, this]

/-- In logical form RHO ends with its word. -/
theorem completed_dotDone {i : Instr} {s u : State} (hf : s.me.form = .logical) :
    completed i s (dotDone u) .fall = completed i s u .fall := by
  simp only [completed, hf]; rfl

theorem dotFrom_zero {t : State} (h : t.me.rho = 0) : dotFrom t = 0 := by rw [dotFrom, h, ite_self]

theorem dotPut_me_rho (v : VWord) (x : State) (r : Nat) (l : List VecWord) : (dotPut v x r l).me.rho = x.me.rho := putElems_me_rho ..

section
variable {v : VWord} {t : State}

/-- The repetitions from `r` on done, where none before them has entries of channels to skip. -/
theorem dotBody_done {x u : State} {r : Nat} (h : dotFrom t = r) (hp : t.me.form = .logical ∨ r = 0)
    (hq : qChecksFrom t v [useA v 32, useB v 32] true (vlOf t != 0) r = none) (hl : vlOf t ≠ 0) (hr : ¬dstRoom t v true = false)
    (hf : qReadyAllFrom (List.range 16) t v [useA v 32, useB v 32] r = (x, none))
    (hu : vecReps v [useA v 32, useB v 32] (dotPut v) (v.rep.toNat + 1 - r) r x = .ok u) : dotBody v v t = .done (dotDone u) := by
  subst h
  have hreps := dotReps_of_vecReps hu
  cases hform : t.me.form with
  | logical => simp only [dotBody, hq, if_neg hl, if_neg hr, hf, hform, hreps]; rfl
  | slices =>
    have h0 : dotFrom t = 0 := hp.resolve_left (by rw [hform]; nofun)
    have hskip : List.range (dotFrom t) = [] := by rw [h0]; rfl
    simp only [dotBody, hq, if_neg hl, if_neg hr, hf, hform, hskip, List.foldl_nil, hreps]; rfl

/-- From repetition 0 on VDOT4 is a vector word. -/
theorem dotBody_answers (h : t.me.rho = 0) : VectorAnswers (dotBody v v) v [useA v 32, useB v 32] true false (dotPut v) t where
  refused hq := by
    simp only [Bool.false_or, qChecks] at hq
    simp only [dotBody, dotFrom_zero h, hq]
  skips hq hl := by
    simp only [Bool.false_or, qChecks] at hq hl
    have h0 : vlOf t = 0 := by simpa using hl
    simp only [dotBody, dotFrom_zero h, hq, if_pos h0, Bool.and_eq_true]
  full hq hl hr := by
    simp only [Bool.false_or, qChecks] at hq hl
    have h0 : vlOf t ≠ 0 := by simpa using hl
    simp only [dotBody, dotFrom_zero h, hq, if_neg h0, if_pos hr]
  fetches hq hl hr hf := by
    simp only [Bool.false_or, qChecks, qReadyAll] at hq hl hf
    have h0 : vlOf t ≠ 0 := by simpa using hl
    simp only [dotBody, dotFrom_zero h, hq, if_neg h0, if_neg hr, hf]
  done {x u} hq hl hr hf hu := by
    have hx : (qReadyAll (List.range 16) t v [useA v 32, useB v 32]).1.me.rho = t.me.rho := qReadyAllFrom_me_rho ..
    rw [hf] at hx
    have hu0 : u.me.rho = 0 := (vecReps_me_rho (dotPut_me_rho v) hu).trans (hx.trans h)
    have h0 : vlOf t ≠ 0 := by simpa using hl
    rw [dotBody_done (dotFrom_zero h) (.inr rfl) hq h0 hr hf hu, dotDone_of_rho hu0]

end

/-- The type of VDOT4 is i32 (09 R184). -/
theorem fmtWidth_of_vdot4 {v : VWord} {s t : State} (h : issuedIn (.vdot4 v) s = some t) : fmtWidth v.ty.toNat = 32 := by
  have hw : (v2Ok (s.me.form == .slices) v && v.ty == 6 && v.rnd == 0) = true := wfIn_of_issuedIn h
  simp only [Bool.and_eq_true, beq_iff_eq] at hw
  obtain ⟨⟨-, hty⟩, -⟩ := hw
  rw [hty]; rfl

/-- Settles O40: the moves by their bodies; the rows of an accumulator by `accReadBody_eq` and `getD_foldl_set`; VDOT4 by what its body
answers from repetition 0 on (`dotBody_answers`), and where a fault left it (`dotBody_done`). -/
theorem vectorMoves : Obligations.VectorMoves := by
  refine ⟨fun v => plainly_of_vecBody fun _ => rfl, fun v => plainly_of_vecBody fun _ => rfl, fun v => plainly_of_vecBody fun _ => rfl,
    fun v => plainly_of_vecBody fun _ => rfl, fun v => plainly_of_vecBody fun _ => rfl, fun v => plainly_of_vecBody fun _ => rfl,
    fun v => inMode_of_vecBody (put := accReadPut v) fun _ => ?_, fun v s t h => ?_, fun v s t h => ?_⟩
  · rw [← accReadBody_eq]; rfl
  · have hput : VectorWord (.vaccwr v) v _ false false _ s t := vectorWord_of_vecBody (body := accWriteBody v) rfl h rfl
    refine ⟨_, fun x r l _ => ?_, hput⟩
    refine ⟨_, rfl, rfl, rfl, rfl, fun j hj hlen => ?_⟩
    rw [getD_foldl_set _ _ _ _ (by rwa [accElems_length hlen]), accElems_getD hj]
    simp only [actives, List.mem_filter, List.mem_range]
  · intro us put
    have hput : put = dotPut v := (dotPut_eq (fmtWidth_of_vdot4 h)).symm
    clear_value put; subst hput
    refine ⟨fun h0 => vectorWord_of_answers rfl h (dotBody_answers h0), fun hf hl hv hq x u hx hu => ?_⟩
    have ht : t.me.form = .logical := (issuedIn_form h).trans hf
    have hroom : ¬dstRoom t v true = false := by simp [dstRoom, ht]
    rw [← completed_dotDone hf]
    exact issue_done h (dotBody_done (if_pos hl) (.inl ht) (by rwa [bne_iff_ne.2 hv]) hv hroom hx hu)

end Sys2Proof.Machine
end
